-- ==== Sys2Proof/Word.lean ====
section
/-! DEFINITION. The word types of the die and their plainest operations: bytes, 64-bit words, and little-endian lists of bytes (R21). -/

namespace Sys2Proof

/-- One byte. -/
abbrev Byte := BitVec 8

/-- A 64-bit register or register part. -/
abbrev Word := BitVec 64

/-- A 32-bit word. -/
abbrev Half := BitVec 32

/-- The low `n` bytes of a number, least significant first (R21). -/
def leBytes : Nat → Nat → List Byte
  | 0, _ => []
  | n + 1, v => BitVec.ofNat 8 v :: leBytes n (v / 256)

/-- The number that a little-endian list of bytes holds (R21). -/
def leNat : List Byte → Nat
  | [] => 0
  | b :: bs => b.toNat + 256 * leNat bs

end Sys2Proof
end

