-- ==== Sys2Proof/Machine/Bits.lean ====
section
/-! DEFINITION. Bit fields, sign extension and small list helpers that the meanings share. -/

namespace Sys2Proof.Machine

/-- Bits `[lo + w - 1 : lo]` of a number. -/
def fld (v lo w : Nat) : Nat := (v >>> lo) % 2 ^ w

/-- Bit `i` of a number. -/
def bit (v i : Nat) : Bool := v.testBit i

/-- `v` with bits `[lo + w - 1 : lo]` replaced by the low `w` bits of `x`. -/
def setFld (v lo w x : Nat) : Nat := v - (fld v lo w) * 2 ^ lo + (x % 2 ^ w) * 2 ^ lo

/-- A Bool as the number 0 or 1. -/
def b2n (b : Bool) : Nat := if b then 1 else 0

/-- Bits `[hi : lo]` of a 64-bit word as a number. -/
def wfld (v : Word) (lo w : Nat) : Nat := fld v.toNat lo w

/-- A 64-bit word with one field replaced. -/
def wset (v : Word) (lo w x : Nat) : Word := BitVec.ofNat 64 (setFld v.toNat lo w x)

/-- The two's-complement value of the low `w` bits of a number. -/
def sext (w v : Nat) : Int :=
  let x := v % 2 ^ w
  if x < 2 ^ (w - 1) then (x : Int) else (x : Int) - (2 ^ w : Nat)

/-- The low `w` bits of a two's-complement integer, as a number. -/
def wrapN (w : Nat) (x : Int) : Nat := (x % (2 ^ w : Nat)).toNat

/-- Round up to a multiple of `k`. -/
def ceilDiv (a k : Nat) : Nat := (a + k - 1) / k

/-- The order of the low `b` bits reversed (R203). -/
def revBits : Nat → Nat → Nat
  | 0, _ => 0
  | b + 1, j => (j % 2) * 2 ^ b + revBits b (j / 2)

/-- Replace element `i` of a list. -/
def setAt {α : Type} (l : List α) (i : Nat) (x : α) : List α := l.set i x

/-- Remove element `i` of a list. -/
def dropAt {α : Type} (l : List α) (i : Nat) : List α := l.eraseIdx i

/-- Saturating increment of a 64-bit counter: the new value, and whether it has reached its largest value (R473). -/
def satInc (v n : Nat) : Nat × Bool :=
  let m := 2 ^ 64 - 1
  if m ≤ v + n then (m, true) else (v + n, false)

end Sys2Proof.Machine
end

