-- ==== Sys2Proof/Syntax.lean ====
section
/-! DEFINITION. The commands of the die: one constructor of Instr per row of spec/opcode_table.json, with the operands that the spec gives the row. -/

namespace Sys2Proof

/-- A G, F or V register field of an instruction word (R201). -/
abbrev Reg := BitVec 5

/-- What the protection of a store reports for an access: nothing, a corrected error, an uncorrectable one (R333, R334, R463), or a stack command that fails its parity check on the eighth repeat too (R326). -/
inductive Ecc where
  | clean
  | corrected
  | uncorrectable
  | parity
deriving DecidableEq, Repr

/-- The fields of an M-format instruction (R201, R202), and what the code reports for the bytes read. -/
structure MOp where
  t : Reg
  b : Reg
  am : BitVec 3
  disp : BitVec 13
  ecc : Ecc := .clean
deriving DecidableEq, Repr

/-- What the flash discovery of R422 finds: a fast or a fallback table, with the highest frequency in MHz that it allows, or no valid header. -/
inductive Sfdp where
  | xspi (mhz : Nat)
  | spi (mhz : Nat)
  | absent
deriving DecidableEq, Repr

/-- A protected unit of storage (R463): an 8-byte unit of a felt; a byte offset of a core's tile space, of a B buffer (bit 31 and the offset) or of the reams as R463 writes it; a line of a core's L2, L1I or L1D; a page of its TLBs; a line in cluster `c`'s vat, cached or in its window; a granule in its stack, and the command that writes it (R326); the register files, store buffer and reorder buffer of a core, or for 40 the mill controller's memory; a flit of the mesh; and the directory of a cluster's vat, or with 8 added of a stack port. -/
inductive Loc where
  | felt (k unit : Nat)
  | tile (k off : Nat)
  | bbuf (k off : Nat)
  | ream (k off : Nat)
  | l2 (k line : Nat)
  | l1i (k line : Nat)
  | l1d (k line : Nat)
  | tlb (k page : Nat)
  | vat (c line : Nat)
  | stack (granule : Nat)
  | stackWrite (granule : Nat)
  | logic (k : Nat)
  | mesh
  | directory (d : Nat)
deriving DecidableEq, Repr

/-- What the board and the silicon give the die at power-up: the flash with its images (R421, R423), the straps SMBA (R419), the fuses (R429, R476), the core slots that fail the self-test (R433), and the errors that its storage will develop: for each unit in turn, what its protection reports for its next reads (R463, log 80). -/
structure Board where
  sfdp : Sfdp := .absent
  large : Bool := false
  primary : List Byte := []
  fallback : List Byte := []
  smba : BitVec 3 := 0
  digest0 : List Byte := []
  digest1 : Option (List Byte) := none
  revoked0 : Bool := false
  dbgdis : Bool := false
  defects : List Nat := []
  upsets : List (Loc × Ecc) := []
deriving DecidableEq, Repr

/-- The header and payload of a Delnel flit (R367). -/
structure Flit where
  dst : BitVec 12
  src : BitVec 12
  typ : BitVec 8
  hops : BitVec 3
  vl : BitVec 2
  last : Bool
  len : Nat
  addr : Nat
  tag : BitVec 16
  step : BitVec 16
  subject : BitVec 12
  cls : BitVec 4
  status : BitVec 4
  count : BitVec 32
  payload : List Byte
deriving DecidableEq, Repr

/-- A link block on the wire (R363): the headers and the payloads of its five flit slots, its link control (sequence number, acknowledgements, credit returns of the four lanes, port command), and its CRC-64. -/
structure LinkBlock where
  seq : Nat
  heads : List (List Byte)
  payloads : List (List Byte)
  ack : Option Nat
  nak : Option Nat
  credits : List Nat
  park : Bool
  crc : BitVec 64
deriving DecidableEq, Repr

/-- What a host write to the port's configuration space sets (R414): Bus Master Enable, the completion timeout range and its disable, the maximum payload and read request sizes as PCIe codes them, ECRC generation and checking, bits of the AER uncorrectable and correctable status that it clears, and MSI-X and the power state. -/
inductive CfgWrite where
  | busMaster (on : Bool)
  | timeoutRange (r : BitVec 4)
  | timeoutDisable (on : Bool)
  | maxPayload (code : BitVec 3)
  | maxReadRequest (code : BitVec 3)
  | ecrc (gen check : Bool)
  | aerClear (uncorrectable correctable : BitVec 32)
  | msixEnable (on : Bool)
  | msixMaskAll (on : Bool)
  | dState (d3 : Bool)
deriving DecidableEq, Repr

/-- What a DEBUG data register scan asks for (R476). -/
inductive DebugOp where
  | read (off size : Nat)
  | write (off size value : Nat)
  | halt (k : Nat)
  | singleStep (k : Nat)
  | resume (k : Nat)
deriving DecidableEq, Repr

/-- How an access of the die to the host ends (R401, R472). -/
inductive HostEnd where
  | ok
  | timeout
  | unsupported
  | aborted
deriving DecidableEq, Repr

/-- What MOVER_GO writes to MILL_MVQn (R399), and the batch that the mill controller has placed in its SRAM for it. -/
structure MoverStart where
  value : Word
  batch : List Byte := []
deriving DecidableEq, Repr

/-- The data of an SMBus write, with the packet error code when it brings one (R419, R420). -/
structure SmbWrite (n : Nat) where
  value : BitVec n
  pec : Option Byte := none
deriving DecidableEq, Repr

/-- Why a line is filled into a vat (R300). -/
inductive FillKind where
  | coreMiss
  | hollanderMiss (stream : Bool)
  | vfetch
  | hint
deriving DecidableEq, Repr

/-- The commands. `k` is an agent number (0 to 35 core slots, 36 to 39 service cores), `c` a cluster, `sl` a vat slice, `p` a stack port or Delnel port, `ag` the agent that makes an access (R395). -/
inductive Instr where
  -- boot
  | powerUpReset (board : Board)
  | stackTrainingDone (p : Nat) (ok : Bool)
  | stackTrainingTimeout (p : Nat)
  | hostboot (image again : List Byte) (hostEnd : HostEnd)
  -- system instructions
  | nop (k : Nat)
  | halt (k : Nat)
  | syncx (k : Nat)
  | isync (k : Nat)
  | fenceFull (k : Nat)
  | fenceLl (k : Nat)
  | fenceSs (k : Nat)
  | fenceAcq (k : Nat)
  | fenceRel (k : Nat)
  | fenceDev (k : Nat)
  | trap (k : Nat)
  | eret (k : Nat)
  | crd (k : Nat) (d : Reg) (n : BitVec 16)
  | cwr (k : Nat) (g : Reg) (n : BitVec 16)
  | csum (k : Nat) (d : Reg)
  | post (k : Nat) (a b : Reg)
  | postGrant (ch : Nat)
  -- integer instructions
  | slli (k : Nat) (d a : Reg) (sh : BitVec 6)
  | srli (k : Nat) (d a : Reg) (sh : BitVec 6)
  | srai (k : Nat) (d a : Reg) (sh : BitVec 6)
  | lih (k : Nat) (d : Reg) (sel : BitVec 2) (imm : BitVec 16)
  | add (k : Nat) (w32 : Bool) (d a b : Reg)
  | sub (k : Nat) (w32 : Bool) (d a b : Reg)
  | and (k : Nat) (w32 : Bool) (d a b : Reg)
  | or (k : Nat) (w32 : Bool) (d a b : Reg)
  | xor (k : Nat) (w32 : Bool) (d a b : Reg)
  | sll (k : Nat) (w32 : Bool) (d a b : Reg)
  | srl (k : Nat) (w32 : Bool) (d a b : Reg)
  | sra (k : Nat) (w32 : Bool) (d a b : Reg)
  | slt (k : Nat) (w32 : Bool) (d a b : Reg)
  | sltu (k : Nat) (w32 : Bool) (d a b : Reg)
  | min (k : Nat) (w32 : Bool) (d a b : Reg)
  | max (k : Nat) (w32 : Bool) (d a b : Reg)
  | minu (k : Nat) (w32 : Bool) (d a b : Reg)
  | maxu (k : Nat) (w32 : Bool) (d a b : Reg)
  | mul (k : Nat) (w32 : Bool) (d a b : Reg)
  | mulh (k : Nat) (w32 : Bool) (d a b : Reg)
  | mulhu (k : Nat) (w32 : Bool) (d a b : Reg)
  | div (k : Nat) (w32 : Bool) (d a b : Reg)
  | divu (k : Nat) (w32 : Bool) (d a b : Reg)
  | rem (k : Nat) (w32 : Bool) (d a b : Reg)
  | remu (k : Nat) (w32 : Bool) (d a b : Reg)
  | clz (k : Nat) (w32 : Bool) (d a : Reg)
  | popc (k : Nat) (w32 : Bool) (d a : Reg)
  | brev (k : Nat) (w32 : Bool) (d a : Reg)
  | addi (k : Nat) (d a : Reg) (imm : BitVec 16)
  | andi (k : Nat) (d a : Reg) (imm : BitVec 16)
  | ori (k : Nat) (d a : Reg) (imm : BitVec 16)
  | xori (k : Nat) (d a : Reg) (imm : BitVec 16)
  -- loads and stores
  | ldb (k : Nat) (m : MOp)
  | ldbu (k : Nat) (m : MOp)
  | ldh (k : Nat) (m : MOp)
  | ldhu (k : Nat) (m : MOp)
  | ldw (k : Nat) (m : MOp)
  | ldwu (k : Nat) (m : MOp)
  | ldd (k : Nat) (m : MOp)
  | stb (k : Nat) (m : MOp)
  | sth (k : Nat) (m : MOp)
  | stw (k : Nat) (m : MOp)
  | std (k : Nat) (m : MOp)
  | fldw (k : Nat) (m : MOp)
  | fldd (k : Nat) (m : MOp)
  | fstw (k : Nat) (m : MOp)
  | fstd (k : Nat) (m : MOp)
  | ldud (k : Nat) (m : MOp)
  | stud (k : Nat) (m : MOp)
  | vld (k : Nat) (m : MOp)
  | vst (k : Nat) (m : MOp)
  -- floating and long-vector instructions (`dbl`: major 0x21)
  | fadd (k : Nat) (dbl : Bool) (d a b : Reg)
  | fsub (k : Nat) (dbl : Bool) (d a b : Reg)
  | fmul (k : Nat) (dbl : Bool) (d a b : Reg)
  | ffma (k : Nat) (dbl : Bool) (d a b c : Reg)
  | fmin (k : Nat) (dbl : Bool) (d a b : Reg)
  | fmax (k : Nat) (dbl : Bool) (d a b : Reg)
  | fabs (k : Nat) (dbl : Bool) (d a : Reg)
  | fneg (k : Nat) (dbl : Bool) (d a : Reg)
  | fcmp (k : Nat) (dbl : Bool) (d a b : Reg) (cond : BitVec 5)
  | fdiv (k : Nat) (dbl : Bool) (d a b : Reg)
  | fsqrt (k : Nat) (dbl : Bool) (d a : Reg)
  | fmvgf (k : Nat) (d a : Reg)
  | fmvfg (k : Nat) (d a : Reg)
  | fcvt (k : Nat) (d a : Reg) (dstFmt srcFmt : BitVec 5)
  | vop (k : Nat) (kind : BitVec 6) (d a b : Reg) (etype : BitVec 5)
  -- control transfers
  | beq (k : Nat) (a b : Reg) (off : BitVec 16)
  | bne (k : Nat) (a b : Reg) (off : BitVec 16)
  | blt (k : Nat) (a b : Reg) (off : BitVec 16)
  | bge (k : Nat) (a b : Reg) (off : BitVec 16)
  | bltu (k : Nat) (a b : Reg) (off : BitVec 16)
  | bgeu (k : Nat) (a b : Reg) (off : BitVec 16)
  | j (k : Nat) (off : BitVec 26)
  | jal (k : Nat) (off : BitVec 26)
  | jalr (k : Nat) (d a : Reg) (imm : BitVec 16)
  | customerInstruction (k : Nat) (cust : BitVec 4) (rd ra rb : Reg) (imm7 : BitVec 7)
  | interruptTaken (k : Nat)
  | engineException (k : Nat)
  -- headbox
  | sheetDispatch (k : Nat) (addr : Word) (slots : List Word) (hval : Word) (runAhead : Bool)
  | sheetDry (k : Nat)
  | sheetSquash (k : Nat)
  | slotRelease (k : Nat)
  -- hollander (`i`: place of the entry among those the hollander holds)
  | hmv (k : Nat)
  | copy (k i : Nat)
  | fill (k i : Nat)
  | holUadd (k i : Nat)
  | holUmax (k i : Nat)
  | holUmin (k i : Nat)
  | vfetch (k i : Nat)
  | descriptorComplete (k i : Nat)
  | updateRequest (p : Nat) (ecc : Ecc)
  -- vat commands
  | vcmd (k : Nat)
  | commandWindowPost (ag c sl slot : Nat) (data : Word)
  | vnop (c sl : Nat)
  | kvgather (c sl : Nat)
  | qload (c sl : Nat)
  | score (c sl : Nat)
  | vatUadd (c sl : Nat)
  | vatUmax (c sl : Nat)
  | vatUmin (c sl : Nat)
  | sumsq (c sl : Nat)
  | meanvar (c sl : Nat)
  | vatCommandComplete (c sl : Nat)
  -- tiles, matrix engine, calender, sync unit
  | tld (k : Nat)
  | tst (k : Nat)
  | bld (k : Nat)
  | mma (k : Nat)
  | chout (k : Nat)
  | chainBlockArrival (k : Nat)
  | cal (k : Nat)
  | calComplete (k : Nat)
  | enop (k : Nat)
  | ebar (k : Nat)
  | esave (k : Nat) (stopRow : Option Nat)
  | erestore (k : Nat)
  | ewr (k : Nat)
  -- engine and core registers with rows of their own
  | nmodeWrite (ag k : Nat) (v : Half)
  | discard (ag k : Nat) (resumeToo : Bool)
  | resume (ag k : Nat)
  | engCsumqClear (ag k : Nat)
  | coreDtabDataWrite (ag k : Nat) (v : Word)
  | tprobe (k : Nat) (v : Word)
  | tlockLock (k : Nat) (slot : BitVec 4) (va : BitVec 44)
  | tlockUnlock (k : Nat) (slot : BitVec 4) (va : BitVec 44)
  | tlbiAll (k : Nat) (die : Bool)
  | tlbiAsid (k : Nat) (die : Bool) (asid : BitVec 16)
  | tlbiVa (k : Nat) (die : Bool) (asid : BitVec 16) (va : BitVec 44)
  | tlbiVaAll (k : Nat) (die : Bool) (va : BitVec 44)
  | tlbiComplete (k : Nat)
  -- vat control
  | vatAddrwWrite (ag c : Nat) (w : BitVec 5)
  | vatEnable (ag c : Nat)
  | vatDisable (ag c : Nat)
  | inv (ag c : Nat)
  | clean (ag c : Nat)
  | cleanInv (ag c : Nat)
  | zero (ag c : Nat)
  | invAll (ag c : Nat)
  | cleanInvAll (ag c : Nat)
  | rangeComplete (c : Nat)
  | vatWaydisWrite (ag c sl : Nat) (v : BitVec 16)
  | wayErrorPeriod (c : Nat)
  | vatOffer (k line : Nat)
  | vatFill (c line : Nat) (kind : FillKind) (ecc : Ecc)
  -- stack ports
  | patrolScrubStep (p : Nat) (ecc : Ecc)
  | loftScrubBurst (p : Nat) (eccs : List Ecc)
  | stackTempReadout (p : Nat) (temp : BitVec 8)
  | memMapWrite (ag : Nat) (v : Half)
  | memCntctl (p : Nat)
  | holCntctl (k : Nat)
  | vatCntctl (c : Nat)
  | vatCerrctl (c : Nat)
  -- Delnel
  | linkBlock (p : Nat) (b : LinkBlock)
  | creditTimeout (p : Nat) (vl : BitVec 2)
  | park (p : Nat)
  | linkTrainingDone (p : Nat) (partner : BitVec 12) (pport : BitVec 5) (lanes : BitVec 4)
  | linkTrainingTimeout (p : Nat)
  | flitRoute (src : Nat) (vl : BitVec 2)
  | requestTimeout (tag : BitVec 16)
  | noticeSend (p i : Nat)
  | coalescerHold (r : Nat)
  | dlnFcclose (r : BitVec 7)
  | chainFlitProcess (bucket : BitVec 14)
  | bktpost (bucket : BitVec 14)
  | bktpostRet (bucket : BitVec 14)
  | bktctlReset (bucket : BitVec 14) (step : BitVec 16)
  | dlnPcfgWrite (p : Nat) (role : BitVec 2)
  -- mill mover and mailboxes
  | moverGo (ag q : Nat) (v : MoverStart)
  | moverBatchDone (q : Nat) (hostData : List Byte) (hostEnd : HostEnd)
  | takePost (ag ch : Nat)
  | mbxDbset (ag ch : Nat) (v : Half)
  | mbxDbClear (ag ch : Nat) (v : Half)
  | mbxCrst (ag : Nat) (ch : BitVec 6)
  | mbxHpost (ag area : Nat) (v : Half)
  -- host port and SMBus
  | hostRead (bar off size : Nat)
  | hostWrite (bar off : Nat) (data : List Byte)
  | pcap (v : Option (SmbWrite 16))
  | smbusLoft (v : SmbWrite 8)
  | apply (ch : Nat)
  | swap (ch : Nat)
  | selftestDone (failed : List Nat)
  -- sensors, power, errors, counters
  | sensorSample (sensor : BitVec 6) (reading : BitVec 16)
  | throttleUpdate (est : BitVec 16)
  | pwrCapWrite (ag : Nat) (v : Half)
  | clrpeak (ag : Nat)
  | errRptrWrite (ag : Nat) (v : Word)
  | clrlost (ag : Nat)
  | coreEvctl (k : Nat)
  | registerWrite (ag off size v : Nat)
  -- test port
  | samplePreload (pins preload : List Bool)
  | debug (op : DebugOp)
  -- host port and link events
  | completionTimeout (q : Nat)
  | hostPortLinkUp (rate : BitVec 3) (width : BitVec 5) (flit : Bool)
  | configurationWrite (w : CfgWrite)
  | laneSignalLoss (p : Nat)
  | linkBlockSend (p : Nat)
  | parkTimeout (p : Nat)
  -- commands without operands (they stand last, so that the tags of the others stay small)
  | imageReadTimeout
  | retry
  | queueResume
  | rd
  | wr
  | rdrsp
  | wrack
  | nack
  | notice
  | chain
  | returnFlit
  | dlnCerrctl
  | dlnCntctl
  | hostPortReset
  | id
  | state
  | temp
  | power
  | watermark
  | errcnt
  | errpop
  | loftEnter
  | loftExit
  | loftEntry
  | loftTimeout
  | loftExitRun
  | quiesceTimeout
  | watchdogExpiry
  | pllLockLost
  | fatal
  | bypass
  | idcode
  | extest
  | clamp
  | highz
  | extestPulse
  | extestTrain
  | resetNAsserted
deriving DecidableEq, Repr

end Sys2Proof
end

