-- ==== Sys2Proof/Decode.lean ====
section
/-! DEFINITION. Decoding. The rows of the operation table give no bits, so no word spells a command. The scalar instruction words of R201 and R208 are decoded here all the same: customer micro-ops are such words (R214). -/

namespace Sys2Proof

open Sys2Proof.Machine

/-- No row of the operation table has bits, so no word spells a command. -/
def decodeTableWord (_nbits _w : Nat) : Option Instr := none

/-- The register fields d (or t), a (or b), b and c of a word (R201). -/
def fieldD (w : Nat) : Reg := BitVec.ofNat 5 (fld w 21 5)
def fieldA (w : Nat) : Reg := BitVec.ofNat 5 (fld w 16 5)
def fieldB (w : Nat) : Reg := BitVec.ofNat 5 (fld w 11 5)
def fieldC (w : Nat) : Reg := BitVec.ofNat 5 (fld w 6 5)

/-- imm16 or offset16. -/
def fieldImm (w : Nat) : BitVec 16 := BitVec.ofNat 16 w

/-- The M format (R201). -/
def fieldM (w : Nat) : MOp := ⟨fieldD w, fieldA w, BitVec.ofNat 3 (fld w 13 3), BitVec.ofNat 13 w, .clean⟩

/-- SYS (R201, R208, R246). -/
def decodeSys (k w : Nat) : Option Instr :=
  let minor := fld w 0 6
  let kind := fld w 6 4
  if fld w 16 10 ≠ 0 ∨ fld w 10 6 ≠ 0 ∨ (minor ≠ 4 ∧ kind ≠ 0) then none
  else
    match minor with
    | 0 => some (.nop k)
    | 1 => some (.halt k)
    | 2 => some (.syncx k)
    | 3 => some (.isync k)
    | 4 => match kind with
      | 0 => some (.fenceFull k)
      | 1 => some (.fenceLl k)
      | 2 => some (.fenceSs k)
      | 3 => some (.fenceAcq k)
      | 4 => some (.fenceRel k)
      | 5 => some (.fenceDev k)
      | _ => none
    | 5 => some (.trap k)
    | 6 => some (.eret k)
    | _ => none

/-- The integer ALU (R209). -/
def decodeAlu (k w : Nat) (w32 : Bool) : Option Instr :=
  let d := fieldD w
  let a := fieldA w
  let b := fieldB w
  match fld w 0 6 with
  | 0x00 => some (.add k w32 d a b)
  | 0x01 => some (.sub k w32 d a b)
  | 0x02 => some (.and k w32 d a b)
  | 0x03 => some (.or k w32 d a b)
  | 0x04 => some (.xor k w32 d a b)
  | 0x05 => some (.sll k w32 d a b)
  | 0x06 => some (.srl k w32 d a b)
  | 0x07 => some (.sra k w32 d a b)
  | 0x08 => some (.slt k w32 d a b)
  | 0x09 => some (.sltu k w32 d a b)
  | 0x0A => some (.min k w32 d a b)
  | 0x0B => some (.max k w32 d a b)
  | 0x0C => some (.minu k w32 d a b)
  | 0x0D => some (.maxu k w32 d a b)
  | 0x0E => some (.mul k w32 d a b)
  | 0x0F => some (.mulh k w32 d a b)
  | 0x10 => some (.mulhu k w32 d a b)
  | 0x11 => some (.div k w32 d a b)
  | 0x12 => some (.divu k w32 d a b)
  | 0x13 => some (.rem k w32 d a b)
  | 0x14 => some (.remu k w32 d a b)
  | 0x15 => some (.clz k w32 d a)
  | 0x16 => some (.popc k w32 d a)
  | 0x17 => some (.brev k w32 d a)
  | _ => none

/-- Shift immediates (R208). -/
def decodeShift (k w : Nat) : Option Instr :=
  let sh := BitVec.ofNat 6 w
  if fld w 8 8 ≠ 0 then none
  else
    match fld w 6 2 with
    | 0 => some (.slli k (fieldD w) (fieldA w) sh)
    | 1 => some (.srli k (fieldD w) (fieldA w) sh)
    | 2 => some (.srai k (fieldD w) (fieldA w) sh)
    | _ => none

/-- Floating arithmetic (R210): the nip codes of R159, and 0x24 and 0x25. -/
def decodeFloat (k w : Nat) (dbl : Bool) : Option Instr :=
  let d := fieldD w
  let a := fieldA w
  let b := fieldB w
  match fld w 0 6 with
  | 0x01 => some (.fadd k dbl d a b)
  | 0x02 => some (.fsub k dbl d a b)
  | 0x03 => some (.fmul k dbl d a b)
  | 0x04 => some (.ffma k dbl d a b (fieldC w))
  | 0x05 => some (.fmin k dbl d a b)
  | 0x06 => some (.fmax k dbl d a b)
  | 0x07 => some (.fabs k dbl d a)
  | 0x08 => some (.fneg k dbl d a)
  | 0x09 => some (.fcmp k dbl d a b (fieldC w))
  | 0x24 => some (.fdiv k dbl d a b)
  | 0x25 => some (.fsqrt k dbl d a)
  | _ => none

/-- Major 0x22 (R208, R210). -/
def decodeMove (k w : Nat) : Option Instr :=
  match fld w 0 6 with
  | 0 => some (.fmvgf k (fieldD w) (fieldA w))
  | 1 => some (.fmvfg k (fieldD w) (fieldA w))
  | 2 => some (.fcvt k (fieldD w) (fieldA w) (fieldB w) (fieldC w))
  | _ => none

/-- The scalar instruction that a word is, of agent `k` (R208). None for a word that is an encoding error by its major opcode, funct, minor or zero fields, and for majors 0x3E and 0x3F. -/
def decodeScalar (k w : Nat) : Option Instr :=
  let d := fieldD w
  let a := fieldA w
  let m := fieldM w
  let i := fieldImm w
  match fld w 26 6 with
  | 0x00 => decodeSys k w
  | 0x01 => if fld w 16 5 = 0 then some (.crd k d i) else none
  | 0x02 => if fld w 16 5 = 0 then some (.cwr k d i) else none
  | 0x03 => if fld w 0 21 = 0 then some (.csum k d) else none
  | 0x04 => if fld w 0 6 = 0 then some (.post k a (fieldB w)) else none
  | 0x06 => decodeShift k w
  | 0x07 => if fld w 18 3 = 0 then some (.lih k d (BitVec.ofNat 2 (fld w 16 2)) i) else none
  | 0x08 => decodeAlu k w false
  | 0x09 => decodeAlu k w true
  | 0x0C => some (.addi k d a i)
  | 0x0D => some (.andi k d a i)
  | 0x0E => some (.ori k d a i)
  | 0x0F => some (.xori k d a i)
  | 0x10 => some (.ldb k m)
  | 0x11 => some (.ldbu k m)
  | 0x12 => some (.ldh k m)
  | 0x13 => some (.ldhu k m)
  | 0x14 => some (.ldw k m)
  | 0x15 => some (.ldwu k m)
  | 0x16 => some (.ldd k m)
  | 0x17 => some (.stb k m)
  | 0x18 => some (.sth k m)
  | 0x19 => some (.stw k m)
  | 0x1A => some (.std k m)
  | 0x1B => some (.fldw k m)
  | 0x1C => some (.fldd k m)
  | 0x1D => some (.fstw k m)
  | 0x1E => some (.fstd k m)
  | 0x1F => some (.ldud k m)
  | 0x20 => decodeFloat k w false
  | 0x21 => decodeFloat k w true
  | 0x22 => decodeMove k w
  | 0x24 => some (.vld k m)
  | 0x25 => some (.vst k m)
  | 0x26 => some (.vop k (BitVec.ofNat 6 w) d a (fieldB w) (fieldC w))
  | 0x27 => some (.stud k m)
  | 0x28 => some (.beq k d a i)
  | 0x29 => some (.bne k d a i)
  | 0x2A => some (.blt k d a i)
  | 0x2B => some (.bge k d a i)
  | 0x2C => some (.bltu k d a i)
  | 0x2D => some (.bgeu k d a i)
  | 0x2E => some (.j k (BitVec.ofNat 26 w))
  | 0x2F => some (.jal k (BitVec.ofNat 26 w))
  | 0x30 => some (.jalr k d a i)
  | _ => none

end Sys2Proof
end

