-- ==== Sys2Proof/Config.lean ====
section
/-! DEFINITION. The free values of the model: constants without a body, for what the spec leaves open while the die goes on. No proof can see what they are. -/

namespace Sys2Proof.Config

/-- The die's choice between two listed outcomes (R3: R153, R270, R278, R441), the n-th time it chooses (log 12). -/
opaque choose : Nat → Bool

/-- A DETAIL value of the error log whose layout the spec does not give: of code, and of two numbers that the spec says it reports (log 14). -/
opaque detail : Nat → Nat → Nat → BitVec 64

/-- An address or unit that the spec does not state for an error log entry of a code (log 14). -/
opaque logAddr : Nat → BitVec 64

/-- The result of a register shift by the word's width or more, which the spec does not state: of the direction (0 SLL, 1 SRL, 2 SRA), the width, the value and the amount (log 22). -/
opaque longShift : Nat → Nat → Nat → Nat → Nat

/-- The bits of an F register above an FP32 or FP16 value that an instruction writes, which the spec does not state: of the value's width, the register's old contents and the value (log 23). -/
opaque fUpper : Nat → BitVec 64 → Nat → BitVec 64

/-- A lane of a VOP with KIND CMP, SEL or CVT, whose condition, predicate or format the instruction has no field for: of the kind, the element type and the two source lanes (log 26). -/
opaque vopOpen : Nat → Nat → Nat → Nat → Nat

/-- The CORE_EVEC that the mill controller loads into a service core from the image, in which the spec names no place for it: of the core and the digest of its SVCFW section (log 47). -/
opaque svcEvec : Nat → List Byte → BitVec 64

/-- An entry of the decode table that it loads, and for entry 512 the table's VALID bits, likewise (log 47). -/
opaque svcDtab : Nat → List Byte → Nat → BitVec 64

/-- The set of a directory that a line's entry lies in, which the spec does not state: of the directory (a cluster's, or 8 and the port) and the line (log 81). -/
opaque dirSet : Nat → Nat → Nat

/-- Which entry of a full directory set is freed, the n-th time the die chooses, which the spec does not state (log 81). -/
opaque dirVictim : Nat → Nat

/-- Whether an entry of the direction predictor predicts its branch taken, the n-th time, which the spec does not state (log 82). -/
opaque predictTaken : Nat → Bool

/-- Whether a JALR that the target buffer and the return stack both know is predicted by the return stack, the n-th time (log 82). -/
opaque predictReturn : Nat → Bool

/-- The lines that a core's L1D holds, which the spec does not state (log 9). -/
opaque l1dLines : Nat

end Sys2Proof.Config
end

