-- ==== Sys2Proof/Machine/Tab.lean ====
section
/-! DEFINITION. Sparse tables: a list of (key, value) pairs with rising keys and no entry that holds the default. Memories, register maps and the arrays of blocks of the die are all held this way, so that equal contents are equal data. -/

namespace Sys2Proof.Machine

/-- A sparse table. The default of a key is given by whoever reads it. -/
abbrev Tab (β : Type) := List (Nat × β)

/-- The value at key `k`, `d` when the table lists none. -/
def Tab.get {β : Type} (d : β) : Tab β → Nat → β
  | [], _ => d
  | (a, v) :: t, k => if a = k then v else Tab.get d t k

/-- The table without its entries for `k`. -/
def Tab.erase {β : Type} : Tab β → Nat → Tab β
  | [], _ => []
  | (a, v) :: t, k => if a = k then Tab.erase t k else (a, v) :: Tab.erase t k

/-- The table with `(k, v)` put before the first greater key. -/
def Tab.insert {β : Type} : Tab β → Nat → β → Tab β
  | [], k, v => [(k, v)]
  | (a, w) :: t, k, v => if k < a then (k, v) :: (a, w) :: t else (a, w) :: Tab.insert t k v

/-- Write `v` at key `k`; writing the default removes the entry. -/
def Tab.set {β : Type} [DecidableEq β] (d : β) (t : Tab β) (k : Nat) (v : β) : Tab β :=
  if v = d then Tab.erase t k else Tab.insert (Tab.erase t k) k v

/-- The canonical form: keys strictly rising, and no entry equal to what an unlisted key reads as. -/
def Tab.wf {β : Type} [DecidableEq β] (d : β) : Tab β → Bool
  | [] => true
  | [(_, v)] => decide (v ≠ d)
  | (a, v) :: (b, w) :: t => decide (v ≠ d) && decide (a < b) && Tab.wf d ((b, w) :: t)

/-- A byte memory: bytes nothing has written read as zero. -/
abbrev Mem := Tab Byte

/-- The byte at address `a`. -/
def Mem.read (m : Mem) (a : Nat) : Byte := Tab.get 0 m a

/-- Write one byte. -/
def Mem.write (m : Mem) (a : Nat) (b : Byte) : Mem := Tab.set 0 m a b

/-- The canonical form of a memory. -/
def Mem.wf (m : Mem) : Bool := Tab.wf 0 m

/-- `n` bytes from address `a`, lowest address first. -/
def Mem.readN (m : Mem) (a : Nat) : Nat → List Byte
  | 0 => []
  | n + 1 => m.read a :: Mem.readN m (a + 1) n

/-- Write bytes at rising addresses from `a`. -/
def Mem.writeN (m : Mem) (a : Nat) : List Byte → Mem
  | [] => m
  | b :: bs => Mem.writeN (m.write a b) (a + 1) bs

/-- The little-endian number in `n` bytes at `a` (R21). -/
def Mem.readLE (m : Mem) (a n : Nat) : Nat := leNat (Mem.readN m a n)

/-- Write the low `n` bytes of a number, little-endian (R21). -/
def Mem.writeLE (m : Mem) (a n v : Nat) : Mem := m.writeN a (leBytes n v)

/-- Write `n` zero bytes. -/
def Mem.zeroN (m : Mem) (a n : Nat) : Mem := m.filter (fun p => decide (p.1 < a) || decide (a + n ≤ p.1))

/-- Change every entry that a table lists. -/
def Tab.update {β : Type} [DecidableEq β] (d : β) (t : Tab β) (f : Nat → β → β) : Tab β :=
  (t.map Prod.fst).foldl (fun u k => Tab.set d u k (f k (Tab.get d t k))) t

/-- Change every value of a long table in one pass. -/
def Tab.mapVals {β : Type} [DecidableEq β] (d : β) (t : Tab β) (f : Nat → β → β) : Tab β :=
  t.filterMap (fun p => let v := f p.1 p.2; if v = d then none else some (p.1, v))

end Sys2Proof.Machine
end

