-- ==== Sys2Proof/Machine/RegMap.lean ====
section
/-! DEFINITION. The register maps of the die's blocks: offset, width, access masks and reset value of every register (R7, R8, R479), and what a write stores. -/

namespace Sys2Proof.Machine

/-- One register of a map: offset of its slot, whether it is 64 bits wide, and the masks of its RW, W1C and W1S bits. WO bits are in no mask: they store nothing. -/
structure RegRow where
  off : Nat
  wide : Bool := false
  rw : Word := 0
  w1c : Word := 0
  w1s : Word := 0
deriving DecidableEq, Repr

/-- The row of a map at a slot offset. -/
def rowAt (m : List RegRow) (off : Nat) : Option RegRow := m.find? (fun r => r.off == off)

/-- What a register holds after a write of `v` to the bits of `mask`: RW bits take the written value, W1C bits written 1 clear, W1S bits written 1 set, every other bit is kept (R7, R8, R479). -/
def RegRow.write (r : RegRow) (old v mask : Word) : Word :=
  let rw := r.rw &&& mask
  (((old &&& ~~~rw) ||| (v &&& rw)) &&& ~~~(v &&& mask &&& r.w1c)) ||| (v &&& mask &&& r.w1s)

def CORE_EVEC : Nat := 0x100
def CORE_ESTATE : Nat := 0x108
def CORE_EPC : Nat := 0x110
def CORE_ECAUSE : Nat := 0x118
def CORE_EADDR : Nat := 0x120
def CORE_EINFO : Nat := 0x128
def CORE_IPEND : Nat := 0x130
def CORE_IEN : Nat := 0x138
def CORE_DTAB_SEL : Nat := 0x200
def CORE_DTAB_DATA : Nat := 0x208
def HOL_CFG : Nat := 0x300
def CORE_TCTL : Nat := 0x400
def CORE_TROOT : Nat := 0x408
def CORE_GUARD : Nat := 0x410
def CORE_TLBI : Nat := 0x418
def CORE_TLOCK : Nat := 0x420
def CORE_TLOCKV : Nat := 0x428
def CORE_TPROBE : Nat := 0x430
def CORE_TPRES : Nat := 0x438
def CORE_EXT : Nat := 0x500
def ENG_NMODE : Nat := 0x1000
def ENG_NSTAT : Nat := 0x1008
def ENG_RNG : Nat := 0x1010
def ENG_SROW : Nat := 0x1018
def ENG_CHAIN : Nat := 0x1020
def ENG_RSTATE : Nat := 0x1028
def ENG_CSUMQ : Nat := 0x1030
def ENG_SEQ : Nat := 0x1038
def ENG_FREC0 : Nat := 0x1040
def ENG_FREC1 : Nat := 0x1048
def ENG_FREC2 : Nat := 0x1050
def ENG_FCTL : Nat := 0x1058
def CORE_FCTL : Nat := 0x1100
def HOL_STAT : Nat := 0x1200
def HOL_BYTES : Nat := 0x1208
def HOL_RAUSE : Nat := 0x1210
def HOL_RADROP : Nat := 0x1218
def HOL_CNTCTL : Nat := 0x1220
def CORE_EVSEL : Nat := 0x1300
def CORE_EVCTL : Nat := 0x1308
def CORE_EVCNT : Nat := 0x1310
def CORE_CYCLE : Nat := 0x1330

/-- The extent registers (R345). -/
def extMap : List RegRow :=
  (List.range 8).flatMap (fun n =>
    [⟨CORE_EXT + n * 0x20, true, 0xFFFFFFFFE00000, 0, 0⟩, ⟨CORE_EXT + n * 0x20 + 8, true, 0x7FFFFFFFF, 0, 0⟩,
     ⟨CORE_EXT + n * 0x20 + 16, true, 0xFFFFFFE00C3D, 0, 0⟩])

/-- A core's block (R222 to R228, R229 to R236, R355 to R361, R474, R35, R44, R75, R103, R172). -/
def coreMap : List RegRow :=
  [⟨CORE_EVEC, true, 0xFFFFFFFFFFFFFFFC, 0, 0⟩, ⟨CORE_ESTATE, false, 0x76, 0, 0⟩,
   ⟨CORE_EPC, true, 0xFFFFFFFFFFFFFFFC, 0, 0⟩, ⟨CORE_ECAUSE, false, 0, 0, 0⟩, ⟨CORE_EADDR, true, 0, 0, 0⟩,
   ⟨CORE_EINFO, false, 0, 0, 0⟩, ⟨CORE_IPEND, true, 0, 0x3005C0000, 0⟩, ⟨CORE_IEN, true, 0x3007F0000, 0, 0⟩,
   ⟨CORE_DTAB_SEL, false, 0xFFFF01FF, 0, 0⟩, ⟨CORE_DTAB_DATA, true, 0x3EFFFFFFFF, 0, 0⟩,
   ⟨HOL_CFG, false, 3, 0, 0⟩, ⟨CORE_TCTL, false, 0xFFFF3F01, 0, 0⟩, ⟨CORE_TROOT, true, 0xFFFFFFFFF000, 0, 0⟩,
   ⟨CORE_GUARD, false, 3, 0, 0⟩, ⟨CORE_TLBI, true, 0, 0, 0⟩, ⟨CORE_TLOCK, true, 0xF0FFFFFFFFFFF, 0, 0⟩,
   ⟨CORE_TLOCKV, false, 0, 0, 0⟩, ⟨CORE_TPROBE, true, 0, 0, 0⟩, ⟨CORE_TPRES, true, 0, 0, 0⟩] ++ extMap ++
  [⟨ENG_NMODE, false, 0x1F1D, 0, 0⟩, ⟨ENG_NSTAT, false, 0, 0xFF, 0⟩,
   ⟨ENG_RNG, true, 0xFFFFFFFFFFFFFFFF, 0, 0⟩, ⟨ENG_SROW, true, 0x807F, 0, 0⟩,
   ⟨ENG_CHAIN, false, 0xBFBF0000, 0, 0⟩, ⟨ENG_RSTATE, false, 0, 0, 0⟩, ⟨ENG_CSUMQ, false, 0, 0, 0⟩,
   ⟨ENG_SEQ, true, 0, 0, 0⟩, ⟨ENG_FREC0, true, 0, 0, 0⟩, ⟨ENG_FREC1, true, 0, 0, 0⟩, ⟨ENG_FREC2, true, 0, 0, 0⟩,
   ⟨ENG_FCTL, false, 0, 0, 0⟩, ⟨CORE_FCTL, false, 0x31F00, 0x1F, 0⟩, ⟨HOL_STAT, false, 0, 0, 0⟩,
   ⟨HOL_BYTES, true, 0, 0, 0⟩, ⟨HOL_RAUSE, true, 0, 0, 0⟩, ⟨HOL_RADROP, true, 0, 0, 0⟩, ⟨HOL_CNTCTL, false, 0, 0, 0⟩,
   ⟨CORE_EVSEL, false, 0xFFFFFFFF, 0, 0⟩, ⟨CORE_EVCTL, false, 0, 0, 0⟩, ⟨CORE_EVCNT, true, 0, 0, 0⟩,
   ⟨CORE_EVCNT + 8, true, 0, 0, 0⟩, ⟨CORE_EVCNT + 16, true, 0, 0, 0⟩, ⟨CORE_EVCNT + 24, true, 0, 0, 0⟩,
   ⟨CORE_CYCLE, true, 0, 0, 0⟩]

/-- The reset values of a core's registers that are not zero. -/
def coreReset (off : Nat) : Word :=
  if off = CORE_ESTATE then 1
  else if off = CORE_IEN then 0x500000
  else if off = HOL_CFG then 3
  else if off = CORE_TCTL then 0x3800
  else if off = ENG_NMODE then 0x10
  else if off = ENG_RNG then 0x9E3779B97F4A7C15
  else 0

/-- The core control class (R241): a write stages, SYNCX applies. -/
def isControlClass (off : Nat) : Bool :=
  off == CORE_EVEC || off == HOL_CFG || off == CORE_TCTL || off == CORE_TROOT || off == CORE_GUARD || off == ENG_CHAIN ||
  (decide (CORE_EXT ≤ off) && decide (off < CORE_EXT + 0x100))

/-- A register of the matrix engine, calender, headbox or hollander, which a service core has not (R397). -/
def isEngineReg (off : Nat) : Bool :=
  off == HOL_CFG || (decide (0x1000 ≤ off) && decide (off < 0x1100)) || (decide (0x1200 ≤ off) && decide (off < 0x1300))

def VAT_CFG : Nat := 0
def VAT_STAT : Nat := 8
def VAT_RBASE : Nat := 0x10
def VAT_RSIZE : Nat := 0x18
def VAT_RCTL : Nat := 0x20
def VAT_ESTAT : Nat := 0x30
def VAT_CERR0 : Nat := 0x38
def VAT_CERR1 : Nat := 0x40
def VAT_CERRCTL : Nat := 0x48
def VAT_WAYDIS : Nat := 0x100
def VAT_HITS : Nat := 0x200
def VAT_MISSES : Nat := 0x208
def VAT_DECLINED : Nat := 0x210
def VAT_CECNT : Nat := 0x218
def VAT_CNTCTL : Nat := 0x220

/-- A vat's registers (R290 to R302, R313, R320, R323). -/
def vatMap : List RegRow :=
  [⟨VAT_CFG, false, 0x11F, 0, 0⟩, ⟨VAT_STAT, false, 0, 0, 0⟩, ⟨VAT_RBASE, true, 0xFFFFFFFFFFFF, 0, 0⟩,
   ⟨VAT_RSIZE, true, 0xFFFFFFFFFFFF, 0, 0⟩, ⟨VAT_RCTL, false, 7, 0, 0⟩, ⟨VAT_ESTAT, false, 0, 0x1F, 0⟩,
   ⟨VAT_CERR0, true, 0, 0, 0⟩, ⟨VAT_CERR1, true, 0, 0, 0⟩, ⟨VAT_CERRCTL, false, 0, 0, 0⟩,
   ⟨VAT_HITS, true, 0, 0, 0⟩, ⟨VAT_MISSES, true, 0, 0, 0⟩, ⟨VAT_DECLINED, true, 0, 0, 0⟩, ⟨VAT_CECNT, true, 0, 0, 0⟩,
   ⟨VAT_CNTCTL, false, 0, 0, 0⟩] ++ (List.range 32).map (fun s => ⟨VAT_WAYDIS + s * 8, false, 0, 0, 0xFFFF⟩)

def MEM_MAP : Nat := 0

/-- The memory controller block (R329, R330). -/
def memMap : List RegRow := [⟨MEM_MAP, false, 0x17777, 0, 0⟩]

def MEM_PSTAT : Nat := 0
def MEM_SCRUB : Nat := 8
def MEM_CE : Nat := 0x10
def MEM_UE : Nat := 0x18
def MEM_UPD : Nat := 0x20
def MEM_CNTCTL : Nat := 0x28
def MEM_ERRADDR : Nat := 0x30

/-- The reset value of the memory controller block's register. -/
def memReset (off : Nat) : Word := if off = MEM_MAP then 0x3210 else 0

/-- A stack port's registers (R325, R333 to R335, R342). -/
def portMap : List RegRow :=
  [⟨MEM_PSTAT, false, 0, 0, 0⟩, ⟨MEM_SCRUB, false, 0xFFFFF, 0, 0⟩, ⟨MEM_CE, true, 0, 0, 0⟩, ⟨MEM_UE, true, 0, 0, 0⟩,
   ⟨MEM_UPD, true, 0, 0, 0⟩, ⟨MEM_CNTCTL, false, 0, 0, 0⟩, ⟨MEM_ERRADDR, true, 0, 0x8000000000000000, 0⟩]

/-- The reset values of a stack port's registers that are not zero. -/
def portReset (off : Nat) : Word := if off = MEM_SCRUB then 0x3E818 else 0

def DLN_ID : Nat := 0
def DLN_CFG : Nat := 8
def DLN_APCFG : Nat := 0x10
def DLN_CTBASE : Nat := 0x18
def DLN_BKTPOST : Nat := 0x20
def DLN_BKTCTL : Nat := 0x28
def DLN_CERR0 : Nat := 0x30
def DLN_CERRCTL : Nat := 0x38
def DLN_DROPS : Nat := 0x40
def DLN_CNTCTL : Nat := 0x48
def DLN_FCCFG : Nat := 0x100
def DLN_FCCLOSE : Nat := 0x108
def DLN_FCREC : Nat := 0x200
def DLN_BCAST : Nat := 0xC00

/-- The Delnel block but for the ports and the route table (R374, R377 to R379, R388, R391 to R393). The two words of coalescer record r stand at DLN_FCREC + 32 r and 8 above it. -/
def dlnMap : List RegRow :=
  [⟨DLN_ID, false, 0xFFF, 0, 0⟩, ⟨DLN_CFG, false, 0xFFFFFFFF, 0, 0⟩, ⟨DLN_APCFG, false, 0x1FFF, 0, 0⟩,
   ⟨DLN_CTBASE, true, 0xFFFFFFE00000, 0, 0⟩, ⟨DLN_BKTPOST, false, 0, 0, 0⟩, ⟨DLN_BKTCTL, false, 0, 0, 0⟩,
   ⟨DLN_CERR0, true, 0, 0, 0⟩, ⟨DLN_CERRCTL, false, 0, 0, 0⟩, ⟨DLN_DROPS, true, 0, 0, 0⟩, ⟨DLN_CNTCTL, false, 0, 0, 0⟩,
   ⟨DLN_FCCFG, false, 0x8000003F, 0, 0⟩, ⟨DLN_FCCLOSE, false, 0, 0, 0⟩] ++
  (List.range 65).flatMap (fun r => [⟨DLN_FCREC + r * 0x20, true, 0, 0, 0⟩, ⟨DLN_FCREC + r * 0x20 + 8, true, 0, 0, 0⟩]) ++
  (List.range 25).map (fun i => ⟨DLN_BCAST + i * 8, false, 0xFFFFFF, 0, 0⟩)

/-- The reset values of the Delnel block that are not zero. -/
def dlnReset (off : Nat) : Word := if off = DLN_CFG then 0x3E803E8 else 0

def DLN_PCFG : Nat := 0
def DLN_PSTAT : Nat := 8

/-- A Delnel port's registers (R365, R366, R371). -/
def linkMap : List RegRow := [⟨DLN_PCFG, false, 3, 0, 0⟩, ⟨DLN_PSTAT, false, 0, 0, 0⟩]

/-- The width and access of every route table entry (R370). -/
def routeMask : Word := 0xC00067DF

def MILL_ID : Nat := 0
def MILL_WATERMARK : Nat := 0x10
def MILL_BSTAT : Nat := 0x18
def MILL_CSTAMP : Nat := 0x20
def MILL_SLOTEN : Nat := 0x48
def MILL_SLOTSP : Nat := 0x50
def MILL_STEST : Nat := 0x58
def MILL_LSTAT : Nat := 0x60
def MILL_DBG : Nat := 0x70
def MILL_MVQ : Nat := 0x100
def MILL_MVS : Nat := 0x108

/-- The mill block but for the service cores (R1, R399, R401, R437, R446, R476). -/
def millMap : List RegRow :=
  [⟨MILL_ID, false, 0, 0, 0⟩, ⟨MILL_WATERMARK, true, 0, 0, 0⟩, ⟨MILL_BSTAT, false, 0, 0, 0⟩,
   ⟨MILL_CSTAMP, true, 0, 0, 0⟩, ⟨MILL_CSTAMP + 8, true, 0, 0, 0⟩, ⟨MILL_CSTAMP + 16, true, 0, 0, 0⟩,
   ⟨MILL_CSTAMP + 24, true, 0, 0, 0⟩, ⟨MILL_SLOTEN, true, 0, 0, 0⟩, ⟨MILL_SLOTSP, true, 0, 0, 0⟩,
   ⟨MILL_STEST, true, 0xFFFFFFFFF, 0, 0⟩, ⟨MILL_LSTAT, false, 0, 0, 0⟩, ⟨MILL_DBG, false, 1, 0, 0⟩] ++
  (List.range 4).flatMap (fun n => [⟨MILL_MVQ + n * 0x10, true, 0xFC00FFFFFFFFFFE0, 0, 0⟩, ⟨MILL_MVS + n * 0x10, false, 0, 0x40000000, 0⟩])

/-- The reset values of the mill block that are not zero. -/
def millReset (off : Nat) : Word := if off = MILL_ID then 0x1D08B000 else if off = MILL_BSTAT then 1 else 0

def MBX_CTL : Nat := 0
def MBX_DB : Nat := 8
def MBX_DBSET : Nat := 0x10
def MBX_DBMASK : Nat := 0x18
def MBX_MSG : Nat := 0x80

/-- A mailbox channel's registers (R403 to R411). -/
def chanMap : List RegRow :=
  [⟨MBX_CTL, false, 0, 0xC0000000, 0⟩, ⟨MBX_DB, false, 0, 0xFFFFFFFF, 0⟩, ⟨MBX_DBSET, false, 0, 0, 0⟩,
   ⟨MBX_DBMASK, false, 0xFFFFFFFF, 0, 0⟩] ++
  (List.range 16).map (fun k => ⟨MBX_MSG + k * 8, true, 0, 0, 0⟩)

/-- The reset values of a channel's registers that are not zero. -/
def chanReset (off : Nat) : Word := if off = MBX_DBMASK then 0xFFFFFFFF else 0

def MBX_HPOST : Nat := 0

/-- A staging area (R412). -/
def stageMap : List RegRow :=
  ⟨MBX_HPOST, false, 0x1F3F, 0, 0⟩ :: (List.range 16).map (fun k => ⟨0x80 + k * 8, true, 0xFFFFFFFFFFFFFFFF, 0, 0⟩)

def CLK_CFG : Nat := 0
def CLK_CYCLE : Nat := 8
def PWR_STATE : Nat := 0x100
def PWR_CAP : Nat := 0x108
def PWR_EST : Nat := 0x110
def PWR_THROT : Nat := 0x118
def PWR_LOFTCFG : Nat := 0x120
def THM_TEMP : Nat := 0x200
def THM_CFG : Nat := 0x208
def THM_STAT : Nat := 0x210

/-- The clock block (R449, R453 to R462). -/
def clkMap : List RegRow :=
  [⟨CLK_CFG, false, 0x3F, 0, 0⟩, ⟨CLK_CYCLE, true, 0, 0, 0⟩, ⟨PWR_STATE, false, 0, 0, 0⟩, ⟨PWR_CAP, false, 0xFFFF, 0, 0⟩,
   ⟨PWR_EST, false, 0, 0, 0⟩, ⟨PWR_THROT, false, 0, 0, 0⟩, ⟨PWR_LOFTCFG, false, 0xFFFFFFFF, 0, 0⟩,
   ⟨THM_TEMP, false, 0, 0, 0⟩, ⟨THM_CFG, false, 0xFFFFFF, 0, 0⟩, ⟨THM_STAT, false, 0, 9, 0⟩]

/-- The reset values of the clock block that are not zero. -/
def clkReset (off : Nat) : Word := if off = PWR_LOFTCFG then 0x3E8 else if off = THM_CFG then 0x5F6964 else 0

def ERR_WPTR : Nat := 0
def ERR_RPTR : Nat := 8
def ERR_LOST : Nat := 0x10
def ERR_CFG : Nat := 0x18
def ERR_EVCFG : Nat := 0x20
def ERR_ENTRY : Nat := 0x1000

/-- The error block but for the ring (R468 to R473). The three pointers stand in fields of their own. -/
def errMap : List RegRow :=
  [⟨ERR_WPTR, true, 0, 0, 0⟩, ⟨ERR_RPTR, true, 0, 0, 0⟩, ⟨ERR_LOST, true, 0, 0, 0⟩, ⟨ERR_CFG, false, 0x1003F, 0, 0⟩,
   ⟨ERR_EVCFG, false, 0x3F3F, 0, 0⟩]

end Sys2Proof.Machine
end

