-- ==== Sys2Proof/Machine/State.lean ====
section
/-! DEFINITION. The state of the die: every register map, memory, queue, buffer, counter, mode and pin that the spec names, as plain data; and the state after reset. -/

namespace Sys2Proof.Machine

/-- Why a step can fault. -/
inductive Fault where
  /-- The command names a core, cluster, slice, window slot, port, channel, queue or record number that the die does not have. Raised by every meaning that takes such a number; safe: the model stops on a command that no agent can send (log 3). -/
  | noSuchUnit
deriving DecidableEq, Repr

/-- Why a command can be refused. -/
inductive Refusal where
  /-- The command has no meaning yet. Raised by an arm of exec only, and by none now; safe. -/
  | notModelled (mnemonic : String)
deriving DecidableEq, Repr

/-- A register map of one block: offsets to contents. -/
abbrev Regs := Tab Word

/-- Where a core stands (R224, R407, R434). -/
inductive RunState where
  | held
  | running
  | halted
  | posting
deriving DecidableEq, Repr

/-- A leaf or a CONT group of 16 held in a translation cache (R347, R348, R356): the virtual and physical base of the pages it covers and their size in bytes. -/
structure TlbEntry where
  asid : Nat
  glob : Bool
  va : Nat
  size : Nat
  pa : Nat
  mt : Nat
  u : Bool
  x : Bool
  w : Bool
  r : Bool
  d : Bool
deriving DecidableEq, Repr

/-- A table entry held in the walk cache (R356): the context it was read under, as the root table's base, VBITS and the ASID; its level, the virtual address bits above the next level, and the next table's base. -/
structure WalkEntry where
  root : Nat
  vbits : Nat
  asid : Nat
  level : Nat
  key : Nat
  base : Nat
deriving DecidableEq, Repr

/-- A slot in the headbox: its bits, and the G values it has captured (R194). -/
structure Slot where
  word : Word
  gv : List Word
deriving DecidableEq, Repr

/-- What a wet HMV descriptor has read ahead (R272, R274): its felt offset, its bytes, its first source elements, the 64-byte lines that they occupy, and a held fault. -/
structure WetRead where
  off : Nat
  bytes : List Byte
  data : List (List Byte)
  lines : Nat
  held : Option (Nat × Word)
deriving DecidableEq, Repr

/-- A sheet in the headbox (R229 to R233). -/
structure Sheet where
  seq : Nat
  addr : Word
  wet : Bool
  nslots : Nat
  gone : Nat
  slots : List Slot
  hval : Word
  user : Bool
  vcap : Mem
  reads : List WetRead
deriving DecidableEq, Repr

/-- A slot in a unit queue: sheet number, place in the sheet, bits, captured values, and for a C slot its descriptor bytes (R144), the first bad felt unit among them (R254), and V registers (R148); of a CHOUT N - 1 and the pass-run state of its ream, once an operation after it would change them (R104, R107). -/
structure EngOp where
  seq : Nat
  pos : Nat
  word : Word
  gv : List Word
  user : Bool
  vcap : Mem
  desc : List Byte
  bad : Option Nat := none
  chain : Option (Nat × Nat) := none
deriving DecidableEq, Repr

/-- A claim on tile bytes (R65, R66). -/
structure Claim where
  seq : Nat
  pos : Nat
  lo : Nat
  hi : Nat
  write : Bool
deriving DecidableEq, Repr

/-- How far the hollander has got with a descriptor or command. -/
inductive HPhase where
  | unread
  | ready
  | issued
deriving DecidableEq, Repr

/-- A descriptor or vat command that the hollander holds (R12, R271, R303). `written`: the bytes of the elements that it has moved. `want`: the cluster and slices whose queues a vat command waits for, and the cycle in which it came (R14, R303). `ix`: the felt bytes of the index array, as its check read them (R268, R269). -/
structure HolEntry where
  seq : Nat
  pos : Nat
  idx : Nat
  off : Nat
  vcmd : Bool
  user : Bool
  bytes : List Byte
  phase : HPhase
  outstanding : Nat
  written : Nat
  stage : Option WetRead
  want : Option (Nat × List Nat × Nat) := none
  ix : Mem := []
deriving DecidableEq, Repr

/-- A B buffer (R82): its loaded mark, deckle and bytes. -/
structure BBuf where
  loaded : Bool
  deckle : Nat
  bytes : Mem
deriving DecidableEq, Repr

/-- A couch token (R99): ream, block, and N - 1 of the MMA that posted it. -/
structure Token where
  ream : Nat
  block : Nat
  n1 : Nat
deriving DecidableEq, Repr

/-- A chain block (R104): sender and receiver slots, block index, N - 1, pass-run state, and the elements (row in the block, column) of W and C by row × 512 + column. -/
structure ChainBlock where
  src : Nat
  dst : Nat
  block : Nat
  n1 : Nat
  run : Nat
  w : Tab Half
  c : Tab Half
deriving DecidableEq, Repr

/-- A calender summary (R171): sequence number, ANYNAN, COUNT, SUM, MAX. -/
structure Summary where
  seq : Nat
  anyNan : Bool
  count : Nat
  sum : Word
  max : Word
deriving DecidableEq, Repr

/-- The counts of a tally record in the order of R53, RAISE last. -/
structure Counts where
  sat : Nat := 0
  flush : Nat := 0
  nan : Nat := 0
  inf : Nat := 0
  zero : Nat := 0
  elems : Nat := 0
  raised : Nat := 0
deriving DecidableEq, Repr

/-- What a calender operation still does when it completes (R185): tally choice and offset, counts, flags, scale-table and history writes, its summary, the first read error it found, the generator as its draws left it (R46), the felt bytes that it names as (lowest, end, written) (R144, R183), and the ream that it drains (R76). -/
structure CalDone where
  seq : Nat
  pos : Nat
  nmode : Nat
  tally : Nat
  toff : Nat
  counts : Counts
  flags : Nat
  scup : Option (Nat × Nat)
  hist : Option (Nat × List Byte)
  sum : Option Summary
  bad : Option (Nat × Nat)
  rng : Word
  spans : List (Nat × Nat × Bool)
  drain : Option Nat := none
deriving DecidableEq, Repr

/-- The MMA that has started and not ended (R76, R101): the next row to stream, n′ of R119 and whether it ends the run, and what it has counted, raised and found so far. -/
structure MRun where
  row : Nat
  n : Nat
  endRun : Bool
  counts : Counts
  flags : Nat
  bad : Option (Nat × Nat)
deriving DecidableEq, Repr

/-- An ESAVE that has begun (R76, R480): whether it stopped an MMA, its pages as (offset, physical address), and whether they have been written. -/
structure Saving where
  stopped : Bool
  pages : List (Nat × Nat)
  written : Bool
deriving DecidableEq, Repr

/-- The engines of one core slot. `chSent`: blocks that the running CHOUT has sent (R104). -/
structure Eng where
  nextSeq : Nat := 0
  nextDry : Nat := 0
  headbox : List Sheet := []
  lq : List EngOp := []
  mq : List EngOp := []
  cq : List EngOp := []
  yq : List EngOp := []
  saving : Option Saving := none
  hol : List HolEntry := []
  claims : List Claim := []
  ewr : List (Nat × Nat × Word) := []
  recPos : Nat := 0
  recIdx : Nat := 0
  tiles : Mem := []
  b0 : BBuf := ⟨false, 0, []⟩
  b1 : BBuf := ⟨false, 0, []⟩
  bActive : Bool := false
  bWait : Bool := false
  reamW : Tab Half := []
  reamC : Tab Half := []
  runs : Tab Nat := []
  latestN : Tab Nat := []
  mrun : Option MRun := none
  chSent : Nat := 0
  couch : List Token := []
  chainIn : List ChainBlock := []
  sums : List Summary := []
  calDone : List CalDone := []
  felt : Mem := []
  feltBad : Tab Bool := []
  tileBad : Tab Bool := []
  bBad : Tab Bool := []
  reamBad : Tab Bool := []
deriving DecidableEq, Repr

/-- A TLB invalidation that has not completed (R360); the sheets, remote requests and agents with waiting stores whose accesses were in flight, on cores that lost an entry, when it arrived. -/
structure TlbiReq where
  op : Nat
  die : Bool
  asid : Nat
  va : Nat
  sheets : List (Nat × Nat) := []
  tags : List Nat := []
  agents : List Nat := []
deriving DecidableEq, Repr

/-- One Faloc core with its engines (R9). `regs` holds register contents, staged ones for the core control class; `act` the active values of that class (R241). -/
structure Core where
  run : RunState := .held
  pc : Word := 0
  g : Tab Word := []
  f : Tab Word := []
  v : Mem := []
  regs : Regs := []
  act : Regs := []
  dtab : Tab Word := []
  dtabAct : Tab Word := []
  /-- the L1 ITLB and DTLB, the L2 TLB, and the hollander's (R356) -/
  itlb : List TlbEntry := []
  dtlb : List TlbEntry := []
  tlb : List TlbEntry := []
  htlb : List TlbEntry := []
  wcache : List WalkEntry := []
  lock : Tab (Option TlbEntry) := []
  tlbi : Option TlbiReq := none
  /-- the lines in the core's caches: `some true` when held modified (R287) -/
  l2 : Tab (Option Bool) := []
  /-- of lines held clean whose copy here no longer agrees with memory: the copy's bytes and its poison mark (R295, R334) -/
  kept : Tab (Option (List Byte × Bool)) := []
  /-- the lines in the L1D, newest first (R216) -/
  l1d : List Nat := []
  /-- the predictors (R219): branches that have an entry in the direction tables, JALRs with the target that the target buffer holds, and the return stack, each with the newest first -/
  hist : List Word := []
  btb : List (Word × Word) := []
  ras : List Word := []
  dbgHalt : Bool := false
  dbgStep : Bool := false
  eng : Eng := {}
deriving DecidableEq, Repr

/-- A vat command in a slice queue (R303, R304): the agent that sent it, and for a VCMD the hollander's entry that it answers to, as (core, sheet, slot, index); addresses are resolved. `late`: it reached the slice while VAT_CFG.ENABLE was 0 (R292). -/
structure VCmd where
  agent : Nat
  core : Option (Nat × Nat × Nat × Nat)
  window : Bool
  ftz : Bool
  nmode : Nat
  bytes : List Byte
  home : Nat
  inAddr : Nat
  outAddr : Nat
  flagAddr : Nat
  inData : List Byte
  late : Bool := false
deriving DecidableEq, Repr

/-- A vat command that has run and is not yet complete (R315). -/
structure VDone where
  cmd : VCmd
  flags : Nat
deriving DecidableEq, Repr

/-- A query buffer (R308). -/
structure QBuf where
  fmt : Nat
  nq : Nat
  d : Nat
  bytes : List Byte
deriving DecidableEq, Repr

/-- A line in a cache way of a vat (R283): line number (address / 64) and dirty mark. -/
structure VLine where
  line : Nat
  dirty : Bool
deriving DecidableEq, Repr

/-- A range operation in progress (R295). -/
structure RangeOp where
  op : Nat
  base : Nat
  size : Nat
  closing : Bool
deriving DecidableEq, Repr

/-- One vat (R282). `kept`: as in a core. Tables are keyed (slice × 2,048 + set) × 16 + way, slice × 2,048 + set, slice × 16 + way, and slice. -/
structure Vat where
  regs : Regs := []
  lines : Tab (Option VLine) := []
  kept : Tab (Option (List Byte × Bool)) := []
  plru : Tab Nat := []
  wayCe : Tab Nat := []
  stream : Tab Bool := []
  qbuf : Tab (Option QBuf) := []
  queue : Tab (List VCmd) := []
  done : Tab (List VDone) := []
  win : Tab Word := []
  range : Option RangeOp := none
  closing : Bool := false
deriving DecidableEq, Repr

/-- An update request at a memory controller (R336): its sender's entry, its place among the descriptor's requests, the virtual address of its first element, granule address, operation (0 add, 1 max, 2 min), type, flush mode, and (byte offset, value) pairs. -/
structure UpdReq where
  core : Nat
  seq : Nat
  pos : Nat
  idx : Nat
  ord : Nat
  va : Word
  granule : Nat
  op : Nat
  utype : Nat
  ftz : Bool
  elems : List (Nat × Nat)
deriving DecidableEq, Repr

/-- One stack port (R324): the update requests in its queue, and those that wait for it in the mesh (R12). -/
structure Port where
  regs : Regs := []
  upd : List UpdReq := []
  mesh : List UpdReq := []
  scrub : Nat := 0
deriving DecidableEq, Repr

/-- One Delnel port (R362 to R369): registers; the receive side, with its next sequence number, its lanes, the credits it owes and what it has to acknowledge; the transmit side, with its lanes, credits, round robin, replay buffer and parking; whether a negative acknowledgement is out for the next block, and whether the block that was negatively acknowledged has been sent again (R365); and the notice accumulators as (source, class, count) (R391). -/
structure Link where
  regs : Regs := []
  rxSeq : Nat := 0
  rx : Tab (List Flit) := []
  creditDue : Tab Nat := []
  ackDue : Option Nat := none
  nakDue : Option Nat := none
  tx : Tab (List Flit) := []
  credits : Tab Nat := []
  lane : Nat := 0
  txSeq : Nat := 0
  replay : List LinkBlock := []
  resend : List LinkBlock := []
  nakSeq : Nat := 0
  nakCount : Nat := 0
  sinceIdle : Nat := 0
  parking : Bool := false
  nakSent : Bool := false
  replayed : Bool := false
  acc : List (Nat × Nat × Nat) := []
deriving DecidableEq, Repr

/-- The run-time state of a bucket (R383, R386, R387): landed flits by index as (LEN, LAST), the next flit to process; for SPARSE the flits sent, records kept back for the next one, incoming records not merged yet, and the place in the local list; and the indices of the parameter flits written. -/
structure Bkt where
  landed : Tab (Option (Nat × Bool)) := []
  next : Nat := 0
  outIdx : Nat := 0
  carry : List (Nat × Nat) := []
  carryIn : List (Nat × Nat) := []
  locPos : Nat := 0
  retSeen : List Nat := []
deriving DecidableEq, Repr

/-- A remote request (R376, R377): its tag, the core that made it, whether it writes, the device, the address there and the length; the hollander descriptor it belongs to as (sheet, place, index), or none for a core access; the data that responses have brought and its user has not taken yet; whether the request failed, and whether its data came marked poisoned. A mover's requests carry the service core's number and the descriptor's index (R399). -/
structure RemReq where
  tag : Nat
  core : Nat
  write : Bool
  dev : Nat
  addr : Nat
  len : Nat
  desc : Option (Nat × Nat × Nat)
  data : Option (List Byte)
  failed : Bool := false
  bad : Bool := false
deriving DecidableEq, Repr

/-- The Delnel block (R11, R370 to R393). -/
structure Dln where
  regs : Regs := []
  route : Tab Half := []
  links : Tab Link := []
  inbox : List (Nat × Flit) := []
  outq : List Flit := []
  bkts : Tab Bkt := []
  /-- the buckets in POSTED, REDUCED or RETURNING (R379) -/
  active : List Nat := []
  reqs : List RemReq := []
  nextTag : Nat := 0
deriving DecidableEq, Repr

/-- A sender that waits for the grant of a channel (R404, R412): agent, LEN and message. -/
structure WaitPost where
  agent : Nat
  len : Nat
  msg : List Word
deriving DecidableEq, Repr

/-- One mailbox channel (R403): its registers, where the round robin goes on (R406), whether the sender of the post in the slot still waits for it (R407, R418, R441), and the senders that wait for the grant. -/
structure Channel where
  regs : Regs := []
  rr : Nat := 0
  owed : Bool := false
  wait : List WaitPost := []
deriving DecidableEq, Repr

/-- A live change in progress (R438 to R446): command, cluster, slots, sender and its result channel, record to apply, watermark, and phase. -/
structure Change where
  cmd : Nat
  cluster : Nat
  old : Nat
  spare : Nat
  sender : Nat
  result : Nat
  record : List Byte
  stamp : Word
  /-- 0 waiting for the cores to halt, 1 self-testing -/
  phase : Nat
  forced : Bool
deriving DecidableEq, Repr

/-- Loft entry and exit in progress (R460 to R462); `parking`: entry has come to step 5 of R461. -/
inductive LoftPhase where
  | none
  | entering
  | parking
  | loft
  | exiting
deriving DecidableEq, Repr

/-- A section that state COPY reads again (R431): its type, offset, size, destination and digest. -/
structure CopySect where
  typ : Nat
  index : Nat
  off : Nat
  size : Nat
  dest : Nat
  digest : List Byte
deriving DecidableEq, Repr

/-- The mill (R394, R398, R424 to R446). -/
structure Mill where
  regs : Regs := []
  sram : Mem := []
  dieRec : List Byte := []
  clusRec : Tab (List Byte) := []
  copies : List CopySect := []
  source : Nat := 0
  hostAgain : List Byte := []
  hostEnd : HostEnd := .ok
  hostAddr : Nat := 0
  mapWritten : Bool := false
  clkSet : Bool := false
  /-- the die has found an error of its logic that cannot be corrected, and FATAL has still to come (R463, R467) -/
  doomed : Bool := false
  /-- the queue that the mover looks at first for its next descriptor (R400) -/
  mvNext : Nat := 0
  /-- MILL_MVQn as each running batch started with it (R399) -/
  batch : Tab Word := []
  /-- for each queue, the descriptors of the running batch that have completed, and of the next one with a remote destination the elements that it has written -/
  moved : Tab Nat := []
  mvElem : Tab Nat := []
  change : Option Change := none
  /-- the cores that the mill controller has stopped, whose released engine work may still complete (R441) -/
  stopping : List Nat := []
  loft : LoftPhase := .none
  loftQueue : List Bool := []
  warnAt : Option Nat := none
  swarnAt : Option Nat := none
deriving DecidableEq, Repr

/-- The MSI-X table after a reset: every vector masked, as PCIe defines it (PRESUMED, log 17). -/
def msixTableReset : Mem := (List.range 8).map (fun v => (16 * v + 12, 1))

/-- The PCIe host port (R414 to R418). `mps` and `mrrs` are PCIe's codes; `aerU` and `aerC` the AER status bits. -/
structure HostPort where
  regs : Regs := []
  bme : Bool := false
  cto : Nat := 0
  ctoOff : Bool := false
  mps : Nat := 0
  mrrs : Nat := 2
  ecrcGen : Bool := false
  ecrcCheck : Bool := false
  aerU : Nat := 0
  aerC : Nat := 0
  msixEn : Bool := false
  msixMask : Bool := false
  d3 : Bool := false
  table : Mem := msixTableReset
  pba : Tab Bool := []
deriving DecidableEq, Repr

/-- An entry of the error log (R471). -/
structure Entry where
  time : Nat := 0
  code : Nat := 0
  agent : Nat := 0
  sev : Nat := 0
  count : Nat := 0
  unit : Nat := 0
  addr : Nat := 0
  detail : Nat := 0
deriving DecidableEq, Repr

/-- The error block (R468 to R473). -/
structure Err where
  wptr : Nat := 0
  rptr : Nat := 0
  lost : Nat := 0
  regs : Regs := []
  ring : Tab Entry := []
deriving DecidableEq, Repr

/-- The instruction that the TAP holds (R475, R476). -/
inductive TapInstr where
  | bypass | idcode | samplePreload | extest | clamp | highz | extestPulse | extestTrain | debug
deriving DecidableEq, Repr

/-- The test port (R475). -/
structure Jtag where
  ir : TapInstr := .idcode
  captured : List Bool := []
  update : List Bool := []
deriving DecidableEq, Repr

/-- A store that waits for room (R12, R379); at a slice queue since cycle `at_` (R303). -/
inductive Waiter where
  | window (ag c sl slot : Nat) (cmd : VCmd) (at_ : Nat)
  | bucket (ag b : Nat) (ret : Bool)
deriving DecidableEq, Repr

/-- What the die drives outwards (log 13). -/
inductive OutMsg where
  | hostData (bytes : List Byte)
  | hostUnsupported
  | hostAbort
  | smbus (addr : Nat) (bytes : List Byte) (pec : Byte)
  | smbusNak
  | msix (v : Nat)
  | hostWrite (addr : Nat) (bytes : List Byte)
  | link (p : Nat) (b : LinkBlock)
  | tripLow
  | alert (low : Bool)
  | tdo (bits : List Bool)
  | debugData (v : Word)
deriving DecidableEq, Repr

/-- The whole die. -/
structure State where
  pending : List Instr
  powered : Bool
  board : Board
  cores : Tab Core
  mem : Mem
  /-- lines that a cache holds modified: the bytes that their stack still holds, and its poison mark (R334, R335) -/
  stale : Tab (Option (List Byte × Bool))
  poison : Tab Bool
  transit : List ChainBlock
  vats : Tab Vat
  memRegs : Regs
  ports : Tab Port
  dln : Dln
  mbx : Tab Channel
  stage : Tab Regs
  mill : Mill
  host : HostPort
  clk : Regs
  err : Err
  jtag : Jtag
  waiters : List Waiter
  /-- the errors that the storage will report, oldest first for each unit (log 80) -/
  upsets : List (Loc × Ecc)
  free : Nat
  outbox : List OutMsg
deriving DecidableEq, Repr

/-- The state right after reset: every block at its reset values, nothing listed in any memory, no command waiting. Tables list nothing, so every register reads as its reset value. RESET_N is still low: POWER_UP_RESET releases it (R431, R451). -/
def State.reset : State :=
  { pending := [], powered := false, board := {}, cores := [], mem := [], stale := [], poison := [], transit := [],
    vats := [], memRegs := [], ports := [], dln := {}, mbx := [], stage := [], mill := {}, host := {}, clk := [],
    err := {}, jtag := {}, waiters := [], upsets := [], free := 0, outbox := [] }

end Sys2Proof.Machine
end

