-- ==== Sys2Proof/Machine/Ops.lean ====
section
/-! DEFINITION. The named operations over the die's state: cores and their registers, the error log, interrupts, counters, the physical map and coherent memory, and the one entry into an exception. -/

namespace Sys2Proof.Machine

/-- The outcome of a command. -/
abbrev Out := Host.Outcome State Fault Refusal

/-- A command on a unit number that exists (log 3). -/
def guardUnit (ok : Bool) (s : State) : Out := if ok then .next s else .fault .noSuchUnit

-- cores and registers

/-- The core of agent `k`. -/
def State.core (s : State) (k : Nat) : Core := Tab.get {} s.cores k

def State.setCore (s : State) (k : Nat) (c : Core) : State := { s with cores := Tab.set {} s.cores k c }

def State.updCore (s : State) (k : Nat) (f : Core → Core) : State := s.setCore k (f (s.core k))

/-- A core register's contents; of the core control class the staged ones (R241). -/
def Core.reg (c : Core) (off : Nat) : Word := Tab.get (coreReset off) c.regs off

def Core.setReg (c : Core) (off : Nat) (v : Word) : Core := { c with regs := Tab.set (coreReset off) c.regs off v }

/-- The active value of a core control class register (R241). -/
def Core.actReg (c : Core) (off : Nat) : Word := Tab.get (coreReset off) c.act off

def Core.setActReg (c : Core) (off : Nat) (v : Word) : Core := { c with act := Tab.set (coreReset off) c.act off v }

/-- A general register (R6 names G0 to G31). -/
def Core.greg (c : Core) (r : Nat) : Word := Tab.get 0 c.g r

def Core.setG (c : Core) (r : Nat) (v : Word) : Core := { c with g := Tab.set 0 c.g r v }

/-- A floating register. -/
def Core.freg (c : Core) (r : Nat) : Word := Tab.get 0 c.f r

def Core.setF (c : Core) (r : Nat) (v : Word) : Core := { c with f := Tab.set 0 c.f r v }

def State.greg (s : State) (k : Nat) (r : Reg) : Word := (s.core k).greg r.toNat

def State.setG (s : State) (k : Nat) (r : Reg) (v : Word) : State := s.updCore k (fun c => c.setG r.toNat v)

def State.freg (s : State) (k : Nat) (r : Reg) : Word := (s.core k).freg r.toNat

def State.setF (s : State) (k : Nat) (r : Reg) (v : Word) : State := s.updCore k (fun c => c.setF r.toNat v)

def State.creg (s : State) (k off : Nat) : Word := (s.core k).reg off

def State.setCreg (s : State) (k off : Nat) (v : Word) : State := s.updCore k (fun c => c.setReg off v)

/-- A core in supervisor mode (CORE_ESTATE.MODE). -/
def Core.sup (c : Core) : Bool := (c.reg CORE_ESTATE).getLsbD 0

/-- CORE_ESTATE.IE. -/
def Core.ie (c : Core) : Bool := (c.reg CORE_ESTATE).getLsbD 1

/-- CORE_ESTATE.EE. -/
def Core.ee (c : Core) : Bool := (c.reg CORE_ESTATE).getLsbD 2

/-- Agents 0 to 35 are core slots with engines; 36 to 39 are service cores without (R395, R397). -/
def isSlot (k : Nat) : Bool := decide (k < 36)

/-- The cluster of a core slot. -/
def clusterOf (k : Nat) : Nat := k / 9

-- the other blocks

def State.vat (s : State) (c : Nat) : Vat := Tab.get {} s.vats c

def State.setVat (s : State) (c : Nat) (v : Vat) : State := { s with vats := Tab.set {} s.vats c v }

def Vat.reg (v : Vat) (off : Nat) : Word := Tab.get 0 v.regs off

def Vat.setReg (v : Vat) (off : Nat) (w : Word) : Vat := { v with regs := Tab.set 0 v.regs off w }

def State.port (s : State) (p : Nat) : Port := Tab.get {} s.ports p

def State.setPort (s : State) (p : Nat) (q : Port) : State := { s with ports := Tab.set {} s.ports p q }

def Port.reg (q : Port) (off : Nat) : Word := Tab.get (portReset off) q.regs off

def Port.setReg (q : Port) (off : Nat) (w : Word) : Port := { q with regs := Tab.set (portReset off) q.regs off w }

def State.link (s : State) (p : Nat) : Link := Tab.get {} s.dln.links p

def State.setLink (s : State) (p : Nat) (l : Link) : State := { s with dln := { s.dln with links := Tab.set {} s.dln.links p l } }

def Link.reg (l : Link) (off : Nat) : Word := Tab.get 0 l.regs off

def Link.setReg (l : Link) (off : Nat) (w : Word) : Link := { l with regs := Tab.set 0 l.regs off w }

def State.dlnReg (s : State) (off : Nat) : Word := Tab.get (dlnReset off) s.dln.regs off

def State.setDlnReg (s : State) (off : Nat) (w : Word) : State :=
  { s with dln := { s.dln with regs := Tab.set (dlnReset off) s.dln.regs off w } }

def State.chan (s : State) (ch : Nat) : Channel := Tab.get {} s.mbx ch

def State.setChan (s : State) (ch : Nat) (c : Channel) : State := { s with mbx := Tab.set {} s.mbx ch c }

def Channel.reg (c : Channel) (off : Nat) : Word := Tab.get (chanReset off) c.regs off

def Channel.setReg (c : Channel) (off : Nat) (w : Word) : Channel := { c with regs := Tab.set (chanReset off) c.regs off w }

def State.millReg (s : State) (off : Nat) : Word := Tab.get (millReset off) s.mill.regs off

def State.setMillReg (s : State) (off : Nat) (w : Word) : State :=
  { s with mill := { s.mill with regs := Tab.set (millReset off) s.mill.regs off w } }

def State.clkReg (s : State) (off : Nat) : Word := Tab.get (clkReset off) s.clk off

def State.setClkReg (s : State) (off : Nat) (w : Word) : State := { s with clk := Tab.set (clkReset off) s.clk off w }

def State.errReg (s : State) (off : Nat) : Word := Tab.get 0 s.err.regs off

def State.setErrReg (s : State) (off : Nat) (w : Word) : State := { s with err := { s.err with regs := Tab.set 0 s.err.regs off w } }

def State.memMapReg (s : State) : Word := Tab.get (memReset MEM_MAP) s.memRegs MEM_MAP

/-- The die's cycle counter (R449). -/
def State.cycle (s : State) : Nat := (s.clkReg CLK_CYCLE).toNat

/-- A core slot is ENABLED (MILL_SLOTEN). -/
def State.slotEnabled (s : State) (k : Nat) : Bool := (s.millReg MILL_SLOTEN).getLsbD k

/-- A core slot is SPARE (MILL_SLOTSP). -/
def State.slotSpare (s : State) (k : Nat) : Bool := (s.millReg MILL_SLOTSP).getLsbD k

/-- The agent exists on the die as a core that the mill can release: an enabled slot or a service core. -/
def State.coreEnabled (s : State) (k : Nat) : Bool := if k < 36 then s.slotEnabled k else decide (k < 40)

/-- The control-space offset of a core's block (R11, R397). -/
def coreBlock (k : Nat) : Nat :=
  if k < 36 then 0x01000000 + (k / 9) * 0x400000 + (k % 9) * 0x40000 else 0x80000 + (k - 36) * 0x20000

/-- The control-space offset of a vat's registers. -/
def vatBlock (c : Nat) : Nat := 0x01300000 + c * 0x400000

/-- The control-space offset of a stack port's registers. -/
def portBlock (p : Nat) : Nat := 0x02810000 + p * 0x1000

-- outputs, MSI-X, interrupts and the error log

/-- The boundary cells drive the balls, and the die's own traffic on them is lost (R475). -/
def TapInstr.drives : TapInstr → Bool
  | .extest => true
  | .extestPulse => true
  | .extestTrain => true
  | .clamp => true
  | .highz => true
  | .bypass => false
  | .idcode => false
  | .samplePreload => false
  | .debug => false

/-- The message leaves through the test port itself. -/
def OutMsg.onTap : OutMsg → Bool
  | .tdo _ => true
  | .debugData _ => true
  | _ => false

/-- The die drives something outwards (log 13). -/
def State.out (s : State) (m : OutMsg) : State := if s.jtag.ir.drives && !m.onTap then s else { s with outbox := s.outbox ++ [m] }

/-- MSI-X is enabled and the function may write to the host (R414, R417). -/
def State.msixOpen (s : State) : Bool := s.host.msixEn && s.host.bme && !s.host.d3

/-- The function or the vector is masked (log 17). -/
def State.msixMasked (s : State) (v : Nat) : Bool := s.host.msixMask || (s.host.table.read (v * 16 + 12)).getLsbD 0

def State.setPba (s : State) (v : Nat) (b : Bool) : State := { s with host := { s.host with pba := Tab.set false s.host.pba v b } }

/-- Send an MSI-X vector (R417): when MSI-X and Bus Master Enable are on it leaves, or, masked, stays pending as PCIe defines; otherwise nothing is sent (log 17). -/
def State.msix (s : State) (v : Nat) : State :=
  if s.msixOpen then if s.msixMasked v then s.setPba v true else s.out (.msix v) else s

/-- Send an MSI-X vector as soon as it can leave (R435). -/
def State.msixHold (s : State) (v : Nat) : State := if s.msixOpen && !s.msixMasked v then s.out (.msix v) else s.setPba v true

/-- Pending vectors that can leave do (R435, log 17). -/
def State.msixFlush (s : State) : State :=
  (List.range 8).foldl (fun s v => if s.msixOpen && Tab.get false s.host.pba v && !s.msixMasked v then (s.setPba v false).out (.msix v) else s) s

/-- Raise event source `src` at agent `k` (R226, R227); the mill controller, agent 40, has no such register. -/
def State.irq (s : State) (k src : Nat) : State :=
  if k < 40 then s.updCore k (fun c => c.setReg CORE_IPEND (c.reg CORE_IPEND ||| ((1 : Word) <<< src))) else s

/-- The severity of an error log code (R472). -/
def sevOf (code : Nat) : Nat :=
  if code = 0x0301 ∨ code = 0x0500 then 3
  else if code = 0x0006 ∨ code = 0x0007 ∨ code = 0x0101 ∨ code = 0x0102 ∨ code = 0x0111 ∨ code = 0x0112 ∨ code = 0x0113 ∨
      code = 0x0200 ∨ code = 0x0201 then 2
  else if code = 0x0005 ∨ code = 0x0008 ∨ code = 0x0100 ∨ code = 0x0202 then 1
  else 0

def logRefusedWrite : Nat := 0x0001
def logNoTarget : Nat := 0x0002
def logPostRefused : Nat := 0x0003
def logHostAccess : Nat := 0x0004
def logRemoteTimeout : Nat := 0x0005
def logWayWriteDrop : Nat := 0x0006
def logVatWindowCmd : Nat := 0x0007
def logHostReqErr : Nat := 0x0008
def logSramCe : Nat := 0x0100
def logSramUe : Nat := 0x0101
def logVatWaydis : Nat := 0x0102
def logStackUe : Nat := 0x0111
def logStackParity : Nat := 0x0112
def logPoisonConsumed : Nat := 0x0113
def logStackPortFail : Nat := 0x0200
def logSelftestFail : Nat := 0x0201
def logForcedStop : Nat := 0x0202
def logThermWarn : Nat := 0x0300
def logThermTrip : Nat := 0x0301
def logStackWarn : Nat := 0x0302
def logCounterOvf : Nat := 0x0400
def logFatal : Nat := 0x0500

/-- An ADDR that the spec does not state for a code (log 14). -/
def freeAddr (code : Nat) : Nat := (Config.logAddr (2 * code)).toNat

/-- A UNIT that the spec does not state for a code (log 14). -/
def freeUnit (code : Nat) : Nat := (Config.logAddr (2 * code + 1)).toNat % 2 ^ 16

/-- A DETAIL that the spec does not state for a code and case (log 14). -/
def freeDetail (code : Nat) : Nat := (Config.detail code 0 0).toNat

/-- The newest unread entry matches: the occurrence folds into it (R469). -/
def Err.folds (e : Err) (code agent unit addr : Nat) : Bool :=
  let n := Tab.get {} e.ring ((e.wptr - 1) % 256)
  decide (e.rptr < e.wptr) && n.code == code && n.agent == agent && n.unit == unit && n.addr == addr

/-- Add one occurrence to the newest entry (R469). -/
def Err.fold (e : Err) : Err :=
  let i := (e.wptr - 1) % 256
  let n := Tab.get {} e.ring i
  { e with ring := Tab.set {} e.ring i { n with count := Nat.min (n.count + 1) 0xFFFF } }

/-- Write a new entry at ERR_WPTR mod 256 (R468, R471). -/
def Err.push (e : Err) (time code agent sev unit addr detail : Nat) : Err :=
  { e with wptr := e.wptr + 1, ring := Tab.set {} e.ring (e.wptr % 256) ⟨time, code, agent, sev, 1, unit, addr, detail⟩ }

/-- Count a lost entry in ERR_LOST, with its OVF bit (R469, R473). -/
def Err.lose (e : Err) : Err × Bool :=
  let (n, top) := satInc e.lost 1
  let cfg := Tab.get 0 e.regs ERR_CFG
  let new := top && !cfg.getLsbD 17
  ({ e with lost := n, regs := if top then Tab.set 0 e.regs ERR_CFG (cfg ||| 0x20000) else e.regs }, new)

/-- Unread error log entries exist (R468). -/
def Err.unread (e : Err) : Bool := decide (e.rptr < e.wptr)

/-- The error block changes; ALERT_N is low while unread entries exist, and its changes show outwards (R419, R468). -/
def State.setErr (s : State) (e : Err) : State :=
  if s.err.unread = e.unread then { s with err := e } else State.out { s with err := e } (.alert e.unread)

/-- One error log occurrence without its counter event (R468, R469). -/
def State.logOnce (s : State) (code agent unit addr detail : Nat) : State × Bool :=
  if s.err.folds code agent unit addr then (s.setErr s.err.fold, false)
  else if 256 ≤ s.err.wptr - s.err.rptr then let (e, new) := s.err.lose; (s.setErr e, new)
  else ((s.setErr (s.err.push s.cycle code agent (sevOf code) unit addr detail)).msix 4, false)

/-- ERR_EVCFG enables counter group `g` (R473). -/
def State.evGroup (s : State) (g : Nat) : Bool := (s.errReg ERR_EVCFG).getLsbD g

/-- The agent that source 0x13 goes to (R473). -/
def State.evTarget (s : State) : Nat := wfld (s.errReg ERR_EVCFG) 8 6

/-- Write an error log entry: fold, write or lose it, and the event of ERR_LOST (R468 to R473). -/
def State.log (s : State) (code agent unit addr detail : Nat) : State :=
  let (s, new) := s.logOnce code agent unit addr detail
  if new && s.evGroup 5 then ((s.irq s.evTarget 0x13).logOnce logCounterOvf 0xFF (freeUnit logCounterOvf) (0x300000 + ERR_LOST) 5).1 else s

/-- A counter has newly reached its largest value: source 0x13 and COUNTER_OVF when its group is enabled (R473). -/
def State.counterOvf (s : State) (group off : Nat) : State :=
  if s.evGroup group then (s.irq s.evTarget 0x13).log logCounterOvf 0xFF (freeUnit logCounterOvf) off group else s

/-- Count `n` in a 64-bit counter at `off` with its OVF bit at (`ovf`, `b`): the registers, and whether it has newly reached its largest value (R281, R323, R342, R393, R473). -/
def bump (regs : Regs) (off ovf b n : Nat) : Regs × Bool :=
  let (v, top) := satInc (Tab.get 0 regs off).toNat n
  let o := Tab.get 0 regs ovf
  let regs := Tab.set 0 regs off (BitVec.ofNat 64 v)
  if top then (Tab.set 0 regs ovf (o ||| ((1 : Word) <<< b)), !o.getLsbD b) else (regs, false)

/-- Count in a counter of a core's block (R281, R474). -/
def State.bumpCore (s : State) (k group off ovf b n : Nat) : State :=
  let (regs, new) := bump (s.core k).regs off ovf b n
  let s := s.updCore k (fun c => { c with regs := regs })
  if new then s.counterOvf group (coreBlock k + off) else s

/-- Count event `code` in every event counter of core `k` that selects it (R474). -/
def State.event (s : State) (k code n : Nat) : State :=
  let sel := s.creg k CORE_EVSEL
  (List.range 4).foldl (fun s i =>
    if wfld sel (8 * i) 8 = code ∧ 0 < n ∧ (code < 0x10 ∨ k < 36) then s.bumpCore k 4 (CORE_EVCNT + 8 * i) CORE_EVCTL i n else s) s

/-- Count in a hollander counter: 0 HOL_BYTES, 1 HOL_RAUSE, 2 HOL_RADROP (R281). -/
def State.bumpHol (s : State) (k i n : Nat) : State := s.bumpCore k 0 (HOL_BYTES + 8 * i) HOL_CNTCTL i n

/-- Count in a vat counter: 0 hits, 1 misses, 2 declined offers, 3 corrected errors (R323). -/
def State.bumpVat (s : State) (c i n : Nat) : State :=
  let (regs, new) := bump (s.vat c).regs (VAT_HITS + 8 * i) VAT_CNTCTL i n
  let s := s.setVat c { s.vat c with regs := regs }
  if new then s.counterOvf 1 (vatBlock c + VAT_HITS + 8 * i) else s

/-- Count in a memory controller counter: 0 MEM_CE, 1 MEM_UE, 2 MEM_UPD (R342). -/
def State.bumpPort (s : State) (p i n : Nat) : State :=
  let (regs, new) := bump (s.port p).regs (MEM_CE + 8 * i) MEM_CNTCTL i n
  let s := s.setPort p { s.port p with regs := regs }
  if new then s.counterOvf 2 (portBlock p + MEM_CE + 8 * i) else s

/-- Count dropped flits (R371, R393). -/
def State.bumpDrops (s : State) (n : Nat) : State :=
  let (regs, new) := bump s.dln.regs DLN_DROPS DLN_CNTCTL 0 n
  let s := { s with dln := { s.dln with regs := regs } }
  if new then s.counterOvf 3 (0x02000000 + DLN_DROPS) else s

-- the physical map

/-- What a physical address reaches (R327). -/
inductive Target where
  | stack
  | vat (c off : Nat)
  | felt (k off : Nat)
  | ctl (off : Nat)
  | remote
  | none
deriving DecidableEq, Repr

/-- The memory map chosen: four ports instead of eight (R329). -/
def State.ways4 (s : State) : Bool := s.memMapReg.getLsbD 16

/-- The target of a physical address (R327 to R329). -/
def State.target (s : State) (pa : Nat) : Target :=
  if pa < 0x00C000000000 then if s.ways4 && decide (0x006000000000 ≤ pa) then .none else .stack
  else if 0x00E000000000 ≤ pa ∧ pa < 0x00E040000000 then .vat ((pa - 0x00E000000000) / 0x10000000) ((pa - 0x00E000000000) % 0x10000000)
  else if 0x00F000000000 ≤ pa ∧ pa < 0x00F012000000 then .felt ((pa - 0x00F000000000) / 0x800000) ((pa - 0x00F000000000) % 0x800000)
  else if 0x00FF00000000 ≤ pa ∧ pa < 0x010000000000 then .ctl (pa - 0x00FF00000000)
  else if 0x800000000000 ≤ pa ∧ pa < 0x1000000000000 then .remote
  else .none

/-- The type floor of a physical address: 0 cacheable, 2 device (R327). With WAYS at 1 the upper half of the stacks' range has target none (R329). -/
def State.typeFloor (s : State) (pa : Nat) : Nat :=
  if (pa < 0x00C000000000 ∧ s.target pa ≠ .none) ∨ (0x00E000000000 ≤ pa ∧ pa < 0x00E040000000) then 0 else 2

/-- The stack port and the offset at the stack of an address in stack memory (R329). -/
def State.portOf (s : State) (pa : Nat) : Nat × Nat :=
  if s.ways4 then (wfld s.memMapReg (4 * fld pa 12 2) 3, (pa / 2 ^ 14) * 4096 + pa % 4096)
  else (fld pa 12 3, (pa / 2 ^ 15) * 4096 + pa % 4096)

/-- The physical address of a stack offset of a port, the reverse of R329. -/
def State.addrOf (s : State) (p off : Nat) : Nat :=
  if s.ways4 then
    let k := ((List.range 4).find? (fun k => wfld s.memMapReg (4 * k) 3 == p)).getD 0
    (off / 4096) * 2 ^ 14 + k * 4096 + off % 4096
  else (off / 4096) * 2 ^ 15 + p * 4096 + off % 4096

/-- VAT_CFG.ADDRW. -/
def Vat.addrw (v : Vat) : Nat := wfld (v.reg VAT_CFG) 0 5

/-- VAT_STAT.ENABLED. -/
def Vat.enabled (v : Vat) : Bool := (v.reg VAT_STAT).getLsbD 0

/-- VAT_STAT.INVALIDATED. -/
def Vat.invalidated (v : Vat) : Bool := (v.reg VAT_STAT).getLsbD 1

/-- VAT_STAT.BUSY. -/
def Vat.busy (v : Vat) : Bool := (v.reg VAT_STAT).getLsbD 2

/-- VAT_STAT.QUIESCED. -/
def Vat.quiesced (v : Vat) : Bool := (v.reg VAT_STAT).getLsbD 4

/-- A window offset reaches an addressable byte (R285). -/
def Vat.reaches (v : Vat) (off : Nat) : Bool := v.enabled && decide (off < v.addrw * 0x400000)

/-- A way is disabled in a slice (R301). -/
def Vat.wayDisabled (v : Vat) (sl way : Nat) : Bool := (v.reg (VAT_WAYDIS + 8 * sl)).getLsbD way

/-- The slice, way and set of a window offset (R284). -/
def Vat.place (v : Vat) (j : Nat) : Nat × Nat × Nat :=
  let l := (j / 2 ^ 17) * 64 + fld j 6 6
  (fld j 12 5, 16 - v.addrw + l / 2048, l % 2048)

/-- The window offset lies in a way that its slice has disabled (R302). -/
def Vat.offDisabled (v : Vat) (j : Nat) : Bool := let (sl, w, _) := v.place j; v.wayDisabled sl w

/-- The mill controller holds the cluster's windows: a live change of it has passed its checks (R440, R442), or the cluster stays quiesced (R445). -/
def State.held (s : State) (c : Nat) : Bool :=
  (match s.mill.change with | some ch => ch.cluster == c | none => false) || (s.vat c).quiesced

/-- The cluster in whose command windows an offset of control space lies (R11, R303). -/
def windowCluster (off : Nat) : Option Nat :=
  if 0x1000000 ≤ off ∧ off < 0x2000000 ∧ 0x340000 ≤ off % 0x400000 ∧ off % 0x400000 < 0x360000 then some ((off - 0x1000000) / 0x400000) else none

/-- The target is a window of a held cluster: its addressable window, a felt window, or a command window (R440, R442). -/
def State.heldTarget (s : State) : Target → Bool
  | .vat c _ => s.held c
  | .felt k _ => s.held (clusterOf k)
  | .ctl off => (windowCluster off).any s.held
  | _ => false

/-- An access of agent `ag` to this target waits (R440, R442): the window of a held cluster, for every agent but the mill controller and the host. -/
def State.waitsFor (s : State) (ag : Nat) (t : Target) : Bool := s.heldTarget t && decide (ag < 40)

/-- The felt byte at an offset. -/
def State.feltByte (s : State) (k off : Nat) : Byte := (s.core k).eng.felt.read off

/-- The byte that a physical address reaches, none where it reaches no byte of memory (R259, R285, R328). -/
def State.physByte (s : State) (pa : Nat) : Option Byte :=
  match s.target pa with
  | .stack => some (s.mem.read pa)
  | .vat c off => if (s.vat c).reaches off then some (s.mem.read pa) else none
  | .felt k off => if s.slotEnabled k then some (s.feltByte k off) else none
  | _ => none

/-- The byte carries the poison mark or has an uncorrectable error (R254, R302, R334). -/
def State.physBad (s : State) (pa : Nat) : Bool :=
  match s.target pa with
  | .stack => Tab.get false s.poison (pa / 64)
  | .vat c off => Tab.get false s.poison (pa / 64) || ((s.vat c).reaches off && (s.vat c).offDisabled off)
  | .felt k off => s.slotEnabled k && Tab.get false (s.core k).eng.feltBad (off / 8)
  | _ => false

/-- `n` bytes from a physical address; bytes that no target holds read zero (R328). -/
def State.physRead (s : State) (pa : Nat) : Nat → List Byte
  | 0 => []
  | n + 1 => (s.physByte pa).getD 0 :: s.physRead (pa + 1) n

/-- The first of `n` addresses that reaches no byte. -/
def State.firstHole (s : State) (pa : Nat) : Nat → Option Nat
  | 0 => none
  | n + 1 => if (s.physByte pa).isNone then some pa else s.firstHole (pa + 1) n

/-- Some of `n` bytes carries poison. -/
def State.anyBad (s : State) (pa : Nat) : Nat → Bool
  | 0 => false
  | n + 1 => s.physBad pa || s.anyBad (pa + 1) n

-- the headbox's wet sheets and exceptions

/-- Drop the wet sheets, which stand behind the dry ones in order; the next sheet takes the number of the first of them (R229, R233). Answers the sheets dropped and the descriptors whose run-ahead data goes. -/
def Eng.squash (e : Eng) : Eng × Nat × Nat :=
  let wet := e.headbox.filter Sheet.wet
  let keep := e.headbox.filter (fun h => !h.wet)
  let next := match wet with | h :: _ => h.seq | [] => e.nextSeq
  ({ e with headbox := keep, nextSeq := next }, wet.length,
    (wet.map (fun h => (h.reads.filter (fun r => !r.data.isEmpty)).length)).sum)

/-- Squash every wet sheet of a core, with its counters (R233, R474). -/
def State.squash (s : State) (k : Nat) : State :=
  let (e, n, r) := (s.core k).eng.squash
  let s := s.updCore k (fun c => { c with eng := e })
  let s := if r = 0 then s else s.bumpHol k 2 r
  s.event k 0x04 n

/-- Causes of CORE_ECAUSE.CODE (R223). -/
def excIllegal : Nat := 0x01
def excPriv : Nat := 0x02
def excIaddr : Nat := 0x03
def excIfetch : Nat := 0x04
def excLoad : Nat := 0x05
def excStore : Nat := 0x06
def excAlign : Nat := 0x07
def excFptrap : Nat := 0x08
def excTrap : Nat := 0x09
def excEngine : Nat := 0x0A
def excInterrupt : Nat := 0x10

/-- CORE_ESTATE on exception entry: MODE, IE and EE move to PMODE, PIE and PEE; supervisor mode, IE and EE clear (R222). -/
def estateEnter (e : Word) : Word := ((e &&& 7) <<< 4) ||| 1

/-- CORE_ESTATE on ERET: PMODE, PIE and PEE move back (R225). -/
def estateReturn (e : Word) : Word := (e &&& 0x70) ||| ((e >>> 4) &&& 7)

/-- Take an exception or interrupt (R222): squash the wet sheets, write CORE_EPC, CORE_ECAUSE, CORE_EADDR and CORE_EINFO, enter supervisor mode with IE and EE clear, and go on at CORE_EVEC. `uidx`: the micro-op of a customer instruction. -/
def State.takeException (s : State) (k code sub : Nat) (async : Bool) (addr epc : Word) (uidx : Option Nat) : State :=
  (s.squash k).updCore k (fun c =>
    let c := c.setReg CORE_EPC (epc &&& ~~~3)
    let c := c.setReg CORE_ECAUSE (BitVec.ofNat 64 (b2n async * 2 ^ 31 + (sub % 256) * 256 + code))
    let c := c.setReg CORE_EADDR addr
    let c := c.setReg CORE_EINFO (match uidx with | some u => BitVec.ofNat 64 (256 + u % 32) | none => 0)
    let c := c.setReg CORE_ESTATE (estateEnter (c.reg CORE_ESTATE))
    { c with pc := c.actReg CORE_EVEC &&& ~~~3, run := .running, dbgStep := false })

/-- Return from an exception (R225). -/
def State.returnException (s : State) (k : Nat) : State :=
  s.updCore k (fun c => { c.setReg CORE_ESTATE (estateReturn (c.reg CORE_ESTATE)) with pc := c.reg CORE_EPC &&& ~~~3 })

/-- An instruction of core `k` retires and goes on at `target`, or after its own word (R218); a single step of the debugger ends (R476). `uops`: micro-ops it counts (R474). -/
def State.retire (s : State) (k : Nat) (target : Option Word) (uops : Nat) : State :=
  (s.updCore k (fun c => { c with pc := target.getD (c.pc + 4), dbgStep := false })).event k 0x02 uops

-- interrupts

/-- GO of a channel. -/
def Channel.go (c : Channel) : Bool := (c.reg MBX_CTL).getLsbD 31

/-- A doorbell bit is set and not masked (R410). -/
def Channel.ringing (c : Channel) : Bool := decide ((c.reg MBX_DB &&& ~~~(c.reg MBX_DBMASK) &&& 0xFFFFFFFF) ≠ 0)

/-- The sources pending at core `k` (R226, R227): event bits as stored, level bits by their conditions. -/
def State.ipend (s : State) (k : Nat) : Word :=
  let c := s.chan k
  let e := s.errReg ERR_CFG
  let lv := b2n c.go * 2 ^ 16 + b2n c.ringing * 2 ^ 17 +
    b2n (e.getLsbD 16 && wfld e 0 6 == k && s.err.unread) * 2 ^ 21
  s.creg k CORE_IPEND ||| BitVec.ofNat 64 lv

/-- The highest-numbered source both pending and enabled (R227). -/
def State.irqSource (s : State) (k : Nat) : Option Nat :=
  let w := s.ipend k &&& s.creg k CORE_IEN
  ((List.range 34).reverse).find? (fun i => w.getLsbD i)

-- engine faults

/-- The unit codes of a slot (R193). -/
def unitH : Nat := 0
def unitL : Nat := 1
def unitM : Nat := 2
def unitC : Nat := 3
def unitY : Nat := 4

/-- The fault record as a core's registers hold it: where the fault stands as (sheet, slot, index) (R235). -/
structure FaultAt where
  seq : Nat
  pos : Nat
  idx : Nat
  unit : Nat
  code : Nat
  cause : Nat
  detail : Nat
deriving DecidableEq, Repr

/-- ENG_FREC0.VALID. -/
def Core.frecValid (c : Core) : Bool := (c.reg ENG_FREC0).getLsbD 63

/-- ENG_FREC0.HOLD. -/
def Core.frecHold (c : Core) : Bool := (c.reg ENG_FREC0).getLsbD 62

/-- Number `a` comes before `b`, modulo 2^48 over the sheets held at one time (R229). -/
def seqBefore (a b : Nat) : Bool := decide ((b + 2 ^ 48 - a % 2 ^ 48) % 2 ^ 48 ≠ 0) && decide ((b + 2 ^ 48 - a % 2 ^ 48) % 2 ^ 48 < 2 ^ 47)

/-- The fault stands before the recorded one (R235, R277, R318). -/
def Core.faultEarlier (c : Core) (f : FaultAt) : Bool :=
  let q := wfld (c.reg ENG_FREC0) 0 48
  seqBefore f.seq q || (f.seq % 2 ^ 48 == q && (decide (f.pos < c.eng.recPos) ||
    (f.pos == c.eng.recPos && decide (f.idx < c.eng.recIdx))))

/-- Fill the record with a fault (R235, R236): HOLD follows VALID. -/
def Core.fillRecord (c : Core) (f : FaultAt) (more : Nat) : Core :=
  let c := c.setReg ENG_FREC0 (BitVec.ofNat 64 (2 ^ 63 + 2 ^ 62 + f.seq % 2 ^ 48))
  let c := c.setReg ENG_FREC1 (BitVec.ofNat 64 (more * 2 ^ 56 + f.unit * 2 ^ 40 + f.code * 2 ^ 32 + f.cause))
  let c := c.setReg ENG_FREC2 (BitVec.ofNat 64 f.detail)
  let c := if f.unit = unitH then c.setReg HOL_STAT (wset (c.reg HOL_STAT) 27 5 f.idx) else c
  { c with eng := { c.eng with recPos := f.pos, recIdx := f.idx } }

/-- An engine slot faults (R235): it fills the record, replaces a later fault, or counts in MORE. -/
def Core.engFault (c : Core) (f : FaultAt) : Core :=
  if c.frecValid then
    let more := Nat.min (wfld (c.reg ENG_FREC1) 56 8 + 1) 255
    if c.faultEarlier f then c.fillRecord f more else c.setReg ENG_FREC1 (wset (c.reg ENG_FREC1) 56 8 more)
  else c.fillRecord f 0

def State.engFault (s : State) (k : Nat) (f : FaultAt) : State := s.updCore k (fun c => c.engFault f)

/-- A hollander descriptor or vat command faults (R277, R278, R318, R319): the record takes it, and it and those of its slot with a higher index go. -/
def State.holFail (s : State) (k seq pos idx code detail : Nat) : State :=
  let s := s.engFault k ⟨seq, pos, idx, unitH, code, 0, detail⟩
  let gone := fun (q p i : Nat) => q == seq && p == pos && decide (idx ≤ i)
  let s := s.updCore k (fun c => { c with eng := { c.eng with hol := c.eng.hol.filter (fun h => !gone h.seq h.pos h.idx) } })
  { s with dln := { s.dln with reqs := s.dln.reqs.filter (fun r =>
      match r.desc with
      | some (q, p, i) => !(r.core == k && gone q p i)
      | none => true) } }

/-- Clear VALID, HOLD, MORE and CAUSE (ENG_FCTL). -/
def Core.clearRecord (c : Core) : Core :=
  let c := c.setReg ENG_FREC0 (c.reg ENG_FREC0 &&& 0x3FFFFFFFFFFFFFFF)
  c.setReg ENG_FREC1 (c.reg ENG_FREC1 &&& 0x00FFFFFFFFFFFFE0)

end Sys2Proof.Machine
end

