-- ==== Sys2Proof/Machine/Cache.lean ====
section
/-! DEFINITION. Caches and coherent memory: the errors that storage reports (R254, R301, R302, R326, R333, R334, R463), victims and fills of the vats (R283, R294, R298 to R300), the directories (R287, R288), and reads and writes at the point of coherence (R286, R289, R332). -/

namespace Sys2Proof.Machine

/-- Every core drops its copy of a line, but core `keep`. -/
def State.dropCopies (s : State) (line : Nat) (keep : Option Nat) : State :=
  { s with cores := Tab.update {} s.cores (fun k c => if keep = some k then c else { c with l2 := Tab.set none c.l2 line none }) }

/-- Every vat drops its cached copy of a line. -/
def State.dropVatCopies (s : State) (line : Nat) : State :=
  { s with vats := Tab.update {} s.vats (fun _ v => { v with lines := v.lines.filter (fun p => decide (p.2.map VLine.line ≠ some line)) }) }

-- lines of a vat

/-- The vat caches lines: it is enabled and the split leaves it a cache way (R292). -/
def Vat.caches (v : Vat) : Bool := v.enabled && decide (v.addrw < 16)

/-- The slice and set of a stack line, by its line number (R283). -/
def lineSlice (line : Nat) : Nat := fld (line * 64) 12 5
def lineSet (line : Nat) : Nat := fld (line * 64) 17 5 * 64 + fld (line * 64) 6 6

/-- The key of a way of a set in a vat's line table. -/
def wayKey (sl set way : Nat) : Nat := (sl * 2048 + set) * 16 + way

/-- The way of its set that holds a line, if any. -/
def Vat.wayOf (v : Vat) (line : Nat) : Option Nat :=
  (List.range 16).find? (fun w => decide ((Tab.get none v.lines (wayKey (lineSlice line) (lineSet line) w)).map VLine.line = some line))

/-- A way that fills may take: a cache way that its slice has not disabled (R294). -/
def Vat.eligible (v : Vat) (sl w : Nat) : Bool := decide (w < 16 - v.addrw) && !v.wayDisabled sl w

/-- Some leaf below node `n` of the tree is an eligible way; `d` levels lie below (R294). -/
def treeHas (el : Nat → Bool) : Nat → Nat → Bool
  | 0, n => el (n - 16)
  | d + 1, n => treeHas el d (2 * n) || treeHas el d (2 * n + 1)

/-- The victim walk of R294 from node `n`, with `d` levels below. -/
def victimFrom (el : Nat → Bool) (bits : Nat) : Nat → Nat → Nat
  | 0, n => n - 16
  | d + 1, n =>
    let c := 2 * n + b2n (bit bits n)
    victimFrom el bits d (if treeHas el d c then c else 2 * n + 1 - b2n (bit bits n))

/-- Point the tree away from way `w` (R294). -/
def touchFrom : Nat → Nat → Nat → Nat
  | 0, _, bits => bits
  | d + 1, n, bits => touchFrom d (n / 2) (setFld bits (n / 2) 1 (b2n (n % 2 == 0)))

def Vat.touch (v : Vat) (sl set w : Nat) : Vat :=
  { v with plru := Tab.set 0 v.plru (sl * 2048 + set) (touchFrom 4 (w + 16) (Tab.get 0 v.plru (sl * 2048 + set))) }

/-- The way that a fill of a set takes: the lowest eligible way without a valid line, else the victim of the tree; none without an eligible way (R294). -/
def Vat.fillWay (v : Vat) (sl set : Nat) : Option Nat :=
  if !(List.range 16).any (v.eligible sl) then none
  else
    match (List.range 16).find? (fun w => v.eligible sl w && (Tab.get none v.lines (wayKey sl set w)).isNone) with
    | some w => some w
    | none => some (victimFrom (v.eligible sl) (Tab.get 0 v.plru (sl * 2048 + set)) 4 1)

-- errors of stack memory

/-- A corrected or uncorrectable error is the first since MEM_ERRADDR.VALID was cleared (R333, R334). -/
def State.errAddr (s : State) (p pa : Nat) (ue : Bool) : State :=
  if ((s.port p).reg MEM_ERRADDR).getLsbD 63 then s
  else s.setPort p ((s.port p).setReg MEM_ERRADDR (BitVec.ofNat 64 (2 ^ 63 + (if ue then 2 ^ 62 else 0) + (pa / 64) * 64 % 2 ^ 48)))

/-- What memory holds of a line, with its mark. -/
def State.memLine (s : State) (line : Nat) : List Byte × Bool := (s.mem.readN (line * 64) 64, Tab.get false s.poison line)

/-- A copy that differs from memory already stays as it is; another one keeps `x`. -/
def keepOne (kept : Tab (Option (List Byte × Bool))) (line : Nat) (x : List Byte × Bool) : Tab (Option (List Byte × Bool)) :=
  Tab.set none kept line (some ((Tab.get none kept line).getD x))

/-- Memory's bytes or mark of a line are about to change, and not those of the copies that caches and vats hold of it (R295, R334): each keeps its own (DEDUCED, log 88). -/
def State.keepCopies (s : State) (line : Nat) : State :=
  let x := s.memLine line
  { s with
    cores := Tab.update {} s.cores (fun _ c => if (Tab.get none c.l2 line).isSome then { c with kept := keepOne c.kept line x } else c),
    vats := Tab.update {} s.vats (fun _ v => if (v.wayOf line).isSome then { v with kept := keepOne v.kept line x } else v) }

/-- Memory as core `k`, when `cached` through its own L2, and cluster `c`'s vat show it: their copies of a line that differ from memory stand before it (R289, R334). -/
def State.seenBy (s : State) (cached : Bool) (k : Nat) : State :=
  let own := if cached then (s.core k).kept.filter (fun p => (Tab.get none (s.core k).l2 p.1).isSome) else []
  let vat := if k < 36 then (s.vat (clusterOf k)).kept.filter (fun p => ((s.vat (clusterOf k)).wayOf p.1).isSome) else []
  (vat ++ own).foldl (fun s p =>
    match p.2 with
    | some (bs, bad) => { s with mem := s.mem.writeN (p.1 * 64) bs, poison := Tab.set false s.poison p.1 bad }
    | none => s) s

/-- The granule in the stack takes the poison mark (R334): the line's own mark, or that of the stack's old copy while a cache holds the line modified (R335). Clean copies keep theirs. -/
def State.poisonStack (s : State) (line : Nat) : State :=
  match Tab.get none s.stale line with
  | some (bs, _) => { s with stale := Tab.set none s.stale line (some (bs, true)) }
  | none => let s := s.keepCopies line; { s with poison := Tab.set false s.poison line true }

/-- An uncorrectable error of a granule of port `p` counts in MEM_UE and in MEM_ERRADDR, and is logged (R326, R334, R465). -/
def State.portUe (s : State) (p pa code detail : Nat) : State := ((s.errAddr p pa true).bumpPort p 1 1).log code 0xFF p ((pa / 64) * 64) detail

/-- An uncorrectable error of the granule at a physical address. -/
def State.stackUe (s : State) (pa code detail : Nat) : State := s.portUe (s.portOf pa).1 pa code detail

/-- What the code of a stack granule reports for a read (R326, R333, R334, R465). `scrub` is the DETAIL of STACK_UE. -/
def State.stackEcc (s : State) (pa : Nat) (ecc : Ecc) (scrub : Nat) : State :=
  let p := (s.portOf pa).1
  match ecc with
  | .clean => s
  | .corrected => (s.errAddr p pa false).bumpPort p 0 1
  | .uncorrectable => (s.poisonStack (pa / 64)).stackUe pa logStackUe scrub
  | .parity => (s.poisonStack (pa / 64)).stackUe pa logStackParity (Config.detail logStackParity pa 0).toNat

/-- Take from the coming errors the first of each unit that `p` selects: those taken, and the rest in order (log 80). -/
def takeUpsets (p : Loc → Bool) : List (Loc × Ecc) → List Loc → List (Loc × Ecc) × List (Loc × Ecc)
  | [], _ => ([], [])
  | (l, e) :: t, seen =>
    if p l && !seen.contains l then let (h, r) := takeUpsets p t (l :: seen); ((l, e) :: h, r)
    else let (h, r) := takeUpsets p t seen; (h, (l, e) :: r)

/-- A write command reaches a stack granule: false when its eighth repeat fails its parity check too, which drops the write (R326). -/
def State.stackWrite (s : State) (line : Nat) : State × Bool :=
  match takeUpsets (fun l => decide (l = .stackWrite line)) s.upsets [] with
  | ([], _) => (s, true)
  | ((_, e) :: _, rest) =>
    let s := { s with upsets := rest }
    if e = .parity then (s.stackUe (line * 64) logStackParity (Config.detail logStackParity (line * 64) 1).toNat, false) else (s, true)

/-- A modified line is lost: memory holds what the stack holds, with its poison mark. Other copies keep the line as they have it (R295). -/
def State.loseLine (s : State) (line : Nat) : State :=
  match Tab.get none s.stale line with
  | some (bs, bad) =>
    let s := s.keepCopies line
    { s with mem := s.mem.writeN (line * 64) bs, stale := Tab.set none s.stale line none, poison := Tab.set false s.poison line bad }
  | none => s

/-- A modified line goes to stack memory: from then on the stack holds memory's bytes, unless the write is dropped (R326). -/
def State.stackPut (s : State) (line : Nat) : State :=
  if (Tab.get none s.stale line).isSome then
    let (s, ok) := s.stackWrite line
    if ok then { s with stale := Tab.set none s.stale line none } else s.loseLine line
  else s

-- errors of the die's own storage

/-- A line of a vat is in the way of its set as a modified line. -/
def Vat.dirtyAt (v : Vat) (line : Nat) : Bool :=
  match v.wayOf line with
  | some w => (Tab.get none v.lines (wayKey (lineSlice line) (lineSet line) w)).any VLine.dirty
  | none => false

/-- A line that a cache holds modified carries the poison mark from now on (R302, R463); clean copies elsewhere keep theirs. -/
def State.poisonLine (s : State) (line : Nat) : State := let s := s.keepCopies line; { s with poison := Tab.set false s.poison line true }

/-- A modified line is read out of a way for its write-back, and its error, if one comes, is found (R301, R302): a corrected one counts, an uncorrectable one marks the line. Answers whether the way is to be disabled. -/
def State.readOut (s : State) (c w line : Nat) : State × Bool :=
  match takeUpsets (fun l => decide (l = .vat c line)) s.upsets [] with
  | ([], _) => (s, false)
  | ((_, e) :: _, rest) =>
    let sl := lineSlice line
    let s := { s with upsets := rest }
    match e with
    | .corrected =>
      let s := (s.bumpVat c 3 1).log logSramCe 0xFF (c * 32 + sl) (line * 64) 1
      let n := Tab.get 0 (s.vat c).wayCe (sl * 16 + w) + 1
      (s.setVat c { s.vat c with wayCe := Tab.set 0 (s.vat c).wayCe (sl * 16 + w) n }, decide (8 ≤ n))
    | .uncorrectable => ((s.poisonLine line).log logSramUe 0xFF (c * 32 + sl) (line * 64) 1, true)
    | _ => (s, false)

/-- Disable a way of a slice (R301, R302): clean lines go, modified lines are read out and written to stack memory, and an addressable way's bytes are lost. -/
def State.disableWay (s : State) (c sl w : Nat) : State :=
  let v := s.vat c
  if v.wayDisabled sl w then s
  else
    let v1 := v.setReg (VAT_WAYDIS + 8 * sl) (v.reg (VAT_WAYDIS + 8 * sl) ||| ((1 : Word) <<< w))
    let gone := v.lines.filter (fun p => p.1 / 16 / 2048 == sl && p.1 % 16 == w)
    let v1 := { v1 with lines := v.lines.filter (fun p => !(p.1 / 16 / 2048 == sl && p.1 % 16 == w)) }
    let dirty := gone.filterMap (fun p => p.2.bind (fun l => if l.dirty then some l.line else none))
    (dirty.foldl (fun s l => (s.readOut c w l).1.stackPut l) (s.setVat c v1)).log logVatWaydis 0xFF (c * 32 + sl) (freeAddr logVatWaydis) w

/-- A read from a way of a vat finds an error at a physical address (R301, R302): a corrected one counts, and the eighth in a period disables the way; an uncorrectable one disables it, and a modified line goes to the stack marked poisoned. -/
def State.wayError (s : State) (c sl w pa : Nat) (ue : Bool) : State :=
  if ue then
    let s := if (s.vat c).dirtyAt (pa / 64) then s.poisonLine (pa / 64) else s
    (s.log logSramUe 0xFF (c * 32 + sl) pa 1).disableWay c sl w
  else
    let s := (s.bumpVat c 3 1).log logSramCe 0xFF (c * 32 + sl) pa 1
    let v := s.vat c
    let n := Tab.get 0 v.wayCe (sl * 16 + w) + 1
    let s := s.setVat c { v with wayCe := Tab.set 0 v.wayCe (sl * 16 + w) n }
    if 8 ≤ n then s.disableWay c sl w else s

/-- A read from cluster `c`'s vat at a physical address finds an error: in the cache way that holds the line, or in the addressable way of its window offset. -/
def State.vatError (s : State) (c pa : Nat) (ue : Bool) : State :=
  match (s.vat c).wayOf (pa / 64) with
  | some w => s.wayError c (lineSlice (pa / 64)) w pa ue
  | none =>
    match s.target pa with
    | .vat c' off =>
      if c' = c ∧ (s.vat c).reaches off then let (sl, w, _) := (s.vat c).place off; s.wayError c sl w pa ue else s
    | _ => s

/-- The physical address of a felt byte (R327). -/
def feltPa (k off : Nat) : Nat := 0x00F000000000 + k * 0x800000 + off

/-- An error in a core's own storage (R463): a corrected one is logged; an uncorrectable one is logged and leaves its mark on the core's engines. `store` is the DETAIL. -/
def State.coreSram (s : State) (k store pa : Nat) (ce : Bool) (mark : Eng → Eng) : State :=
  if ce then s.log logSramCe 0xFF k pa store
  else (s.updCore k (fun c => { c with eng := mark c.eng })).log logSramUe 0xFF k pa store

/-- An error in a line of a core's L2 (R463): a clean line is fetched again, a modified one keeps its bytes, poisoned where they cannot be corrected. -/
def State.l2Error (s : State) (k line : Nat) (ce : Bool) : State :=
  match Tab.get none (s.core k).l2 line with
  | none => s
  | some false => (s.updCore k (fun c => { c with l2 := Tab.set none c.l2 line none })).log logSramCe 0xFF k (line * 64) 6
  | some true =>
    if ce then s.log logSramCe 0xFF k (line * 64) 6
    else (s.poisonLine line).log logSramUe 0xFF k (line * 64) 6

/-- The entries of a core's translation caches that cover a page go, to be fetched again (R463); locked ones stay. -/
def Core.dropPage (c : Core) (page : Nat) : Core :=
  let keep := fun (t : TlbEntry) => !(decide (t.va ≤ page * 4096) && decide (page * 4096 < t.va + t.size))
  { c with itlb := c.itlb.filter keep, dtlb := c.dtlb.filter keep, tlb := c.tlb.filter keep, htlb := c.htlb.filter keep }

/-- An error of the die's own logic (R463): a corrected one is logged; an uncorrectable one is logged and fatal, which FATAL carries out. -/
def State.logicError (s : State) (unit : Nat) (ce : Bool) : State :=
  if ce then s.log logSramCe 0xFF unit (freeAddr logSramCe) 8
  else let s := s.log logSramUe 0xFF unit (freeAddr logSramUe) 8; { s with mill := { s.mill with doomed := true } }

/-- The protection of a unit reports an error for a read of it (R254, R301, R326, R333, R334, R463); only a stack's commands have parity. -/
def State.upset (s : State) (l : Loc) (e : Ecc) : State :=
  let ce := decide (e = .corrected)
  let onStack := match l with | .stack _ => true | _ => false
  if e = .clean ∨ (e = .parity ∧ onStack = false) then s
  else
    match l with
    | .felt k u => s.coreSram k 0 (feltPa k (8 * u)) ce (fun g => { g with feltBad := Tab.set false g.feltBad u true })
    | .tile k off => s.coreSram k 2 (freeAddr logSramCe) ce (fun g => { g with tileBad := Tab.set false g.tileBad (off / 8) true })
    | .bbuf k off => s.coreSram k 2 (freeAddr logSramCe) ce (fun g => { g with bBad := Tab.set false g.bBad (off / 8) true })
    | .ream k off => s.coreSram k 3 (freeAddr logSramCe) ce (fun g => { g with reamBad := Tab.set false g.reamBad (off / 8) true })
    | .l2 k line => s.l2Error k line ce
    | .l1i k line => s.log logSramCe 0xFF k (line * 64) 4
    | .l1d k line => s.log logSramCe 0xFF k (line * 64) 5
    | .tlb k page => (s.updCore k (fun c => c.dropPage page)).log logSramCe 0xFF k (freeAddr logSramCe) 7
    | .vat c line => s.vatError c (line * 64) (!ce)
    | .stack g => s.stackEcc (g * 64) e 0
    | .stackWrite _ => s
    | .logic k => s.logicError k ce
    | .mesh => s.logicError (freeUnit logSramUe) ce
    | .directory _ => s.logicError (freeUnit logSramUe) ce

/-- The units that `p` selects are read: the next error of each, if one is to come, is reported (log 80). -/
def State.strike (s : State) (p : Loc → Bool) : State :=
  if s.upsets.isEmpty then s
  else
    let (h, rest) := takeUpsets p s.upsets []
    h.foldl (fun s x => s.upset x.1 x.2) { s with upsets := rest }

/-- The unit that a read of a line by agent `ag` finds it in: the core's own L2, when it reads through that; else the cache of a core that holds the line modified; else a vat that holds it; else its stack (R250, R289). -/
def State.servedBy (s : State) (cached : Bool) (ag line : Nat) : Loc :=
  if cached && (Tab.get none (s.core ag).l2 line).isSome then .l2 ag line
  else
    match s.cores.find? (fun p => decide (Tab.get none p.2.l2 line = some true)) with
    | some p => .l2 p.1 line
    | none =>
      match s.vats.find? (fun p => (p.2.wayOf line).isSome) with
      | some p => .vat p.1 line
      | none => match s.target (line * 64) with | .vat c _ => .vat c line | _ => .stack line

/-- The units that a read of `n` bytes at a physical address by agent `ag` reads. -/
def State.readsOf (s : State) (cached : Bool) (ag pa n : Nat) : Loc → Bool
  | .felt k u => s.slotEnabled k && decide (u < 0x100000) && decide (pa < feltPa k (8 * u) + 8) && decide (feltPa k (8 * u) < pa + n)
  | .l1d k line => cached && k == ag && decide (pa < line * 64 + 64) && decide (line * 64 < pa + n)
  | .l2 k line => decide (pa < line * 64 + 64) && decide (line * 64 < pa + n) && decide (s.servedBy cached ag line = .l2 k line)
  | .vat c line => decide (pa < line * 64 + 64) && decide (line * 64 < pa + n) && decide (s.servedBy cached ag line = .vat c line)
  | .stack line => decide (pa < line * 64 + 64) && decide (line * 64 < pa + n) && decide (s.servedBy cached ag line = .stack line)
  | .mesh => !(cached && (Tab.get none (s.core ag).l2 (pa / 64)).isSome)
  | _ => false

/-- A read of a line that a vat's cache way serves touches the way (R294). -/
def State.touchHit (s : State) (cached : Bool) (ag line : Nat) : State :=
  match s.servedBy cached ag line with
  | .vat c _ =>
    match (s.vat c).wayOf line with
    | some w => s.setVat c ((s.vat c).touch (lineSlice line) (lineSet line) w)
    | none => s
  | _ => s

/-- The reads of the lines of `n` bytes touch the ways of the vats that serve them. -/
def State.touchHits (s : State) (cached : Bool) (ag pa n : Nat) : State :=
  if s.vats.all (fun p => p.2.lines.isEmpty) || n == 0 then s
  else (List.range ((pa % 64 + n - 1) / 64 + 1)).foldl (fun s i => s.touchHit cached ag (pa / 64 + i)) s

/-- `n` bytes at a physical address are read: errors that their storage reports take effect first, and a vat's way that serves a line is touched (R294). -/
def State.strikeMem (s : State) (cached : Bool) (ag pa n : Nat) : State := (s.strike (s.readsOf cached ag pa n)).touchHits cached ag pa n

/-- Read `n` bytes at a physical address by an agent that caches nothing. -/
def State.readMem (s : State) (ag pa n : Nat) : State × List Byte := let s := s.strikeMem false ag pa n; (s, (s.seenBy false ag).physRead pa n)

/-- A modified line is read from the cache that holds it, and goes to stack memory (R287, R301, R463). -/
def State.writeBack (s : State) (line : Nat) : State :=
  match s.vats.find? (fun p => p.2.dirtyAt line) with
  | some (c, v) =>
    let w := (v.wayOf line).getD 0
    let (s, off) := s.readOut c w line
    let s := s.stackPut line
    if off then s.disableWay c (lineSlice line) w else s
  | none => (s.strike (fun l => match l with | .l2 _ x => x == line | _ => false)).stackPut line

/-- What the protection of the bytes at an address reports for an access, as its command states it (R254, R301, R333, R334, R463): of the felt unit, or of the store that serves the line. -/
def State.accessEcc (s : State) (cached : Bool) (ag pa : Nat) (ecc : Ecc) : State :=
  match s.target pa with
  | .felt k off => if s.slotEnabled k then s.upset (.felt k (off / 8)) ecc else s
  | .stack => s.upset (s.servedBy cached ag (pa / 64)) ecc
  | .vat c off => if (s.vat c).reaches off then s.upset (s.servedBy cached ag (pa / 64)) ecc else s
  | _ => s

-- offers, fills and directories

/-- The cluster's core slots, or its vat, hold a line modified. -/
def State.clusterDirty (s : State) (c line : Nat) : Bool :=
  (List.range 9).any (fun i => decide (Tab.get none (s.core (9 * c + i)).l2 line = some true)) || (s.vat c).dirtyAt line

/-- A write by an agent that caches nothing reaches memory: every copy of the line is recalled first (R289), and the stack holds the bytes. -/
def State.recall (s : State) (line : Nat) : State := ((s.writeBack line).dropCopies line none).dropVatCopies line

/-- The line belongs to stack memory, not to a vat's window. -/
def State.stackLineOk (s : State) (line : Nat) : Bool := decide (s.target (line * 64) = .stack)

/-- The entry that a full directory set gives up so that a line can have one, none while there is room: `held` are the lines that the directory tracks in the line's slice or port, `ways` its ways, `sets` its sets. The spec states neither the set nor the entry (log 81). -/
def dirVictim (dir ways sets : Nat) (held : List Nat) (line n : Nat) : Option Nat :=
  if held.length < ways ∨ held.contains line = true then none
  else
    let set := held.filter (fun l => Config.dirSet dir l % sets == Config.dirSet dir line % sets)
    if set.length < ways then none else set[Config.dirVictim n % set.length]?

/-- The lines of a slice that the cluster's core slots hold (R287). -/
def State.slotLines (s : State) (c sl : Nat) : List Nat :=
  (((List.range 9).flatMap (fun i => (s.core (9 * c + i)).l2.map Prod.fst)).filter (fun l => lineSlice l == sl)).eraseDups

/-- The lines of a stack port that some cache holds (R288). -/
def State.portLines (s : State) (p : Nat) : List Nat :=
  ((s.cores.flatMap (fun x => x.2.l2.map Prod.fst) ++ s.vats.flatMap (fun x => x.2.lines.filterMap (fun y => y.2.map VLine.line))).filter
    (fun l => s.stackLineOk l && (s.portOf (l * 64)).1 == p)).eraseDups

/-- The port makes room for a line in its presence directory: it recalls one from every holder when the set is full (R288). -/
def State.presence (s : State) (line : Nat) : State :=
  if !s.stackLineOk line then s
  else
    let p := (s.portOf (line * 64)).1
    let s := s.strike (fun x => decide (x = .directory (8 + p)))
    match dirVictim (8 + p) 16 49152 (s.portLines p) line s.free with
    | some l => { s.recall l with free := s.free + 1 }
    | none => s

/-- A set is under a range operation (R298). -/
def Vat.setBusy (v : Vat) (line : Nat) : Bool :=
  match v.range with
  | none => false
  | some r => decide (4 ≤ r.op) ||
      (List.range (Nat.min (r.size / 64) 65536)).any (fun i => lineSlice (r.base / 64 + i) == lineSlice line && lineSet (r.base / 64 + i) == lineSet line)

/-- The way that a line of a set takes, with the line that stood there written back; a way that this disables is passed over (R294, R298, R301). `fuel` is the ways left to try. -/
def State.makeRoom (c sl set : Nat) : Nat → State → State × Option Nat
  | 0, s => (s, none)
  | fuel + 1, s =>
    match (s.vat c).fillWay sl set with
    | none => (s, none)
    | some w =>
      let s := match Tab.get none (s.vat c).lines (wayKey sl set w) with
        | some old => if old.dirty then s.writeBack old.line else s
        | none => s
      if (s.vat c).wayDisabled sl w then State.makeRoom c sl set fuel s else (s, some w)

/-- Put a line into a cache way (R294, R298): whether a way took it. `copy`: the copy that the vat takes, where it differs from memory. -/
def State.allocate (s : State) (c line : Nat) (dirty : Bool) (copy : Option (List Byte × Bool)) : State × Bool :=
  let sl := lineSlice line
  let set := lineSet line
  let v := s.vat c
  match v.wayOf line with
  | some w =>
    let k := wayKey sl set w
    let was := (Tab.get none v.lines k).any VLine.dirty
    (s.setVat c { v.touch sl set w with lines := Tab.set none v.lines k (some ⟨line, dirty || was⟩), kept := if dirty then Tab.set none v.kept line none else v.kept }, true)
  | none =>
    match State.makeRoom c sl set 16 s with
    | (s, none) => (s, false)
    | (s, some w) =>
      let v := s.vat c
      (s.setVat c { v.touch sl set w with lines := Tab.set none v.lines (wayKey sl set w) (some ⟨line, dirty⟩), kept := Tab.set none v.kept line copy }, true)

/-- A modified line that leaves a core slot's L2 goes to its window way, to a cache way, or to stack memory (R287, R299). A disabled window way drops it (R302). -/
def State.placeDirty (s : State) (k c line : Nat) : State :=
  match s.target (line * 64) with
  | .vat c' off =>
    if (s.vat c').offDisabled off then
      let (sl, w, _) := (s.vat c').place off
      s.log logWayWriteDrop k (c' * 32 + sl) (line * 64) (sl * 16 + w)
    else s
  | _ =>
    if (s.vat c).caches then
      match s.allocate c line true none with
      | (s, true) => s
      | (s, false) => s.stackPut line
    else s.stackPut line

/-- The cluster's vat makes room for a line in its directory: it recalls one from every core slot that holds it when the set is full (R287). -/
def State.directory (s : State) (k line : Nat) : State :=
  let c := clusterOf k
  if 36 ≤ k then s
  else
    let s := s.strike (fun x => decide (x = .directory c))
    match dirVictim c 12 1024 (s.slotLines c (lineSlice line)) line s.free with
    | some l =>
      let s := s.strike (fun x => (List.range 9).any (fun i => decide (x = .l2 (9 * c + i) l)))
      let dirty := (List.range 9).find? (fun i => decide (Tab.get none (s.core (9 * c + i)).l2 l = some true))
      let s := { s with free := s.free + 1,
                        cores := Tab.update {} s.cores (fun j x => if j < 36 ∧ clusterOf j = c then { x with l2 := Tab.set none x.l2 l none } else x) }
      match dirty with
      | some i => s.placeDirty (9 * c + i) c l
      | none => s
    | none => s

/-- VAT_OFFER: a line leaves core slot `k`'s L2 (R298, R299). A clean line is accepted or declined. -/
def State.offerLine (s : State) (k line : Nat) : State :=
  let c := clusterOf k
  let s := s.strike (fun l => decide (l = .l2 k line))
  match Tab.get none (s.core k).l2 line with
  | none => s
  | some dirty =>
    let copy := Tab.get none (s.core k).kept line
    let s := s.updCore k (fun x => { x with l2 := Tab.set none x.l2 line none })
    let v := s.vat c
    if 36 ≤ k then s.stackPut line
    else if dirty then s.placeDirty k c line
    else if !s.stackLineOk line || Tab.get false v.stream line || v.setBusy line || !v.caches then s.bumpVat c 2 1
    else
      match s.allocate c line false copy with
      | (s, true) => s
      | (s, false) => s.bumpVat c 2 1

/-- A hollander access with STREAM = 1 to a line that the cluster's cores hold sets its stream mark (R300). -/
def State.streamMark (s : State) (k pa : Nat) : State :=
  let c := clusterOf k
  let line := pa / 64
  if (List.range 9).any (fun i => (Tab.get none (s.core (9 * c + i)).l2 line).isSome) then
    s.setVat c { s.vat c with stream := Tab.set false (s.vat c).stream line true }
  else s

/-- VAT_FILL: a line is brought into the vat's cache (R300). A hit touches its way; a streamed hollander miss, a hint to a busy set and a vat that does not cache allocate nothing. -/
def State.fillLine (s : State) (c line : Nat) (kind : FillKind) (ecc : Ecc) : State :=
  let streamed := decide (kind = .hollanderMiss true)
  let s := if streamed then s.streamMark (9 * c) (line * 64) else s
  let v := s.vat c
  if !s.stackLineOk line || !v.caches then s
  else
    match v.wayOf line with
    | some w =>
      let s := (s.setVat c (v.touch (lineSlice line) (lineSet line) w)).bumpVat c 0 1
      (s.upset (.vat c line) ecc).strike (fun l => decide (l = .vat c line))
    | none =>
      let s := if kind = .hint ∨ kind = .vfetch then s else s.bumpVat c 1 1
      if decide (kind = .hint) && v.setBusy line then s
      else
        let s := (s.accessEcc false (9 * c) (line * 64) ecc).strikeMem false (9 * c) (line * 64) 64
        if streamed then s
        else
          let s := s.presence line
          (s.allocate c line false none).1

-- coherent reads and writes

/-- Write bytes that lie in one line, at the point of coherence: a write of the whole line clears its poison, a partial one reads the granule first and keeps its mark (R331, R334); a write that its stack drops changes nothing (R326). -/
def State.writeLine (s : State) (pa : Nat) (bs : List Byte) : State :=
  let whole := decide (pa % 64 = 0 ∧ bs.length = 64)
  let s := s.recall (pa / 64)
  if s.target pa = .stack then
    let s := if whole then s else s.strike (fun l => decide (l = .stack (pa / 64)))
    let (s, ok) := s.stackWrite (pa / 64)
    if !ok then s
    else { s with mem := s.mem.writeN pa bs, poison := if whole then Tab.set false s.poison (pa / 64) false else s.poison }
  else { s with mem := s.mem.writeN pa bs, poison := if whole then Tab.set false s.poison (pa / 64) false else s.poison }

/-- Mark felt units that a write covers whole as good again. -/
def feltClean (bad : Tab Bool) (off n : Nat) : Tab Bool :=
  bad.filter (fun p => !(decide (off ≤ 8 * p.1) && decide (8 * p.1 + 8 ≤ off + n)))

/-- Write bytes to a felt. -/
def State.writeFelt (s : State) (k off : Nat) (bs : List Byte) : State :=
  s.updCore k (fun c => { c with eng := { c.eng with felt := c.eng.felt.writeN off bs, feltBad := feltClean c.eng.feltBad off bs.length } })

/-- Write a piece of an access that lies in one line: stack memory, a reachable window byte or an enabled slot's felt take it; a disabled addressable way drops and logs it (R302); anything else ignores it (R328). -/
def State.physWriteLine (s : State) (ag pa : Nat) (bs : List Byte) : State :=
  match s.target pa with
  | .stack => s.writeLine pa bs
  | .vat c off =>
    if (s.vat c).reaches off then
      if (s.vat c).offDisabled off then
        let (sl, w, _) := (s.vat c).place off
        s.log logWayWriteDrop ag (c * 32 + sl) pa (sl * 16 + w)
      else s.writeLine pa bs
    else s
  | .felt k off => if s.slotEnabled k then s.writeFelt k off bs else s
  | _ => s

/-- Write bytes line by line (`fuel` lines at most). -/
def State.physWriteLines (s : State) (ag pa : Nat) (bs : List Byte) : Nat → State
  | 0 => s
  | fuel + 1 =>
    if bs.isEmpty then s
    else
      let n := 64 - pa % 64
      (s.physWriteLine ag pa (bs.take n)).physWriteLines ag (pa + n) (bs.drop n) fuel

/-- Write bytes at a physical address by an agent that caches nothing. -/
def State.physWrite (s : State) (ag pa : Nat) (bs : List Byte) : State := s.physWriteLines ag pa bs (bs.length / 64 + 2)

/-- Log a load (`w = 0`) or store (`w = 1`) whose address reaches nothing (R259, R285, R328). -/
def State.logHole (s : State) (ag w pa n : Nat) : State :=
  match s.firstHole pa n with
  | some a => s.log logNoTarget ag (freeUnit logNoTarget) a w
  | none => s

/-- The bytes of a line as the stack holds them, and its mark there: what it held when the line was first modified in a cache, else memory. -/
def State.stackLine (s : State) (line : Nat) : List Byte × Bool :=
  (Tab.get none s.stale line).getD (s.mem.readN (line * 64) 64, Tab.get false s.poison line)

/-- A load or store of core `k` looks for its line in the L1D: a miss counts (R474), and the line is then there, first; how many lines it holds the spec does not state (log 9). -/
def State.l1dLoad (s : State) (k line : Nat) : State :=
  let s := if (s.core k).l1d.contains line then s else s.event k 0x06 1
  s.updCore k (fun c => { c with l1d := (line :: c.l1d.filter (fun l => l != line)).take Config.l1dLines })

/-- Core `k` reads a line through its L2, which takes it when it misses: the directories make room for it, it comes from the cluster's vat where that holds it, and the fill clears its stream mark (R287, R288, R300). `data`: a load or store, and not a fetch or walk; events 0x06 and 0x07 (R474, log 9). -/
def State.cacheLoad (s : State) (k pa : Nat) (data : Bool) : State :=
  let line := pa / 64
  if (Tab.get none (s.core k).l2 line).isSome then if data then s.l1dLoad k line else s
  else
    let s := (s.directory k line).presence line
    let copy := if k < 36 ∧ ((s.vat (clusterOf k)).wayOf line).isSome then Tab.get none (s.vat (clusterOf k)).kept line else none
    let s := s.updCore k (fun c => { c with l2 := Tab.set none c.l2 line (some false), kept := Tab.set none c.kept line copy, l1d := c.l1d.filter (fun l => l != line) })
    let s := if data then (s.l1dLoad k line).event k 0x07 1 else s.event k 0x07 1
    if k < 36 then s.setVat (clusterOf k) { s.vat (clusterOf k) with stream := Tab.set false (s.vat (clusterOf k)).stream line false } else s

/-- A core store to a cacheable line that it holds modified from then on (R287, R289): its own copy of the line is the one that changes. -/
def State.cacheStore (s : State) (k pa : Nat) (bs : List Byte) : State :=
  let line := pa / 64
  let s := s.cacheLoad k pa true
  let copy := Tab.get none (s.core k).kept line
  let s := (s.dropCopies line (some k)).dropVatCopies line
  let s := if s.target pa = .stack then { s with stale := Tab.set none s.stale line (some (s.stackLine line)) } else s
  let s := s.updCore k (fun c => { c with l2 := Tab.set none c.l2 line (some true), kept := Tab.set none c.kept line none })
  let s := match copy with
    | some (old, bad) => { s with mem := s.mem.writeN (line * 64) old, poison := Tab.set false s.poison line bad }
    | none => s
  let s := { s with mem := s.mem.writeN pa bs }
  if pa % 64 = 0 ∧ bs.length = 64 then { s with poison := Tab.set false s.poison line false } else s

end Sys2Proof.Machine
end

