-- ==== Sys2Proof/Machine/Wire.lean ====
section
/-! DEFINITION. What travels on a Delnel link (R363, R367): the bytes of a flit's header and payload, of a link block, and its CRC-64; and the SMBus packet error code (R419). -/

namespace Sys2Proof.Machine

/-- The number that `n` bytes from offset `o` make, little-endian. -/
def leField (bs : List Byte) (o n : Nat) : Nat := leNat ((bs.drop o).take n)

/-- A list of bytes cut or filled with zeros to a length. -/
def padTo (n : Nat) (bs : List Byte) : List Byte := (bs ++ List.replicate n 0).take n

/-- The bytes of a flit's header (R367); Reserved bits are zero. -/
def flitHeader (f : Flit) : List Byte :=
  leBytes 2 f.dst.toNat ++ leBytes 2 f.src.toNat ++ leBytes 1 f.typ.toNat ++
  leBytes 1 (f.hops.toNat + 8 * f.vl.toNat + 32 * b2n f.last) ++ leBytes 2 f.len ++
  leBytes 8 (if f.typ.toNat = 3 ∨ f.typ.toNat = 4 then f.addr &&& 0xFFFFFFFF3FFF else f.addr % 2 ^ 48) ++
  leBytes 2 f.tag.toNat ++ leBytes 2 f.step.toNat ++
  leBytes 4 (if f.typ.toNat = 0x0B then f.subject.toNat + f.cls.toNat * 2 ^ 16 else f.status.toNat) ++
  leBytes 4 f.count.toNat ++ leBytes 4 0

/-- The flit that a header and a payload make (R367); Reserved bits are ignored. -/
def flitOf (h p : List Byte) : Flit :=
  let typ := leField h 4 1
  let b := leField h 5 1
  let w := leField h 0x14 4
  { dst := BitVec.ofNat 12 (leField h 0 2), src := BitVec.ofNat 12 (leField h 2 2), typ := BitVec.ofNat 8 typ,
    hops := BitVec.ofNat 3 b, vl := BitVec.ofNat 2 (b / 8), last := bit b 5, len := leField h 6 2,
    addr := if typ = 3 ∨ typ = 4 then leField h 8 8 &&& 0xFFFFFFFF3FFF else leField h 8 8 % 2 ^ 48,
    tag := BitVec.ofNat 16 (leField h 0x10 2), step := BitVec.ofNat 16 (leField h 0x12 2),
    subject := if typ = 0x0B then BitVec.ofNat 12 w else 0, cls := if typ = 0x0B then BitVec.ofNat 4 (w / 2 ^ 16) else 0,
    status := if typ = 0x0B then 0 else BitVec.ofNat 4 w, count := BitVec.ofNat 32 (leField h 0x18 4), payload := padTo 256 p }

/-- One bit of a CRC, most significant bit first, of `w` bits with a polynomial. -/
def crcBit (w poly crc : Nat) : Nat := if bit crc (w - 1) then ((crc * 2) % 2 ^ w) ^^^ poly else (crc * 2) % 2 ^ w

/-- `n` bits of a CRC. -/
def crcBits (w poly : Nat) : Nat → Nat → Nat
  | 0, crc => crc
  | n + 1, crc => crcBits w poly n (crcBit w poly crc)

/-- A CRC of `w` bits over bytes, from zero on. -/
def crcBytes (w poly : Nat) (bs : List Byte) : Nat := bs.foldl (fun crc b => crcBits w poly 8 (crc ^^^ (b.toNat * 2 ^ (w - 8)))) 0

/-- CRC-64 with the polynomial of ECMA-182, as that standard computes it (R363, log 83). -/
def crc64 (bs : List Byte) : BitVec 64 := BitVec.ofNat 64 (crcBytes 64 0x42F0E1EBA9EA3693 bs)

/-- The 88 bytes of link control (R363). The spec gives their contents and no layout, and the model takes one (log 83). -/
def ctlBytes (b : LinkBlock) : List Byte :=
  padTo 88 (leBytes 8 b.seq ++ leBytes 1 (b2n b.ack.isSome + 2 * b2n b.nak.isSome) ++ leBytes 8 (b.ack.getD 0) ++ leBytes 8 (b.nak.getD 0) ++
    (padTo 4 (b.credits.map (fun c => BitVec.ofNat 8 c))) ++ padTo 4 (b.credits.map (fun c => BitVec.ofNat 8 (c / 256))) ++ leBytes 1 (b2n b.park))

/-- The first 1,528 bytes of a link block: five headers, five payloads, link control (R363). -/
def blockBytes (b : LinkBlock) : List Byte :=
  padTo 160 (b.heads.flatMap (padTo 32)) ++ padTo 1280 (b.payloads.flatMap (padTo 256)) ++ ctlBytes b

end Sys2Proof.Machine

namespace Sys2Proof

/-- The block's CRC holds (R363). -/
def LinkBlock.crcOk (b : LinkBlock) : Bool := b.crc == Machine.crc64 (Machine.blockBytes b)

/-- The flits in a block's five slots, those of TYPE IDLE too (R363, R367). -/
def LinkBlock.flits (b : LinkBlock) : List Flit := (List.range 5).map (fun i => Machine.flitOf (b.heads.getD i []) (b.payloads.getD i []))

end Sys2Proof

namespace Sys2Proof.Machine

/-- The link block that carries flits, its free slots IDLE (R363). -/
def blockOf (seq : Nat) (fs : List Flit) (ack nak : Option Nat) (credits : List Nat) (park : Bool) : LinkBlock :=
  let b : LinkBlock := ⟨seq, padTo' (fs.map flitHeader), padTo' (fs.map (fun f => padTo 256 f.payload)), ack, nak, credits, park, 0⟩
  { b with crc := crc64 (blockBytes b) }
where
  padTo' (l : List (List Byte)) : List (List Byte) := (l ++ List.replicate 5 []).take 5

/-- The packet error code of an SMBus transaction: the CRC-8 that the SMBus standard defines over its bytes (R419, log 84). -/
def smbPec (bs : List Byte) : Byte := BitVec.ofNat 8 (crcBytes 8 0x07 bs)

end Sys2Proof.Machine
end

