-- ==== Sys2Proof/Machine/Delnel.lean ====
section
/-! DEFINITION. The Delnel ports, the router, remote requests and fault notices (R362 to R377, R390 to R393). -/

namespace Sys2Proof.Machine

def tyIdle : Nat := 0x00
def tyRd : Nat := 0x01
def tyWr : Nat := 0x02
def tyChain : Nat := 0x03
def tyReturn : Nat := 0x04
def tyRdrsp : Nat := 0x08
def tyWrack : Nat := 0x09
def tyNack : Nat := 0x0A
def tyNotice : Nat := 0x0B

/-- The types that R368 lists. -/
def typeListed (t : Nat) : Bool := decide (t ≤ 4) || (decide (8 ≤ t) && decide (t ≤ 0x0B))

/-- The traffic class of a type (R368). -/
def classOf (t : Nat) : Nat := if t ≤ 4 then 0 else 1

/-- Link states (DLN_PSTATn.STATE). -/
def lsDown : Nat := 0
def lsTraining : Nat := 1
def lsUp : Nat := 2
def lsLost : Nat := 3

def Link.state (l : Link) : Nat := wfld (l.reg DLN_PSTAT) 1 2
def Link.parked (l : Link) : Bool := (l.reg DLN_PSTAT).getLsbD 0
def Link.partner (l : Link) : Nat := wfld (l.reg DLN_PSTAT) 16 12
def Link.role (l : Link) : Nat := wfld (l.reg DLN_PCFG) 0 2

def Link.setState (l : Link) (st : Nat) : Link := l.setReg DLN_PSTAT (wset (l.reg DLN_PSTAT) 1 2 st)

/-- The port can carry traffic that the router chooses it for (R371). -/
def Link.usable (l : Link) : Bool := l.state == lsUp && (l.role == 1 || l.role == 2)

/-- DLN_ID.DEV. -/
def State.dev (s : State) : Nat := wfld (s.dlnReg DLN_ID) 0 12

/-- A flit that the die sends (R367). -/
def State.flitTo (s : State) (dst typ : Nat) : Flit :=
  { dst := BitVec.ofNat 12 dst, src := BitVec.ofNat 12 s.dev, typ := BitVec.ofNat 8 typ, hops := 0, vl := 0, last := false, len := 0,
    addr := 0, tag := 0, step := 0, subject := 0, cls := 0, status := 0, count := 0, payload := [] }

/-- The die sends a flit into its router. -/
def State.sendFlit (s : State) (f : Flit) : State := { s with dln := { s.dln with outq := s.dln.outq ++ [f] } }

-- fault notices

/-- Saturating sum of notice counts (R391, R392). -/
def satAdd32 (a b : Nat) : Nat := Nat.min (a + b) 0xFFFFFFFF

/-- Add a notice to a port's accumulators: the matching one, a new one while fewer than 16 are open, else class OVERFLOW of source 0xFFF (R391). -/
def accAdd (acc : List (Nat × Nat × Nat)) (src cls n : Nat) : List (Nat × Nat × Nat) :=
  if acc.any (fun a => a.1 == src && a.2.1 == cls) then
    acc.map (fun a => if a.1 == src && a.2.1 == cls then (a.1, a.2.1, satAdd32 a.2.2 n) else a)
  else if acc.length < 16 then acc ++ [(src, cls, n)]
  else if acc.any (fun a => a.1 == 0xFFF && a.2.1 == 0xF) then
    acc.map (fun a => if a.1 == 0xFFF && a.2.1 == 0xF then (a.1, a.2.1, satAdd32 a.2.2 n) else a)
  else acc ++ [(0xFFF, 0xF, n)]

/-- Word 0 of coalescer record `r`: COUNT, STATE, CLASS, SOURCE. -/
def State.fcRec (s : State) (r : Nat) : Word := s.dlnReg (DLN_FCREC + r * 0x20)

def State.fcState (s : State) (r : Nat) : Nat := wfld (s.fcRec r) 24 2

/-- Raise a Delnel interrupt at DLN_FCCFG.TARGET when EN is 1 (R388, R392). -/
def State.fcIrq (s : State) (src : Nat) : State :=
  let c := s.dlnReg DLN_FCCFG
  if c.getLsbD 31 then s.irq (wfld c 0 6) src else s

/-- Open a coalescer record (R392). -/
def State.fcOpen (s : State) (r src cls n : Nat) : State :=
  let s := s.setDlnReg (DLN_FCREC + r * 0x20) (BitVec.ofNat 64 (n * 2 ^ 32 + 1 * 2 ^ 24 + cls * 2 ^ 16 + src))
  s.setDlnReg (DLN_FCREC + r * 0x20 + 8) (BitVec.ofNat 64 s.cycle)

/-- Add to a coalescer record's COUNT (R392). -/
def State.fcAdd (s : State) (r n : Nat) : State :=
  s.setDlnReg (DLN_FCREC + r * 0x20) (wset (s.fcRec r) 32 32 (satAdd32 (wfld (s.fcRec r) 32 32) n))

/-- Count a notice in the coalescer (R392). -/
def State.coalesce (s : State) (src cls n : Nat) : State :=
  let lost := if s.fcState 64 = 0 then (s.fcOpen 64 0xFFF 0xF n).fcIrq 0x20 else s.fcAdd 64 n
  if cls = 0xF then lost
  else
    match (List.range 64).find? (fun r => s.fcState r == 1 && wfld (s.fcRec r) 16 4 == cls && wfld (s.fcRec r) 0 12 == src) with
    | some r => s.fcAdd r n
    | none =>
      match (List.range 64).find? (fun r => s.fcState r == 0) with
      | some r => s.fcOpen r src cls n
      | none => lost

/-- Offer a notice to every port of a broadcast mask (R391). -/
def State.offer (s : State) (mask : Word) (src cls n : Nat) : State :=
  (List.range 24).foldl (fun s p => if mask.getLsbD p then s.setLink p { s.link p with acc := accAdd (s.link p).acc src cls n } else s) s

/-- A notice arrives on port `i`, or originates in the die for `i` = 24 (R391). -/
def State.notice (s : State) (i src cls n : Nat) : State :=
  (s.coalesce src cls n).offer (s.dlnReg (DLN_BCAST + i * 8)) src cls n

def clsLinkLost : Nat := 1
def clsDieFatal : Nat := 2
def clsThermal : Nat := 3

-- the router

/-- The port and virtual lane that the route table chooses, none where the entry is empty or acts so (R370, R371). -/
def State.routeOf (s : State) (dst cls : Nat) : Option (Nat × Nat) :=
  let e := (Tab.get 0 s.dln.route dst).toNat
  let p := fld e 0 5
  let a := fld e 6 5
  if !bit e 31 || decide (24 ≤ p) then none
  else if (s.link p).usable then some (p, 2 * cls + b2n (bit e 13))
  else if bit e 30 && decide (a < 24) && (s.link a).usable then some (a, 2 * cls + b2n (bit e 14))
  else none

/-- Put a flit on a port's lane, which takes a credit (R369, R371). -/
def State.txPut (s : State) (p vl : Nat) (f : Flit) : State :=
  let l := s.link p
  s.setLink p { l with
    tx := Tab.set [] l.tx vl (Tab.get [] l.tx vl ++ [{ f with vl := BitVec.ofNat 2 vl, hops := f.hops + 1 }]),
    credits := Tab.set 0 l.credits vl (Tab.get 0 l.credits vl - 1) }

/-- What the router does with a flit (R371): deliver it to the die, send it on, drop and count it, or let it wait for a credit. -/
inductive Routed where
  | deliver
  | forward (p vl : Nat)
  | drop
  | wait
deriving DecidableEq, Repr

def State.routed (s : State) (f : Flit) : Routed :=
  if f.dst.toNat = s.dev then .deliver
  else if f.hops.toNat = 6 ∨ f.hops.toNat = 7 then .drop
  else
    match s.routeOf f.dst.toNat (classOf f.typ.toNat) with
    | none => .drop
    | some (p, vl) => if 0 < Tab.get 0 (s.link p).credits vl then .forward p vl else .wait

/-- Route one flit that came from `src` (24: the die itself); `none` when it waits. -/
def State.route (s : State) (src : Nat) (f : Flit) : Option State :=
  match s.routed f with
  | .deliver => some { s with dln := { s.dln with inbox := s.dln.inbox ++ [(src, f)] } }
  | .forward p vl => some (s.txPut p vl f)
  | .drop => some (s.bumpDrops 1)
  | .wait => none

/-- Flits that waited for a port which is gone are routed again, or dropped (R366, R373). Those whose new lane has no credit stay with the die's own flits, to be routed later. -/
def State.reroute (s : State) : List Flit → State
  | [] => s
  | f :: fs =>
    let f := { f with hops := f.hops - 1 }
    match s.route 24 f with
    | some s' => s'.reroute fs
    | none => (s.sendFlit f).reroute fs

/-- All flits that wait on a port. -/
def Link.waiting (l : Link) : List Flit := l.tx.flatMap Prod.snd

/-- The flits that a port has sent without an acknowledgement. -/
def Link.unacked (l : Link) : List Flit := (l.replay.flatMap LinkBlock.flits).filter (fun f => f.typ.toNat != tyIdle)

/-- A port stops: its lanes empty, nothing of the link protocol is left but what a parked port has sent without an acknowledgement, and the flits that waited go elsewhere (R366, R373). What it had sent unacknowledged is lost when its partner is, and else goes elsewhere too (R13). -/
def State.stopPort (s : State) (p st : Nat) (parked lost : Bool) : State :=
  let l := s.link p
  let w := (if parked || lost then [] else l.unacked) ++ l.waiting
  let l := { l with tx := [], credits := [], lane := 0, replay := if parked then l.replay else [], resend := [], nakSent := false, replayed := false, nakSeq := 0, nakCount := 0, sinceIdle := 0, parking := false,
                    txSeq := if parked then l.txSeq else 0 }
  let l := (l.setState st).setReg DLN_PSTAT (((l.setState st).reg DLN_PSTAT &&& ~~~1) ||| BitVec.ofNat 64 (b2n parked))
  (s.setLink p l).reroute w

/-- A port declares its partner lost: unacknowledged flits are lost, it originates LINK_LOST about the partner, and trains again (R365, R373, R390). -/
def State.partnerLost (s : State) (p : Nat) : State :=
  (s.stopPort p lsLost false true).notice 24 (s.link p).partner clsLinkLost 1

/-- A port takes PARK (R366). -/
def State.takePark (s : State) (p : Nat) : State := s.stopPort p lsDown true false

-- remote requests

/-- The device and the address there that an aperture address names (R374). -/
def State.aperture (s : State) (pa : Nat) : Nat × Nat := (fld pa 35 12, wfld (s.dlnReg DLN_APCFG) 0 13 * 2 ^ 35 + pa % 2 ^ 35)

/-- Send a remote request: an RD, or a WR with its bytes (R376). -/
def State.sendRemote (s : State) (k : Nat) (write : Bool) (dev addr len : Nat) (bs : List Byte) (desc : Option (Nat × Nat × Nat)) : State :=
  let tag := s.dln.nextTag % 2 ^ 16
  let f := { s.flitTo dev (if write then tyWr else tyRd) with len := len, addr := addr, tag := BitVec.ofNat 16 tag, payload := bs }
  let s := s.sendFlit f
  { s with dln := { s.dln with nextTag := tag + 1, reqs := s.dln.reqs ++ [⟨tag, k, write, dev, addr, len, desc, none, false, false⟩] } }

/-- A response still has to come. -/
def RemReq.open (r : RemReq) : Bool := !r.failed && (r.write || decide ((r.data.getD []).length < r.len))

/-- Core `k` waits for the data of a remote load (R218, R376). -/
def State.awaitsRemote (s : State) (k : Nat) : Bool := s.dln.reqs.any (fun r => r.core == k && r.desc.isNone && !r.write && r.open)

/-- Forget a request. -/
def State.dropReq (s : State) (tag : Nat) : State := { s with dln := { s.dln with reqs := s.dln.reqs.filter (fun r => r.tag != tag) } }

/-- Change a request. -/
def State.mapReq (s : State) (tag : Nat) (f : RemReq → RemReq) : State :=
  { s with dln := { s.dln with reqs := s.dln.reqs.map (fun r => if r.tag = tag then f r else r) } }

def State.reqOf (s : State) (tag : Nat) : Option RemReq := s.dln.reqs.find? (fun r => r.tag == tag && r.open)

/-- A failed access of a core (R377): a load reads zero, a store is done; both are logged. -/
def State.failCore (s : State) (r : RemReq) : State :=
  let s := if r.write then s.dropReq r.tag else s.mapReq r.tag (fun r => { r with data := some (List.replicate r.len 0) })
  s.log logRemoteTimeout r.core (freeUnit logRemoteTimeout) (2 ^ 47 + r.dev * 2 ^ 35 + r.addr % 2 ^ 35) r.dev

/-- A request fails, by NACK or timeout (R377): as an access of the core for a core or its sync unit; a hollander descriptor raises HOL_REMOTE, whose DETAIL is the physical address on the other die, bits [47:0] of R266, without the device number (DEDUCED, log 100); a mover descriptor will (R401). -/
def State.failReq (s : State) (r : RemReq) : State :=
  match r.desc with
  | some (q, p, i) =>
    if 36 ≤ r.core then s.mapReq r.tag (fun r => { r with failed := true })
    else if (s.core r.core).eng.yq.any (fun o => o.seq == q && o.pos == p) then s.failCore r
    else s.holFail r.core q p i 0x67 r.addr
  | none => s.failCore r

/-- One write of a descriptor is acknowledged (R271). -/
def Eng.acked (e : Eng) (seq pos idx : Nat) : Eng :=
  { e with hol := e.hol.map (fun h => if h.seq = seq ∧ h.pos = pos ∧ h.idx = idx then { h with outstanding := h.outstanding - 1 } else h) }

/-- A write acknowledgement ends its request (R376). -/
def State.ackReq (s : State) (r : RemReq) : State :=
  let s := s.dropReq r.tag
  match r.desc with
  | some (q, p, i) => if r.core < 36 then s.updCore r.core (fun c => { c with eng := c.eng.acked q p i }) else s
  | none => s

/-- The types that are taken in order among each other: chain flits wait for no other flit, and responses and notices are one class (R368, R373). -/
def sameQueue (a b : Nat) : Bool := (a == tyChain || a == tyReturn) == (b == tyChain || b == tyReturn) && classOf a == classOf b

/-- The first delivered flit of a type that does not wait and that no flit of its queue from the same source stands before (R373). -/
def inboxNext (t : Nat) (waits : Flit → Bool) : List (Nat × Flit) → List Nat → Option (Nat × Flit)
  | [], _ => none
  | f :: fs, seen =>
    if sameQueue f.2.typ.toNat t then
      if f.2.typ.toNat = t ∧ seen.contains f.2.src.toNat = false ∧ waits f.2 = false then some f else inboxNext t waits fs (f.2.src.toNat :: seen)
    else inboxNext t waits fs seen

def State.inboxFirst (s : State) (t : Nat) (waits : Flit → Bool) : Option (Nat × Flit) := inboxNext t waits s.dln.inbox []

/-- Take a delivered flit out of the inbox. -/
def State.inboxTake (s : State) (f : Nat × Flit) : State := { s with dln := { s.dln with inbox := s.dln.inbox.erase f } }

/-- An RD or WR of another die waits at the mesh: it names the window of a held cluster (R442). -/
def State.remoteHeld (s : State) (f : Flit) : Bool := s.heldTarget (s.target (f.addr % 2 ^ 48))

/-- The first delivered RD (or WR) that does not wait and that no RD or WR of the same source stands before (R375). -/
def State.firstReq (s : State) (t : Nat) : List (Nat × Flit) → List Nat → Option (Nat × Flit)
  | [], _ => none
  | f :: fs, seen =>
    let ty := f.2.typ.toNat
    if ty = t ∧ seen.contains f.2.src.toNat = false ∧ s.remoteHeld f.2 = false then some f
    else if ty = tyRd ∨ ty = tyWr then s.firstReq t fs (f.2.src.toNat :: seen)
    else s.firstReq t fs seen

/-- The die accepts a remote access (R375). -/
def State.acceptsRemote (s : State) (addr len : Nat) : Bool :=
  decide (1 ≤ len) && decide (len ≤ 256) && decide (addr / 4096 = (addr + len - 1) / 4096) &&
  (match s.target addr with
   | .stack => true
   | .vat c off => (s.vat c).reaches (off + len - 1)
   | .felt k _ => s.slotEnabled k
   | _ => false)

/-- A response to a request flit. -/
def State.answer (s : State) (f : Flit) (typ status : Nat) (bs : List Byte) : State :=
  s.sendFlit { s.flitTo f.src.toNat typ with tag := f.tag, status := BitVec.ofNat 4 status, len := bs.length, payload := bs }

-- link blocks

/-- A negative acknowledgement of block `n` (R365): the sender replays it and every later block. One that names a block which is acknowledged, or whose replay has not left yet, asks for nothing new; the sixteenth replay of one block that fails loses the partner (log 83). -/
def State.takeNak (s : State) (p n : Nat) : State :=
  let l := s.link p
  let again := decide (l.nakSeq = n ∧ 0 < l.nakCount)
  if !l.replay.any (fun b => b.seq == n) then s
  else if again && !l.replayed then s
  else if again && decide (16 ≤ l.nakCount) then s.partnerLost p
  else s.setLink p { l with resend := l.replay.filter (fun b => decide (n ≤ b.seq)), nakSeq := n, nakCount := if again then l.nakCount + 1 else 1, replayed := false }

/-- Blocks up to `n` are acknowledged (R365); a parking port has its acknowledgement and stops sending PARK (R366). -/
def Link.takeAck (l : Link) (n : Nat) : Link :=
  { l with replay := l.replay.filter (fun b => decide (n < b.seq)), resend := l.resend.filter (fun b => decide (n < b.seq)),
           nakCount := if l.nakSeq ≤ n then 0 else l.nakCount,
           parking := l.parking && !(l.replay.any (fun b => b.park && decide (b.seq ≤ n))) }

/-- Credits come back on the four lanes (R369). -/
def addCredits (t : Tab Nat) : Nat → List Nat → Tab Nat
  | _, [] => t
  | i, c :: cs => addCredits (Tab.set 0 t i (Tab.get 0 t i + c)) (i + 1) cs

/-- The flits of a block enter the receive buffers, IDLE ones are discarded (R364, R369). -/
def Link.receive (l : Link) : List Flit → Link
  | [] => l
  | f :: fs =>
    if f.typ.toNat = tyIdle then l.receive fs
    else Link.receive { l with rx := Tab.set [] l.rx f.vl.toNat (Tab.get [] l.rx f.vl.toNat ++ [f]) } fs

/-- A port receives a link block (R363 to R366): acknowledgements of every block whose CRC holds count, a parked port's too; flits and credits those of the next block in sequence alone. A gap is negatively acknowledged once, and a failed CRC each time. -/
def State.linkBlock (s : State) (p : Nat) (b : LinkBlock) : State :=
  let l := s.link p
  if l.state ≠ lsUp then
    if l.parked && b.crcOk then match b.ack with | some n => s.setLink p (l.takeAck n) | none => s else s
  else if !b.crcOk then s.setLink p { l with nakDue := some l.rxSeq, nakSent := true }
  else
    let s := match b.ack with | some n => s.setLink p (l.takeAck n) | none => s
    let s := match b.nak with | some n => s.takeNak p n | none => s
    if (s.link p).state ≠ lsUp then s
    else if b.seq ≠ l.rxSeq then
      if b.seq < l.rxSeq then s.setLink p { s.link p with ackDue := some (l.rxSeq - 1) }
      else if l.nakSent then s
      else s.setLink p { s.link p with nakDue := some l.rxSeq, nakSent := true }
    else if b.flits.any (fun f => !typeListed f.typ.toNat) then s.partnerLost p
    else
      let l := (s.link p).receive b.flits
      let s := s.setLink p { l with rxSeq := l.rxSeq + 1, ackDue := some b.seq, nakDue := none, nakSent := false,
                                    credits := addCredits l.credits 0 (b.credits.take 4) }
      if b.park then s.takePark p else s

/-- Take up to `n` flits from the four lanes, round robin from `lane` on (R14). -/
def takeFlits : Nat → Nat → Tab (List Flit) → List Flit → Nat × Tab (List Flit) × List Flit
  | 0, lane, tx, acc => (lane, tx, acc)
  | n + 1, lane, tx, acc =>
    match (List.range 4).find? (fun i => !(Tab.get [] tx ((lane + i) % 4)).isEmpty) with
    | none => (lane, tx, acc)
    | some i =>
      let v := (lane + i) % 4
      match Tab.get [] tx v with
      | [] => (lane, tx, acc)
      | f :: fs => takeFlits n ((v + 1) % 4) (Tab.set [] tx v fs) (acc ++ [f])

/-- The block has a slot without a flit (R363, R364). -/
def LinkBlock.hasIdle (b : LinkBlock) : Bool := b.flits.any (fun f => f.typ.toNat == tyIdle)

/-- The most flits that a port's next new block takes: none while it parks; four when an IDLE is due, and in its first block, so that a replay from there brings one (R364, R366). -/
def Link.room (l : Link) : Nat := if l.parking then 0 else if l.txSeq = 0 ∨ 1023 ≤ l.sinceIdle then 4 else 5

/-- A port sends its next link block (R363 to R366, R369): a replayed one first, as it was; else up to five flits, four when an IDLE is due, with its acknowledgements, credits and port command. A replay that would leave 1,024 blocks without an IDLE waits behind a block of IDLE flits, whose number is the one before the block that was negatively acknowledged: its receiver has had that one and discards it (log 83). -/
def State.linkSend (s : State) (p : Nat) : State :=
  let l := s.link p
  let due := (List.range 4).map (fun i => Tab.get 0 l.creditDue i)
  if l.state ≠ lsUp then
    match l.ackDue with
    | some _ =>
      if l.parked then
        (s.setLink p { l with ackDue := none, nakDue := none, creditDue := [], txSeq := l.txSeq + 1 }).out
          (.link p (blockOf l.txSeq [] l.ackDue none due false))
      else s
    | none => s
  else
    match l.resend with
    | b :: bs =>
      if decide (1023 ≤ l.sinceIdle) && !LinkBlock.hasIdle b then
        (s.setLink p { l with sinceIdle := 0 }).out (.link p (blockOf (l.nakSeq - 1) [] none none [] false))
      else
        (s.setLink p { l with resend := bs, replayed := l.replayed || decide (b.seq = l.nakSeq),
                              sinceIdle := if LinkBlock.hasIdle b then 0 else l.sinceIdle + 1 }).out (.link p b)
    | [] =>
      if 64 ≤ l.replay.length then s
      else
        let (lane, tx, fs) := takeFlits l.room l.lane l.tx []
        let b := blockOf l.txSeq fs l.ackDue l.nakDue due l.parking
        (s.setLink p { l with lane := lane, tx := tx, txSeq := l.txSeq + 1, replay := l.replay ++ [b], ackDue := none, nakDue := none,
                              creditDue := [], sinceIdle := if fs.length < 5 then 0 else l.sinceIdle + 1 }).out (.link p b)

/-- What a parked port had sent without an acknowledgement goes another way when the lanes go down or training has begun anew: no partner was lost, so no flit is (R13, R366). -/
def State.recover (s : State) (p : Nat) : State :=
  let l := s.link p
  if l.parked then
    (s.setLink p { l with replay := [] }).reroute l.unacked
  else s

/-- A port begins training (R365, R393). -/
def State.startTraining (s : State) (p : Nat) : State := s.setLink p ((s.link p).setState lsTraining)

end Sys2Proof.Machine
end

