-- ==== Sys2Proof/Machine/Num.lean ====
section
/-! DEFINITION. Number formats, rounding and conversions (R21 to R52), and the exact arithmetic that every engine and the scalar floating unit round from. -/

namespace Sys2Proof.Machine

/-- The element formats of R62, in code order. -/
inductive Fmt where
  | fp32 | fp16 | n16 | fp64 | n8a | n8b | n4 | i8 | u8 | i4 | i16 | i32 | xn8a | xn8b | xn4 | xi8
deriving DecidableEq, Repr

/-- The format of a FMT code (R62). -/
def Fmt.ofCode (c : Nat) : Fmt :=
  match c % 16 with
  | 0 => .fp32 | 1 => .fp16 | 2 => .n16 | 3 => .fp64 | 4 => .n8a | 5 => .n8b | 6 => .n4 | 7 => .i8
  | 8 => .u8 | 9 => .i4 | 10 => .i16 | 11 => .i32 | 12 => .xn8a | 13 => .xn8b | 14 => .xn4 | _ => .xi8

/-- Bits per element (R62). -/
def Fmt.bits : Fmt → Nat
  | .fp32 | .i32 => 32
  | .fp16 | .n16 | .i16 => 16
  | .fp64 => 64
  | .n8a | .n8b | .i8 | .u8 | .xn8a | .xn8b | .xi8 => 8
  | .n4 | .i4 | .xn4 => 4

/-- A scaled format: blocks of 32 elements with an X8 scale (R30). -/
def Fmt.scaled : Fmt → Bool
  | .xn8a | .xn8b | .xn4 | .xi8 => true
  | _ => false

/-- The element format of a scaled format; any other format itself. -/
def Fmt.elem : Fmt → Fmt
  | .xn8a => .n8a
  | .xn8b => .n8b
  | .xn4 => .n4
  | .xi8 => .i8
  | f => f

/-- An integer format (R28). -/
def Fmt.isInt : Fmt → Bool
  | .i8 | .u8 | .i4 | .i16 | .i32 => true
  | _ => false

/-- The layout of a floating format (R25): exponent bits, fraction bits, bias, whether the all-ones exponent holds specials, and whether overflow and NaN follow IEEE 754. -/
structure FInfo where
  eb : Nat
  fb : Nat
  bias : Nat
  specials : Bool
  ieee : Bool
deriving DecidableEq, Repr

/-- The layouts of R25. -/
def Fmt.info : Fmt → FInfo
  | .fp64 => ⟨11, 52, 1023, true, true⟩
  | .fp16 => ⟨5, 10, 15, true, true⟩
  | .n16 => ⟨8, 7, 127, true, false⟩
  | .n8a | .xn8a => ⟨4, 3, 7, true, false⟩
  | .n8b | .xn8b => ⟨5, 2, 15, true, false⟩
  | .n4 | .xn4 => ⟨2, 1, 1, false, false⟩
  | _ => ⟨8, 23, 127, true, true⟩

/-- The least exponent of a normal value. -/
def FInfo.emin (i : FInfo) : Int := 1 - (i.bias : Int)

/-- The greatest exponent of a finite value. -/
def FInfo.emax (i : FInfo) : Int :=
  (2 ^ i.eb : Nat) - 1 - (if i.specials then 1 else 0) - (i.bias : Int)

/-- The encoding of the largest finite magnitude. -/
def FInfo.maxBits (i : FInfo) : Nat :=
  (2 ^ i.eb - 1 - (if i.specials then 1 else 0)) * 2 ^ i.fb + (2 ^ i.fb - 1)

/-- The encoding of +∞. -/
def FInfo.infBits (i : FInfo) : Nat := (2 ^ i.eb - 1) * 2 ^ i.fb

/-- The encoding of the default NaN (R25). -/
def FInfo.nanBits (i : FInfo) : Nat := i.infBits + 2 ^ (i.fb - 1)

/-- The sign bit's weight. -/
def FInfo.signBit (i : FInfo) : Nat := 2 ^ (i.eb + i.fb)

/-- An exact value: a NaN (its payload left-aligned to 52 fraction bits), an infinity, or ± m × 2^e. -/
inductive FV where
  | nan (neg sig : Bool) (pay : Nat)
  | inf (neg : Bool)
  | fin (neg : Bool) (m : Nat) (e : Int)
deriving DecidableEq, Repr

/-- The default NaN that an invalid operation gives. -/
def FV.dnan : FV := .nan false false (2 ^ 51)

/-- +0. -/
def FV.zero : FV := .fin false 0 0

/-- An integer as a value. -/
def FV.ofInt (x : Int) : FV := .fin (decide (x < 0)) x.natAbs 0

/-- A NaN. -/
def FV.isNan : FV → Bool
  | .nan .. => true
  | _ => false

/-- An infinity. -/
def FV.isInf : FV → Bool
  | .inf _ => true
  | _ => false

/-- A zero of either sign. -/
def FV.isZero : FV → Bool
  | .fin _ m _ => m == 0
  | _ => false

/-- A signalling NaN. -/
def FV.isSig : FV → Bool
  | .nan _ s _ => s
  | _ => false

/-- The sign. -/
def FV.neg : FV → Bool
  | .nan n _ _ => n
  | .inf n => n
  | .fin n _ _ => n

/-- The value with its sign replaced. -/
def FV.withSign (n : Bool) : FV → FV
  | .nan _ s p => .nan n s p
  | .inf _ => .inf n
  | .fin _ m e => .fin n m e

/-- The quiet form of a NaN. -/
def FV.quiet : FV → FV
  | .nan n _ p => .nan n false (p ||| 2 ^ 51)
  | v => v

/-- The numeric condition flags of one operation (the bits of ENG_NSTAT and CORE_FCTL), and two marks that go with an element to its tally (R53): `zeroed`, that a rounding flushed it (R49), and `nanZero`, that it was a NaN and became zero in a format without NaN (R40). SATC stands for the third, since what sets SATC saturates the element (R29, R40, R43, R47). -/
structure Flags where
  inv : Bool := false
  dz : Bool := false
  ovf : Bool := false
  unf : Bool := false
  inx : Bool := false
  satc : Bool := false
  flushed : Bool := false
  zeroed : Bool := false
  nanZero : Bool := false
deriving DecidableEq, Repr

/-- The union of two sets of flags. -/
def Flags.or (a b : Flags) : Flags :=
  ⟨a.inv || b.inv, a.dz || b.dz, a.ovf || b.ovf, a.unf || b.unf, a.inx || b.inx, a.satc || b.satc, a.flushed || b.flushed,
   a.zeroed || b.zeroed, a.nanZero || b.nanZero⟩

/-- ENG_NSTAT bits of a set of flags (bits 0 to 6). -/
def Flags.nstat (f : Flags) : Nat :=
  b2n f.inv + 2 * b2n f.dz + 4 * b2n f.ovf + 8 * b2n f.unf + 16 * b2n f.inx + 32 * b2n f.satc + 64 * b2n f.flushed

/-- Decode a floating encoding of an unscaled format (R26, R27). -/
def decodeF (i : FInfo) (b : Nat) : FV :=
  let s := bit b (i.eb + i.fb)
  let e := fld b i.fb i.eb
  let f := fld b 0 i.fb
  if e = 0 then .fin s f (i.emin - i.fb)
  else if i.specials && e == 2 ^ i.eb - 1 then
    if f = 0 then .inf s
    else .nan s ((i.ieee || i.fb == 7) && !bit f (i.fb - 1)) (f * 2 ^ (52 - i.fb))
  else .fin s (2 ^ i.fb + f) ((e : Int) - i.bias - i.fb)

/-- The integer that an encoding of an integer format holds (R28). -/
def decodeI : Fmt → Nat → Int
  | .u8, b => ((b % 256 : Nat) : Int)
  | f, b => sext f.bits b

/-- Decode an element of an unscaled format. -/
def decodeElem (f : Fmt) (b : Nat) : FV :=
  if f.elem.isInt then .ofInt (decodeI f.elem b) else decodeF f.info (b % 2 ^ f.bits)

/-- A subnormal encoding of a format to which flushing applies (R49: not N4). -/
def subnormal (f : Fmt) (b : Nat) : Bool :=
  !f.elem.isInt && f.elem != .n4 && fld b f.info.fb f.info.eb == 0 && fld b 0 f.info.fb != 0

/-- Read an element as an input: under FTZ a subnormal reads as zero with its sign and sets FLUSHED (R49). -/
def readElem (ftz : Bool) (f : Fmt) (b : Nat) : FV × Flags :=
  if ftz && subnormal f b then (.fin (bit b (f.info.eb + f.info.fb)) 0 0, { flushed := true })
  else (decodeElem f b, {})

/-- Apply an X8 scale to a decoded element (R32). -/
def applyScale (x : Nat) (v : FV) : FV :=
  if x = 255 then .nan false false (2 ^ 51)
  else match v with
    | .fin n m e => .fin n m (e + (x : Int) - 127)
    | v => v

/-- A rounding choice (R42); a stochastic choice carries its 16-bit draw. -/
inductive RMode where
  | nearest | zero | up | down
  | stoch (draw : Nat)
deriving DecidableEq, Repr

/-- The rounding of ENG_NMODE.RMODE and CORE_FCTL.RMODE codes. -/
def RMode.ofCode (c : Nat) : RMode :=
  match c % 4 with
  | 0 => .nearest | 1 => .zero | 2 => .up | _ => .down

/-- round(m / 2^sh, s) of R42, and whether it is inexact. -/
def roundShift (rm : RMode) (neg : Bool) (m sh : Nat) : Nat × Bool :=
  let q := m >>> sh
  let r := m % 2 ^ sh
  if r = 0 then (q, false)
  else
    let up : Bool := match rm with
      | .nearest => decide (2 ^ sh < 2 * r) || (2 * r == 2 ^ sh && q % 2 == 1)
      | .zero => false
      | .up => !neg
      | .down => neg
      | .stoch d => decide (65536 ≤ (r * 65536) / 2 ^ sh + d)
    (q + b2n up, true)

/-- A converted element: its encoding, the flags it raises, and the tally counters it falls in (R53). -/
structure Conv where
  bits : Nat
  flags : Flags := {}
  sat : Bool := false
  flush : Bool := false
  nan : Bool := false
  inf : Bool := false
  zero : Bool := false
deriving DecidableEq, Repr

/-- overflow_result of R43 for a finite value beyond the largest finite one. -/
def overflowConv (i : FInfo) (rm : RMode) (neg : Bool) : Conv :=
  let sb := b2n neg * i.signBit
  if i.ieee then
    let toInf : Bool := match rm with
      | .nearest => true
      | .stoch _ => true
      | .zero => false
      | .up => !neg
      | .down => neg
    if toInf then { bits := sb + i.infBits, flags := { ovf := true, inx := true }, inf := true }
    else { bits := sb + i.maxBits, flags := { ovf := true, inx := true } }
  else { bits := sb + i.maxBits, flags := { satc := true, inx := true }, sat := true }

/-- A non-zero magnitude is tiny as IEEE 754-2019 judges it after rounding: rounded to the format's precision with no bound on the exponent, it lies below the smallest normal value (R23, log 71). -/
def tinyIeee (i : FInfo) (rm : RMode) (neg : Bool) (m : Nat) (e : Int) : Bool :=
  let l : Int := Nat.log2 m + e
  let sh : Int := l - i.fb - e
  let n := if sh ≤ 0 then m * 2 ^ (-sh).toNat else (roundShift rm neg m sh.toNat).1
  decide (l + 1 < i.emin) || (decide (l + 1 = i.emin) && decide (n < 2 ^ (i.fb + 1)))

/-- Convert a finite non-zero magnitude to a floating format (R41, R49). Inexact results set UNF where they are tiny: of an IEEE format under FTZ = 0 as IEEE 754-2019 judges it (R23, log 71), of the others where the rounded magnitude is below the smallest normal (R49); of N4, to which flushing does not apply, never (log 30). -/
def convFin (f : Fmt) (rm : RMode) (ftz neg : Bool) (m : Nat) (e : Int) : Conv :=
  let i := f.info
  let sb := b2n neg * i.signBit
  let ex := Max.max (Nat.log2 m + e) i.emin
  let sh : Int := ex - i.fb - e
  let (n0, inx) := if sh ≤ 0 then (m * 2 ^ (-sh).toNat, false) else roundShift rm neg m sh.toNat
  let (n, ex) := if n0 = 2 ^ (i.fb + 1) then (2 ^ i.fb, ex + 1) else (n0, ex)
  if i.emax < ex then overflowConv i rm neg
  else if n = 0 then { bits := sb, flags := { unf := true, inx := true }, zero := true }
  else if n < 2 ^ i.fb then
    if ftz && f.elem != .n4 then { bits := sb, flags := { flushed := true, unf := true, inx := true, zeroed := true }, flush := true, zero := true }
    else { bits := sb + n, flags := { unf := inx && f.elem != .n4, inx := inx } }
  else { bits := sb + (ex + i.bias).toNat * 2 ^ i.fb + (n - 2 ^ i.fb), flags := { inx := inx, unf := inx && !ftz && i.ieee && tinyIeee i rm neg m e } }

/-- Convert a value to an unscaled floating format (R40 to R43). The zero that a NaN gives in N4 is +0 (log 30). -/
def convF (f : Fmt) (rm : RMode) (ftz : Bool) (v : FV) : Conv :=
  let i := f.info
  match v with
  | .nan n s p =>
    if f.elem = .n4 then { bits := 0, flags := { inv := true, nanZero := true }, nan := true, zero := true }
    else if i.ieee then
      { bits := b2n n * i.signBit + i.infBits + ((p / 2 ^ (52 - i.fb)) ||| 2 ^ (i.fb - 1)), flags := { inv := s }, nan := true }
    else { bits := b2n n * i.signBit + i.nanBits, flags := { inv := s }, nan := true }
  | .inf n =>
    if f.elem = .n4 then { bits := b2n n * i.signBit + i.maxBits, flags := { inv := true, satc := true }, sat := true }
    else { bits := b2n n * i.signBit + i.infBits, inf := true }
  | .fin n m e =>
    if m = 0 then { bits := b2n n * i.signBit, zero := true } else convFin f rm ftz n m e

/-- The range of an integer format (R28). -/
def Fmt.range : Fmt → Int × Int
  | .u8 => (0, 255)
  | f => (-(2 ^ (f.bits - 1) : Nat), (2 ^ (f.bits - 1) : Nat) - 1)

/-- An integer result written at a width, with its counters. -/
def intConv (f : Fmt) (x : Int) (flags : Flags) (sat : Bool) : Conv :=
  { bits := wrapN f.elem.bits x, flags := flags, sat := sat, zero := wrapN f.elem.bits x == 0 }

/-- Convert a value to an integer format (R40, R47). -/
def convI (f : Fmt) (rm : RMode) (v : FV) : Conv :=
  let (lo, hi) := f.elem.range
  match v with
  | .nan .. => { bits := 0, flags := { inv := true, nanZero := true }, nan := true, zero := true }
  | .inf n => intConv f (if n then lo else hi) { inv := true, satc := true } true
  | .fin n m e =>
    let (a, inx) := if 0 ≤ e then (m * 2 ^ e.toNat, false) else roundShift rm n m (-e).toNat
    let x : Int := if n then -(a : Int) else a
    if x < lo then intConv f lo { inv := true, satc := true } true
    else if hi < x then intConv f hi { inv := true, satc := true } true
    else intConv f x { inx := inx } false

/-- Narrow an exact integer to an integer format under a saturation choice (R29). -/
def narrowI (f : Fmt) (saturate : Bool) (x : Int) : Conv :=
  let (lo, hi) := f.elem.range
  if lo ≤ x && x ≤ hi then intConv f x {} false
  else if saturate then intConv f (if x < lo then lo else hi) { satc := true } true
  else intConv f x {} false

/-- Convert a value to any unscaled format. -/
def convElem (f : Fmt) (rm : RMode) (ftz : Bool) (v : FV) : Conv :=
  if f.elem.isInt then convI f rm v else convF f rm ftz v

/-- The signed integer that a finite value is, in units of 2^e (e at most its exponent). -/
def FV.scaledInt (e : Int) : FV → Int
  | .fin n m ex => let a : Int := m * 2 ^ (ex - e).toNat; if n then -a else a
  | _ => 0

/-- The exponent of a finite value. -/
def FV.exp : FV → Int
  | .fin _ _ e => e
  | _ => 0

/-- x < y for non-NaN values; zeros of both signs are equal. -/
def FV.lt : FV → FV → Bool
  | .nan .., _ => false
  | _, .nan .. => false
  | .inf a, .inf b => a && !b
  | .inf a, .fin .. => a
  | .fin .., .inf b => !b
  | x@(.fin ..), y@(.fin ..) =>
    let e := Min.min x.exp y.exp
    decide (x.scaledInt e < y.scaledInt e)

/-- x = y for non-NaN values; zeros of both signs are equal. -/
def FV.eqv (x y : FV) : Bool := !x.isNan && !y.isNan && !x.lt y && !y.lt x

/-- INV for a signalling NaN among the operands (R51). -/
def sigFlags (vs : List FV) : Flags := { inv := vs.any FV.isSig }

/-- The first NaN operand, quieted (the payload rule of R51). -/
def firstNan (vs : List FV) : Option FV := (vs.find? FV.isNan).map FV.quiet

/-- The exact sum of two finite values; an exact zero takes the sign of R51 under the rounding. -/
def addFin (rm : RMode) (x y : FV) : FV :=
  let e := Min.min x.exp y.exp
  let s := x.scaledInt e + y.scaledInt e
  if s = 0 then
    if x.isZero && y.isZero && x.neg == y.neg then .fin x.neg 0 0
    else .fin (rm == .down) 0 0
  else .fin (decide (s < 0)) s.natAbs e

/-- The exact sum, before rounding (R51). -/
def addFV (rm : RMode) (x y : FV) : FV × Flags :=
  match firstNan [x, y] with
  | some v => (v, sigFlags [x, y])
  | none =>
    match x, y with
    | .inf a, .inf b => if a = b then (.inf a, {}) else (.dnan, { inv := true })
    | .inf a, _ => (.inf a, {})
    | _, .inf b => (.inf b, {})
    | x, y => (addFin rm x y, {})

/-- The exact difference. -/
def subFV (rm : RMode) (x y : FV) : FV × Flags :=
  if y.isNan then addFV rm x y else addFV rm x (y.withSign (!y.neg))

/-- The exact product of non-NaN values, and INV for 0 × ∞. -/
def mulRaw (x y : FV) : FV × Flags :=
  let n := x.neg != y.neg
  match x, y with
  | .fin _ a ea, .fin _ b eb => (.fin n (a * b) (ea + eb), {})
  | x, y => if x.isZero || y.isZero then (.dnan, { inv := true }) else (.inf n, {})

/-- The exact product, before rounding (R51). -/
def mulFV (x y : FV) : FV × Flags :=
  match firstNan [x, y] with
  | some v => (v, sigFlags [x, y])
  | none => mulRaw x y

/-- The exact a × b + c, before its one rounding; 0 × ∞ is invalid whatever c is (R51). -/
def fmaFV (rm : RMode) (a b c : FV) : FV × Flags :=
  if !a.isNan && !b.isNan && (mulRaw a b).2.inv then
    (if c.isNan then c.quiet else .dnan, { inv := true })
  else
    match firstNan [a, b, c] with
    | some v => (v, sigFlags [a, b, c])
    | none => addFV rm (mulRaw a b).1 c

/-- The quotient of two finite non-zero magnitudes with at least 120 bits and a sticky last bit. -/
def divFin (n : Bool) (a : Nat) (ea : Int) (b : Nat) (eb : Int) : FV :=
  let k := 130 + Nat.log2 b
  let q := (a * 2 ^ k) / b
  let st := b2n ((a * 2 ^ k) % b != 0)
  .fin n (2 * q + st) (ea - eb - k - 1)

/-- The quotient, before rounding; a finite non-zero value over zero sets DZ. -/
def divFV (x y : FV) : FV × Flags :=
  match firstNan [x, y] with
  | some v => (v, sigFlags [x, y])
  | none =>
    let n := x.neg != y.neg
    match x, y with
    | .inf _, .inf _ => (.dnan, { inv := true })
    | .inf _, _ => (.inf n, {})
    | _, .inf _ => (.fin n 0 0, {})
    | .fin _ a ea, .fin _ b eb =>
      if b = 0 then (if a = 0 then (.dnan, { inv := true }) else (.inf n, { dz := true }))
      else if a = 0 then (.fin n 0 0, {})
      else (divFin n a ea b eb, {})
    | _, _ => (.dnan, {})

/-- The integer square root by bits: the greatest r with r² ≤ v, for v below 4^n. -/
def isqrtFrom (v : Nat) : Nat → Nat → Nat
  | 0, r => r
  | n + 1, r =>
    let r' := r + 2 ^ n
    if r' * r' ≤ v then isqrtFrom v n r' else isqrtFrom v n r

/-- The integer square root. -/
def isqrt (v : Nat) : Nat := isqrtFrom v (Nat.log2 v / 2 + 1) 0

/-- The square root of m × 2^e with at least 120 bits and a sticky last bit. -/
def sqrtFin (m : Nat) (e : Int) : FV :=
  let k : Nat := 260 + (if (e - 260) % 2 = 0 then 0 else 1)
  let v := m * 2 ^ k
  let r := isqrt v
  .fin false (2 * r + b2n (r * r != v)) ((e - k) / 2 - 1)

/-- The square root, before rounding. -/
def sqrtFV (x : FV) : FV × Flags :=
  match x with
  | .nan .. => (x.quiet, sigFlags [x])
  | .inf false => (.inf false, {})
  | .inf true => (.dnan, { inv := true })
  | .fin n m e =>
    if m = 0 then (.fin n 0 0, {})
    else if n then (.dnan, { inv := true })
    else (sqrtFin m e, {})

/-- 1 ÷ √x, before rounding (R162). -/
def rsqrtFV (x : FV) : FV × Flags :=
  match x with
  | .nan .. => (x.quiet, sigFlags [x])
  | .inf false => (.fin false 0 0, {})
  | .inf true => (.dnan, { inv := true })
  | .fin n m e =>
    if m = 0 then (.inf n, { dz := true })
    else if n then (.dnan, { inv := true })
    else
      -- 1/√(m·2^e) = √(2^-e / m): the root of a quotient taken with a sticky bit
      let t : Int := -e
      let par : Nat := if t % 2 = 0 then 0 else 1
      let k : Nat := 2 * (140 + Nat.log2 m)
      let q := 2 ^ (k + par) / m
      let r := isqrt q
      let exact := r * r == q && 2 ^ (k + par) % m == 0
      (.fin false (2 * r + b2n (!exact)) ((t - par) / 2 - (k / 2 : Nat) - 1), {})

/-- The IEEE 754-2019 minimum or maximum (R51): −0 orders below +0, a NaN operand gives NaN. -/
def minmaxFV (isMax : Bool) (x y : FV) : FV × Flags :=
  match firstNan [x, y] with
  | some v => (v, sigFlags [x, y])
  | none =>
    let xLess := if x.isZero && y.isZero then x.neg && !y.neg else x.lt y
    (if isMax then (if xLess then y else x) else (if xLess || x.eqv y then (if x.isZero && y.isZero && y.neg then y else x) else y), {})

/-- A comparison of R159: 0 EQ, 1 NE, 2 LT, 3 LE, 4 GT, 5 GE; a NaN is unordered (R51). -/
def cmpFV (c : Nat) (x y : FV) : Bool × Flags :=
  let r : Bool :=
    if x.isNan || y.isNan then c == 1
    else match c with
      | 0 => x.eqv y
      | 1 => !x.eqv y
      | 2 => x.lt y
      | 3 => !y.lt x
      | 4 => y.lt x
      | _ => !x.lt y
  (r, sigFlags [x, y])

/-- A comparison of two integers, coded as R159. -/
def cmpInt (c : Nat) (x y : Int) : Bool :=
  match c with
  | 0 => x == y
  | 1 => x != y
  | 2 => decide (x < y)
  | 3 => decide (x ≤ y)
  | 4 => decide (y < x)
  | _ => decide (y ≤ x)

/-- Bits of working precision below the point for EXP2 and LOG2. -/
def transBits : Nat := 400

/-- Square roots of 2 taken one after another: the product of 2^(2^-i) over the set bits of a fraction, in units of 2^-transBits. `f` holds the bits still to come, the first in bit `n` - 1. -/
def exp2Frac (f : Nat) : Nat → Nat → Nat → Nat
  | 0, _, acc => acc
  | n + 1, r, acc =>
    let r' := isqrt (r * 2 ^ transBits)
    exp2Frac f n r' (if f.testBit n then (acc * r') / 2 ^ transBits else acc)

/-- 2^a for a finite a, before rounding, with a sticky last bit unless it is exact (R162). -/
def exp2Fin (neg : Bool) (m : Nat) (e : Int) : FV :=
  if m = 0 then .fin false 1 0
  else
    -- beyond these bounds every format overflows or underflows
    if 12 ≤ Nat.log2 m + e then (if neg then .fin false 1 (-100000) else .fin false 1 100000)
    else
      let n : Nat := (-e).toNat
      let x : Int := if 0 ≤ e then (m * 2 ^ e.toNat : Nat) else m
      let x := if neg then -x else x
      let i := x / (2 ^ n : Nat)
      let f := (x % (2 ^ n : Nat)).toNat
      if f = 0 then .fin false 1 i
      else
        let acc := exp2Frac f n (2 * 2 ^ transBits) (2 ^ transBits)
        .fin false (2 * acc + 1) (i - transBits - 1)

/-- 2^x (R162). -/
def exp2FV (x : FV) : FV × Flags :=
  match x with
  | .nan .. => (x.quiet, sigFlags [x])
  | .inf false => (.inf false, {})
  | .inf true => (.fin false 0 0, {})
  | .fin n m e => (exp2Fin n m e, {})

/-- Bits of log2 y for y in [1, 2), by repeated squaring, in units of 2^-transBits. -/
def log2Frac : Nat → Nat → Nat → Nat
  | 0, _, acc => acc
  | n + 1, y, acc =>
    let y2 := (y * y) / 2 ^ (2 * transBits)
    if 2 * 2 ^ (2 * transBits) ≤ y2 then log2Frac n (y2 / 2) (2 * acc + 1) else log2Frac n y2 (2 * acc)

/-- log2 of m × 2^e, m non-zero, before rounding, with a sticky last bit unless it is exact (R162). -/
def log2Fin (m : Nat) (e : Int) : FV :=
  let l := Nat.log2 m
  let i : Int := l + e
  if m = 2 ^ l then .ofInt i
  else
    let y := (m * 2 ^ (2 * transBits)) / 2 ^ l
    let f := log2Frac transBits y 0
    let x : Int := i * (2 ^ transBits : Nat) + f
    -- twice the magnitude, with the sticky bit on the side away from the integer part
    let x2 := 2 * x + 1
    .fin (decide (x2 < 0)) x2.natAbs (-transBits - 1)

/-- log2 x (R162). -/
def log2FV (x : FV) : FV × Flags :=
  match x with
  | .nan .. => (x.quiet, sigFlags [x])
  | .inf false => (.inf false, {})
  | .inf true => (.dnan, { inv := true })
  | .fin n m e =>
    if m = 0 then (.inf true, { dz := true })
    else if n then (.dnan, { inv := true })
    else (log2Fin m e, {})

/-- Round an exact result to a floating format, uniting flags. -/
def rnd (f : Fmt) (rm : RMode) (ftz : Bool) (r : FV × Flags) : Nat × Flags :=
  let c := convF f rm ftz r.1
  (c.bits, r.2.or c.flags)

/-- The scale byte of a block (R34) from its inputs: 255 for a NaN in N4 or I8. -/
def scaleFor (elem : Fmt) (vs : List FV) : Nat :=
  let mags := vs.filterMap (fun v => match v with | .fin _ m e => if m = 0 then none else some (FV.fin false m e) | _ => none)
  if (elem == .n4 || elem == .i8) && vs.any FV.isNan then 255
  else match mags with
    | [] => 127
    | v :: t =>
      let amax := t.foldl (fun a b => if a.lt b then b else a) v
      let l : FV := match elem with
        | .n8a => .fin false 240 0
        | .n8b => .fin false 57344 0
        | .n4 => .fin false 6 0
        | _ => .fin false 127 0
      match amax with
      | .fin _ m e =>
        -- start just below the answer and step up to the least scale that fits
        let base : Int := Nat.log2 m + e - (Nat.log2 (match l with | .fin _ lm _ => lm | _ => 1)) + 127
        let fits (x : Int) : Bool := !(l.lt (.fin false m (e + 127 - x)))
        let cand := [base - 1, base, base + 1]
        match cand.find? fits with
        | some x => if x < 0 then 0 else if 254 < x then 254 else x.toNat
        | none => if base + 2 < 0 then 0 else if 254 < base + 2 then 254 else (base + 2).toNat
      | _ => 127

/-- Element `v` converted at scale byte `x` (R34). -/
def convScaled (elem : Fmt) (rm : RMode) (ftz : Bool) (x : Nat) (v : FV) : Conv :=
  match v with
  | .fin n m e => convElem elem rm ftz (.fin n m (e + 127 - x))
  | v => convElem elem rm ftz v

end Sys2Proof.Machine
end

