-- ==== Sys2Proof/Machine/Flags.lean ====
section
/-! DEFINITION. Every flag computation: the engines' sticky flags and numeric faults (R37 to R39), the scalar floating flags and traps (R228), the tally records (R53 to R56) and the vat's window flags (R313). -/

namespace Sys2Proof.Machine

/-- Set sticky flags in ENG_NSTAT (R37). -/
def Core.setNstat (c : Core) (bits : Nat) : Core := c.setReg ENG_NSTAT (c.reg ENG_NSTAT ||| BitVec.ofNat 64 (bits % 256))

/-- The condition bits that an ENG_NMODE enables traps for: INV, DZ, OVF, UNF, SATC (R39). -/
def Flags.causes (f : Flags) : Nat := b2n f.inv + 2 * b2n f.dz + 4 * b2n f.ovf + 8 * b2n f.unf + 16 * b2n f.satc

/-- The enabled conditions that an operation raised under a numeric mode (R39). -/
def trapCause (nmode : Nat) (flags : Nat) : Nat :=
  -- flags are in ENG_NSTAT order: INV, DZ, OVF, UNF, INX, SATC
  let c := fld flags 0 4 + 16 * fld flags 5 1
  c &&& fld nmode 8 5

/-- The code of a numeric fault: the lowest enabled condition (R39). -/
def numCode (cause : Nat) : Nat := 0x40 + ((List.range 5).find? (fun i => bit cause i)).getD 0

/-- The numeric fault of an operation at (sheet, slot, index), where a trap is enabled (R39). -/
def State.numFault (s : State) (k seq pos idx unit nmode flags : Nat) : State :=
  let cause := trapCause nmode flags
  if cause = 0 then s else s.engFault k ⟨seq, pos, idx, unit, numCode cause, cause, 0⟩

/-- CORE_FCTL bits of a set of conditions: INV, DZ, OVF, UNF, INX (R228). -/
def Flags.fctl (f : Flags) : Nat := b2n f.inv + 2 * b2n f.dz + 4 * b2n f.ovf + 8 * b2n f.unf + 16 * b2n f.inx

/-- Set the sticky flags of CORE_FCTL. -/
def Core.setFctl (c : Core) (f : Flags) : Core := c.setReg CORE_FCTL (c.reg CORE_FCTL ||| BitVec.ofNat 64 f.fctl)

/-- A raised condition has its trap enabled in CORE_FCTL (R228). -/
def Core.fpTraps (c : Core) (f : Flags) : Bool := decide (f.fctl &&& wfld (c.reg CORE_FCTL) 8 5 ≠ 0)

/-- The rounding of CORE_FCTL.RMODE. -/
def Core.frm (c : Core) : RMode := RMode.ofCode (wfld (c.reg CORE_FCTL) 16 2)

/-- VAT_ESTAT bits of a set of conditions: INV, INX, OVF, UNF, FLUSHED. -/
def Flags.estat (f : Flags) : Nat := b2n f.inv + 2 * b2n f.inx + 4 * b2n f.ovf + 8 * b2n f.unf + 16 * b2n f.flushed

/-- VAT_ESTAT bits from flags in ENG_NSTAT order. -/
def estatOf (n : Nat) : Nat := fld n 0 1 + 2 * fld n 4 1 + 4 * fld n 2 1 + 8 * fld n 3 1 + 16 * fld n 6 1

/-- Count one converted output element (R53, R55). -/
def Counts.add (c : Counts) (v : Conv) : Counts :=
  { c with sat := c.sat + b2n v.sat, flush := c.flush + b2n v.flush, nan := c.nan + b2n v.nan, inf := c.inf + b2n v.inf,
           zero := c.zero + b2n v.zero, elems := c.elems + 1 }

/-- The sum of two sets of counts. -/
def Counts.plus (a b : Counts) : Counts :=
  ⟨a.sat + b.sat, a.flush + b.flush, a.nan + b.nan, a.inf + b.inf, a.zero + b.zero, a.elems + b.elems, a.raised + b.raised⟩

/-- The counters of a record in the order of R53. -/
def Counts.list (c : Counts) : List Nat := [c.sat, c.flush, c.nan, c.inf, c.zero, c.elems, c.raised]

/-- The counts and the OVF bits of a record (R53): words 0 to 5 and 7, and word 6. -/
def recordOf (bs : List Byte) : Counts × Nat :=
  let w := fun i => leNat ((bs.drop (4 * i)).take 4)
  (⟨w 0, w 1, w 2, w 3, w 4, w 5, w 7⟩, w 6 % 128)

/-- Saturate the counters, with the OVF bits of those that reach 0xFFFF_FFFF (R54). -/
def satCounts (c : Counts) : Counts × Nat :=
  let m := 0xFFFFFFFF
  let l := c.list
  (⟨Nat.min c.sat m, Nat.min c.flush m, Nat.min c.nan m, Nat.min c.inf m, Nat.min c.zero m, Nat.min c.elems m, Nat.min c.raised m⟩,
   (List.range 7).foldl (fun o i => o + (if m ≤ l.getD i 0 then 2 ^ i else 0)) 0)

/-- The 32 bytes of a record (R53). -/
def recordBytes (c : Counts) (ovf : Nat) : List Byte :=
  [c.sat, c.flush, c.nan, c.inf, c.zero, c.elems, ovf, c.raised].flatMap (leBytes 4)

/-- A tally update (R56): the record written or added to, and whether a counter of this update reached 0xFFFF_FFFF (TOVF, R54). -/
def tallyUpdate (add : Bool) (old : List Byte) (c : Counts) : List Byte × Bool :=
  let (oc, oo) := if add then recordOf old else ({}, 0)
  -- a counter that this operation does not add to keeps its value
  let sum := oc.plus c
  let (n, o) := satCounts sum
  let hit := (List.range 7).any (fun i => decide (0 < c.list.getD i 0) && bit o i)
  (recordBytes n (oo ||| o), hit)

end Sys2Proof.Machine
end

