-- ==== Sys2Proof/Machine/Chain.lean ====
section
/-! DEFINITION. The chain unit: buckets, the running sum, the parameter return and the chain error record (R378 to R389). -/

namespace Sys2Proof.Machine

/-- DLN_CTBASE.BASE. -/
def State.ctBase (s : State) : Nat := wfld (s.dlnReg DLN_CTBASE) 21 27 * 2 ^ 21

/-- The chain table entry of a bucket (R378). -/
structure Bucket where
  valid : Bool
  role : Nat
  kind : Nat
  resv : Bool
  next : Nat
  owner : Nat
  count : Nat
  cap : Nat
  plen : Nat
  step : Nat
  state : Nat
  loc : Nat
  lscale : Nat
  land : Nat
  ascale : Nat
  result : Nat
  param : Nat
  tally : Nat
  flag : Nat
deriving DecidableEq, Repr

def roleFirst : Nat := 0
def roleMiddle : Nat := 1
def roleOwner : Nat := 2
def roleSole : Nat := 3

def kSparse : Nat := 5

def bIdle : Nat := 0
def bPosted : Nat := 1
def bReduced : Nat := 2
def bReturning : Nat := 3
def bFailed : Nat := 4

/-- The element format of a scaled KIND (R378). -/
def kindElem (kind : Nat) : Fmt := if kind = 1 then .n8a else if kind = 2 then .n8b else if kind = 3 then .i8 else .n4

def State.bucketAddr (s : State) (b : Nat) : Nat := s.ctBase + b * 128

/-- Read a bucket's entry (R378). -/
def State.bucket (s : State) (b : Nat) : Bucket :=
  let a := s.bucketAddr b
  let w := fun o n => leNat (s.physRead (a + o) n)
  let b0 := w 0 1
  { valid := bit b0 0, role := fld b0 1 2, kind := fld b0 3 3,
    resv := b0 / 64 == 0 && w 1 1 == 0 && w 0x17 1 == 0 && w 0x58 40 == 0,
    next := w 4 2, owner := w 6 2, count := w 8 4, cap := w 0xC 4, plen := w 0x10 4, step := w 0x14 2, state := w 0x16 1,
    loc := w 0x18 8, lscale := w 0x20 8, land := w 0x28 8, ascale := w 0x30 8, result := w 0x38 8, param := w 0x40 8, tally := w 0x48 8,
    flag := w 0x50 8 }

/-- Write a bucket's STATE. -/
def State.setBState (s : State) (b st : Nat) : State :=
  let s := s.physWrite 0xFF (s.bucketAddr b + 0x16) (leBytes 1 st)
  let rest := s.dln.active.filter (fun x => x != b)
  { s with dln := { s.dln with active := if st = 1 ∨ st = 2 ∨ st = 3 then rest ++ [b] else rest } }

/-- Write a bucket's STEP. -/
def State.setBStep (s : State) (b st : Nat) : State := s.physWrite 0xFF (s.bucketAddr b + 0x14) (leBytes 2 st)

def State.bkt (s : State) (b : Nat) : Bkt := Tab.get {} s.dln.bkts b

def State.setBkt (s : State) (b : Nat) (x : Bkt) : State := { s with dln := { s.dln with bkts := Tab.set {} s.dln.bkts b x } }

def causePostBusy : Nat := 1
def causeStep : Nat := 2
def causeShape : Nat := 3
def causeCap : Nat := 4
def causeOrder : Nat := 5
def causeEntry : Nat := 6

/-- Record a chain error in DLN_CERR0 (R379, R388): the first fills it, later ones count in MORE. -/
def State.chainErr (s : State) (b cause : Nat) : State :=
  let r := s.dlnReg DLN_CERR0
  if r.getLsbD 63 then s.setDlnReg DLN_CERR0 (wset r 48 8 (Nat.min (wfld r 48 8 + 1) 255))
  else s.setDlnReg DLN_CERR0 (BitVec.ofNat 64 (2 ^ 63 + cause * 2 ^ 32 + b * 2 ^ 16 + (s.bucket b).step))

/-- A CHAIN or RETURN flit's bucket and index (R367). -/
def flitBucket (f : Flit) : Nat := f.addr % 2 ^ 14
def flitIndex (f : Flit) : Nat := fld f.addr 16 32

/-- A RETURN flit of the die's own that the bucket has still to send (R388). -/
def State.unsent (s : State) (b : Nat) (f : Flit) : Bool := f.typ.toNat == tyReturn && f.src.toNat == s.dev && flitBucket f == b

/-- A bucket goes to FAILED (R388); an owner's RETURN flits that have not left are not sent. -/
def State.bucketFail (s : State) (b cause : Nat) : State :=
  let s := s.chainErr b cause
  let s := if (s.bucket b).state = bReturning then { s with dln := { s.dln with outq := s.dln.outq.filter (fun f => !s.unsent b f) } } else s
  (s.setBState b bFailed).fcIrq 0x21

/-- Write a flag word (R380). -/
def State.bucketFlag (s : State) (b w : Nat) : State :=
  let e := s.bucket b
  s.physWrite 0xFF (e.flag + 8 * w) (leBytes 8 (2 ^ 63 + b * 2 ^ 16 + e.step))

/-- A bucket returns to IDLE from the end of its return: flag word 1, STEP + 1 (R379). -/
def State.bucketDone (s : State) (b : Nat) : State :=
  let e := s.bucket b
  let s := s.bucketFlag b 1
  ((s.setBStep b ((e.step + 1) % 2 ^ 16)).setBState b bIdle).setBkt b {}

/-- An address of an entry lies in stack memory or in the reachable part of a vat window (R378). -/
def State.bufferOk (s : State) (a : Nat) : Bool :=
  match s.target a with
  | .stack => true
  | .vat c off => (s.vat c).reaches off
  | _ => false

/-- The entry breaks nothing that R378 asks of the addresses its role and kind use. -/
def State.entryOk (s : State) (e : Bucket) : Bool :=
  let scaled := decide (1 ≤ e.kind) && decide (e.kind ≤ 4)
  e.valid && decide (e.kind ≤ 5) && e.resv && s.bufferOk e.loc && s.bufferOk e.flag &&
  (!scaled || s.bufferOk e.lscale) &&
  (e.role == roleFirst || e.role == roleSole || s.bufferOk e.land) &&
  (!(scaled && (e.role == roleFirst || e.role == roleOwner)) || s.bufferOk e.ascale) &&
  (!(e.role == roleOwner || e.role == roleSole) || s.bufferOk e.result) && (e.plen == 0 || s.bufferOk e.param) &&
  (e.tally == 0 || (match s.target e.tally with | .felt _ _ => true | _ => false))

/-- Elements that one flit carries (R382, R384, R386). -/
def perFlit (kind : Nat) : Nat := if kind = 0 then 64 else if kind = 4 then 448 else if kind = 5 then 32 else 224

/-- Flits of a running sum's stream but for SPARSE (R382, R384). -/
def streamLen (e : Bucket) : Nat := Nat.max 1 (ceilDiv e.count (perFlit e.kind))

/-- Flits of the parameter stream (R387). -/
def returnLen (e : Bucket) : Nat := Nat.max 1 (ceilDiv e.plen 256)

/-- The return of a bucket that passes the parameters on ends when it is REDUCED and every flit of the stream has been written whole at PARAM, and forwarded (R379, R387). `e`: its entry. -/
def State.returnDone (s : State) (b : Nat) (e : Bucket) : State :=
  if (e.role = roleFirst ∨ e.role = roleMiddle) ∧ e.state = bReduced ∧ (List.range (returnLen e)).all (fun i => (s.bkt b).retSeen.contains i) = true then
    s.bucketDone b
  else s

/-- A bucket has sent or written the last of its sum (R379): REDUCED, flag word 0, and the end of its return if the parameters have come already. -/
def State.bucketReduced (s : State) (b : Nat) : State :=
  let s := (s.setBState b bReduced).bucketFlag b 0
  s.returnDone b (s.bucket b)

/-- Some of these addresses lies in a window of a held cluster: what the chain unit does there waits (R440, R442). -/
def State.heldAny (s : State) (as : List Nat) : Bool := as.any (fun a => s.heldTarget (s.target a))

/-- The addresses that taking a CHAIN flit reaches. -/
def State.chainWaits (s : State) (f : Flit) : Bool :=
  s.heldAny [s.bucketAddr (flitBucket f), (s.bucket (flitBucket f)).land + 256 * flitIndex f]

/-- The addresses that taking a RETURN flit reaches. -/
def State.returnWaits (s : State) (f : Flit) : Bool :=
  let e := s.bucket (flitBucket f)
  s.heldAny [s.bucketAddr (flitBucket f), e.param + 256 * flitIndex f, e.flag]

/-- The addresses that processing a flit of a bucket reaches. -/
def State.processWaits (s : State) (b : Nat) : Bool :=
  let e := s.bucket b
  s.heldAny [s.bucketAddr b, e.loc, e.lscale, e.land, e.ascale, e.result, e.tally, e.flag]

-- flits in

/-- CHAIN: a running-sum flit lands (R383), or fails its bucket (R388). -/
def State.chainLand (s : State) (f : Flit) : State :=
  let b := flitBucket f
  let e := s.bucket b
  if e.state = bFailed then s
  else if !s.entryOk e then s.bucketFail b causeEntry
  else if f.step.toNat ≠ e.step then s.bucketFail b causeStep
  else if e.role = roleFirst ∨ e.role = roleSole then s.bucketFail b causeShape
  else if e.kind = kSparse ∧ Nat.max 1 (ceilDiv e.cap 32) ≤ (flitIndex f) then s.bucketFail b causeCap
  else if e.kind ≠ kSparse ∧ streamLen e ≤ (flitIndex f) then s.bucketFail b causeShape
  else
    let s := s.physWrite 0xFF (e.land + 256 * (flitIndex f)) (f.payload.take f.len)
    let x := s.bkt b
    s.setBkt b { x with landed := Tab.set none x.landed (flitIndex f) (some (f.len, f.last)) }

-- the running sum

/-- A CHAIN or RETURN flit that the chain unit sends. -/
def State.chainFlit (s : State) (e : Bucket) (b typ idx : Nat) (last : Bool) (bs : List Byte) : State :=
  s.sendFlit { s.flitTo e.next typ with last := last, len := bs.length, addr := idx * 2 ^ 16 + b, step := BitVec.ofNat 16 e.step, payload := bs }

/-- fl32 of an exact sum for the chain unit: nearest even, no flush, every NaN the default one (R382). -/
def chainAdd32 (a c : Nat) : Nat :=
  let r := addFV .nearest (decodeF Fmt.fp32.info (a % 2 ^ 32)) (decodeF Fmt.fp32.info (c % 2 ^ 32))
  if r.1.isNan then 0x7FC00000 else (convF .fp32 .nearest false r.1).bits

/-- The counts of FP32 outputs (R385). -/
def countBits32 (l : List Nat) : Counts :=
  l.foldl (fun c x =>
    let v := decodeF Fmt.fp32.info x
    { c with nan := c.nan + b2n v.isNan, inf := c.inf + b2n v.isInf, zero := c.zero + b2n v.isZero, elems := c.elems + 1 }) {}

/-- Add a hop's counts to its tally record (R385, R54, R56); TOVF is set at the core that owns the felt. -/
def State.chainTally (s : State) (e : Bucket) (c : Counts) : State :=
  if e.tally = 0 then s
  else
    let a := e.tally - e.tally % 32
    let (bs, hit) := tallyUpdate true (s.physRead a 32) c
    let s := s.physWrite 0xFF a bs
    match s.target a with
    | .felt k _ => if hit then s.updCore k (fun c => c.setNstat 0x80) else s
    | _ => s

/-- FP32 words in bytes. -/
def words32 (n : Nat) (bs : List Byte) : List Nat := (List.range n).map (fun i => leNat ((bs.drop (4 * i)).take 4))

/-- Element `i` of an array of an element format in bytes (R21, R22). -/
def elemAt (w : Nat) (bs : List Byte) (i : Nat) : Nat :=
  if w = 4 then fld ((bs.getD (i / 2) 0).toNat) (4 * (i % 2)) 4 else leNat ((bs.drop (i * w / 8)).take (w / 8))

/-- Pack element encodings of a width into bytes (R21, R22). -/
def packElems (w : Nat) (l : List Nat) : List Byte :=
  if w = 4 then (List.range ((l.length + 1) / 2)).map (fun j => BitVec.ofNat 8 (l.getD (2 * j) 0 % 16 + 16 * (l.getD (2 * j + 1) 0 % 16)))
  else l.flatMap (leBytes (w / 8))

/-- A block of a scaled stream: its scale, its RAISED flag, its element encodings. -/
structure ChBlock where
  x : Nat
  raised : Bool
  el : List Nat
deriving DecidableEq, Repr

/-- The least raised scale from `x` on that fits, of at most eight steps (R384). -/
def raiseScale (l amax : FV) (top : Nat) : Nat → Nat → Nat
  | 0, x => x
  | n + 1, x =>
    if top ≤ x then top
    else
      match amax with
      | .fin _ m e => if l.lt (.fin false m (e + 127 - (x : Int))) then raiseScale l amax top n (x + 1) else x
      | _ => x

/-- The largest finite value of an element format (R34). -/
def elemMax (f : Fmt) : FV := .fin false (match f with | .n8a => 240 | .n8b => 57344 | .n4 => 6 | _ => 127) 0

/-- add of R384 on one block, with its counts (R385). -/
def blockAdd (f : Fmt) (i : ChBlock) (xw : Nat) (w : List Nat) : ChBlock × Counts :=
  let n := w.length
  let nanBlock : ChBlock × Counts := (⟨255, i.raised, List.replicate n 0⟩, { nan := n, elems := n })
  if i.x = 255 ∨ xw = 255 then nanBlock
  else
    let vs := (List.range n).map (fun j =>
      (addFV .nearest (applyScale i.x (decodeElem f (i.el.getD j 0))) (applyScale xw (decodeElem f (w.getD j 0)))).1)
    let amax := vs.foldl (fun a v => if v.isNan || v.isInf then a else if a.lt (v.withSign false) then v.withSign false else a) FV.zero
    if f = .i8 ∧ vs.any FV.isNan = true then nanBlock
    else
      let x := raiseScale (elemMax f) amax (Nat.min (i.x + 8) 254) 8 i.x
      let cs := vs.map (convScaled f .nearest false x)
      let c := cs.foldl Counts.add {}
      (⟨x, i.raised || decide (i.x < x), cs.map Conv.bits⟩, { c with flush := 0, raised := b2n (decide (i.x < x)) })

/-- fin of R384 on one block: fl32 of the exact sum, every NaN the default one; `none` where there is no incoming sum. -/
def blockFin (f : Fmt) (i : Option ChBlock) (xw : Nat) (w : List Nat) : List Nat :=
  (List.range w.length).map (fun j =>
    let c := applyScale xw (decodeElem f (w.getD j 0))
    let v := match i with
      | some b => (addFV .nearest (applyScale b.x (decodeElem f (b.el.getD j 0))) c).1
      | none => c
    if v.isNan then 0x7FC00000 else (convF .fp32 .nearest false v).bits)

/-- The layout of a scaled flit (R384): blocks in a flit, offset of the scales and of the RAISED bits. -/
def chLayout (f : Fmt) : Nat × Nat × Nat := if f = .n4 then (14, 224, 238) else (7, 224, 231)

/-- Block `j` of a scaled flit's payload (R384). -/
def flitBlock (f : Fmt) (bs : List Byte) (j : Nat) : ChBlock :=
  let (_, so, ro) := chLayout f
  let w := f.bits
  { x := (bs.getD (so + j) 0).toNat, raised := bit (leNat ((bs.drop ro).take 2)) j,
    el := (List.range 32).map (fun i => elemAt w bs (32 * j + i)) }

/-- The payload of a scaled flit (R384). -/
def flitOfBlocks (f : Fmt) (bl : List ChBlock) : List Byte :=
  let (n, _, ro) := chLayout f
  let els := packElems f.bits (bl.flatMap (fun b => b.el ++ List.replicate (32 - b.el.length) 0))
  let els := els ++ List.replicate (224 - els.length) 0
  let xs := (bl.map (fun b => BitVec.ofNat 8 b.x))
  let xs := xs ++ List.replicate (n - xs.length) 0
  let fl := (List.range bl.length).foldl (fun a j => a + (if (bl.getD j ⟨0, false, []⟩).raised then 2 ^ j else 0)) 0
  els ++ xs ++ leBytes (if ro = 231 then 1 else 2) fl

/-- The local contribution of block `j` (of the whole bucket): scale and element encodings (R384). -/
def State.localBlock (s : State) (e : Bucket) (f : Fmt) (j : Nat) : Nat × List Nat :=
  let n := Nat.min 32 (e.count - 32 * j)
  let bs := s.physRead (e.loc + j * 32 * f.bits / 8) (ceilDiv (n * f.bits) 8)
  (leNat (s.physRead (e.lscale + j) 1), (List.range n).map (elemAt f.bits bs))

/-- Process flit `i` of a scaled bucket (R381, R384, R385). -/
def State.chainScaled (s : State) (b : Nat) (e : Bucket) (i : Nat) : State :=
  let f := kindElem e.kind
  let (nb, _, _) := chLayout f
  let blocks := (List.range nb).filter (fun j => decide (32 * (i * nb + j) < e.count))
  let inb := s.physRead (e.land + 256 * i) 256
  let last := decide (i + 1 = streamLen e)
  if e.role = roleOwner ∨ e.role = roleSole then
    let s := blocks.foldl (fun s j =>
      let g := i * nb + j
      let (xw, w) := s.localBlock e f g
      let ib := flitBlock f inb j
      let r := blockFin f (if e.role = roleOwner then some ib else none) xw w
      let s := s.physWrite 0xFF (e.result + 128 * g) (r.flatMap (leBytes 4))
      let s := if e.role = roleOwner then s.physWrite 0xFF (e.ascale + 2 * g) [BitVec.ofNat 8 ib.x, BitVec.ofNat 8 (b2n ib.raised)] else s
      s.chainTally e (countBits32 r)) s
    if last then s.bucketReduced b else s
  else
    let outs := blocks.map (fun j =>
      let g := i * nb + j
      let (xw, w) := s.localBlock e f g
      let ib := if e.role = roleFirst then ⟨leNat (s.physRead (e.ascale + g) 1), false, []⟩ else flitBlock f inb j
      blockAdd f ib xw w)
    let s := s.chainFlit e b tyChain i last (if e.count = 0 then [] else flitOfBlocks f (outs.map Prod.fst))
    let s := s.chainTally e (outs.foldl (fun a o => a.plus o.2) {})
    if last then s.bucketReduced b else s

/-- A NaN result is written as the default one (R382). -/
def nanDefault (x : Nat) : Nat := if (decodeF Fmt.fp32.info x).isNan then 0x7FC00000 else x

/-- Process flit `i` of an FP32 bucket (R381, R382). The first die sends its own bits unchanged. -/
def State.chainFp32 (s : State) (b : Nat) (e : Bucket) (i : Nat) : State :=
  let n := Nat.min 64 (e.count - 64 * i)
  let loc := words32 n (s.physRead (e.loc + 256 * i) (4 * n))
  let inc := words32 n (s.physRead (e.land + 256 * i) (4 * n))
  let out := if e.role = roleFirst then loc else if e.role = roleSole then loc.map nanDefault else (List.range n).map (fun j => chainAdd32 (inc.getD j 0) (loc.getD j 0))
  let last := decide (i + 1 = streamLen e)
  let bs := out.flatMap (leBytes 4)
  let s := if e.role = roleOwner ∨ e.role = roleSole then s.physWrite 0xFF (e.result + 256 * i) bs else s.chainFlit e b tyChain i last bs
  let s := s.chainTally e (countBits32 out)
  if last then s.bucketReduced b else s

/-- The local records of a sparse bucket, skipped ones left out (R386), from record `p` on, at most `n` of them read. -/
def State.sparseLocal (s : State) (e : Bucket) : List (Nat × Nat) :=
  let n := leNat (s.physRead e.loc 8)
  ((List.range n).map (fun i => (leNat (s.physRead (e.loc + 8 + 8 * i) 4), leNat (s.physRead (e.loc + 12 + 8 * i) 4)))).filter
    (fun r => r.1 != 0xFFFFFFFF)

/-- Strictly ascending indices below COUNT (R386, R388). -/
def sparseOk (count : Nat) : List (Nat × Nat) → Bool
  | [] => true
  | [a] => decide (a.1 < count)
  | a :: b :: t => decide (a.1 < b.1) && decide (a.1 < count) && sparseOk count (b :: t)

/-- Merge the running sum and the local list in ascending index order (R386); without `done` only up to where the incoming list is known. Answers the merged records and what is left of each list. `fuel`: records left. -/
def sparseMerge (fin : Bool) : Nat → List (Nat × Nat) → List (Nat × Nat) → List (Nat × Nat) → List (Nat × Nat) × List (Nat × Nat) × List (Nat × Nat)
  | 0, i, l, acc => (acc, i, l)
  | n + 1, i, l, acc =>
    match i, l with
    | [], l => if fin then (acc ++ l, [], []) else (acc, [], l)
    | a :: i', [] => sparseMerge fin n i' [] (acc ++ [a])
    | a :: i', c :: l' =>
      if a.1 < c.1 then sparseMerge fin n i' (c :: l') (acc ++ [a])
      else if c.1 < a.1 then sparseMerge fin n (a :: i') l' (acc ++ [c])
      else sparseMerge fin n i' l' (acc ++ [(a.1, chainAdd32 a.2 c.2)])

/-- The bytes of sparse records. -/
def sparseBytes (l : List (Nat × Nat)) : List Byte := l.flatMap (fun r => leBytes 4 r.1 ++ leBytes 4 r.2)

/-- Send the whole flits that the kept records fill; with `fin` the final one too, marked LAST (R386). `fuel` flits at most. -/
def State.sparseSend (s : State) (e : Bucket) (b : Nat) (fin : Bool) : Nat → Nat → List (Nat × Nat) → State × Nat × List (Nat × Nat)
  | 0, idx, l => (s, idx, l)
  | n + 1, idx, l =>
    if 32 < l.length then (s.chainFlit e b tyChain idx false (sparseBytes (l.take 32))).sparseSend e b fin n (idx + 1) (l.drop 32)
    else if fin then (s.chainFlit e b tyChain idx true (sparseBytes l), idx + 1, [])
    else (s, idx, l)

/-- Process flit `i` of a sparse bucket (R381, R386, R388). -/
def State.chainSparse (s : State) (b : Nat) (e : Bucket) (i : Nat) : State :=
  let loc := s.sparseLocal e
  let x := s.bkt b
  let (len, lastIn) := if e.role = roleFirst ∨ e.role = roleSole then (0, true) else (Tab.get none x.landed i).getD (0, true)
  let inc := (List.range (len / 8)).map (fun j => (leNat (s.physRead (e.land + 256 * i + 8 * j) 4), leNat (s.physRead (e.land + 256 * i + 8 * j + 4) 4)))
  if !sparseOk e.count loc then s.bucketFail b causeOrder
  else if e.role = roleOwner ∨ e.role = roleSole then
    -- the whole result before the first incoming record; then each incoming record into its element
    let find := fun (j : Nat) => (loc.find? (fun r => r.1 == j)).map Prod.snd
    let s := if i = 0 then s.physWrite 0xFF e.result ((List.range e.count).flatMap (fun j => leBytes 4 ((find j).getD 0))) else s
    let s := inc.foldl (fun s r =>
      if r.1 < e.count then
        s.physWrite 0xFF (e.result + 4 * r.1) (leBytes 4 (match find r.1 with | some c => chainAdd32 r.2 c | none => r.2))
      else s) s
    if lastIn then
      let s := s.chainTally e (countBits32 (words32 e.count (s.physRead e.result (4 * e.count))))
      s.bucketReduced b
    else s
  else
    let (m, i', l') := sparseMerge lastIn (x.carryIn.length + inc.length + loc.length + 1) (x.carryIn ++ inc) (loc.drop x.locPos) []
    let all := x.carry ++ m
    if e.cap < 32 * x.outIdx + all.length then s.bucketFail b causeCap
    else
      let (s, idx, left) := s.sparseSend e b lastIn (all.length / 32 + 2) x.outIdx all
      let s := s.chainTally e (countBits32 (m.map Prod.snd))
      let y := s.bkt b
      let s := s.setBkt b { y with outIdx := idx, carry := left, carryIn := i', locPos := loc.length - l'.length }
      if lastIn then s.bucketReduced b else s

/-- What processing flit `i` reads besides the entry: local contribution, landed flit, scales (R378, R382, R384, R386). -/
def chainRanges (e : Bucket) (i : Nat) : List (Nat × Nat) :=
  let land := if e.role = roleFirst ∨ e.role = roleSole then [] else [(e.land + 256 * i, 256)]
  if e.kind = 0 then (e.loc + 256 * i, 4 * Nat.min 64 (e.count - 64 * i)) :: land
  else if e.kind = kSparse then (e.loc, 8 + 8 * Nat.min e.count 65536) :: land
  else
    let (nb, _, _) := chLayout (kindElem e.kind)
    let n := Nat.min (perFlit e.kind) (e.count - perFlit e.kind * i)
    [(e.loc + i * perFlit e.kind * (kindElem e.kind).bits / 8, ceilDiv (n * (kindElem e.kind).bits) 8), (e.lscale + i * nb, ceilDiv n 32)] ++
      (if e.role = roleFirst then [(e.ascale + i * nb, ceilDiv n 32)] else land)

/-- The chain unit reads memory: errors that the storage reports take effect first (R333, R334). -/
def State.chainReads (s : State) (rs : List (Nat × Nat)) : State := rs.foldl (fun s r => s.strikeMem false 0xFF r.1 r.2) s

/-- CHAIN_FLIT_PROCESS: the next flit of a posted bucket, once it has landed (R381, R383). -/
def State.chainProcess (s : State) (b : Nat) : State :=
  let e := s.bucket b
  let x := s.bkt b
  let i := x.next
  let own := e.role == roleFirst || e.role == roleSole
  if e.state ≠ bPosted ∨ s.processWaits b = true then s
  else if !s.entryOk e then s.bucketFail b causeEntry
  else if !own && (Tab.get none x.landed i).isNone then s
  else
    let s := (s.chainReads ((s.bucketAddr b, 128) :: chainRanges e i)).setBkt b { x with next := i + 1 }
    if e.kind = 0 then s.chainFp32 b e i else if e.kind = kSparse then s.chainSparse b e i else s.chainScaled b e i

/-- Parameter flit `i` with `n` bytes has been written: it is noted once, and only when it brings all its bytes of the stream (R379, R387). -/
def Bkt.returned (x : Bkt) (e : Bucket) (i n : Nat) : Bkt :=
  if x.retSeen.contains i = true ∨ n < Nat.min 256 (e.plen - 256 * i) then x else { x with retSeen := i :: x.retSeen }

/-- RETURN: a parameter flit is written and forwarded (R387), or fails its bucket (R388). -/
def State.chainReturn (s : State) (f : Flit) : State :=
  let b := flitBucket f
  let e := s.bucket b
  if e.state = bFailed then s
  else if !s.entryOk e then s.bucketFail b causeEntry
  else if f.step.toNat ≠ e.step then s.bucketFail b causeStep
  else if returnLen e ≤ flitIndex f then s.bucketFail b causeShape
  else
    let s := s.physWrite 0xFF (e.param + 256 * flitIndex f) (f.payload.take f.len)
    let s := if e.next = e.owner then s else s.chainFlit e b tyReturn (flitIndex f) f.last (f.payload.take f.len)
    (s.setBkt b ((s.bkt b).returned e (flitIndex f) (f.payload.take f.len).length)).returnDone b e

/-- BKTPOST (R379); `none` when 256 buckets are out of IDLE and the store waits. -/
def State.bktPost (s : State) (b : Nat) : Option State :=
  let e := s.bucket b
  if e.state ≠ bIdle then some (s.chainErr b causePostBusy)
  else if 256 ≤ s.dln.active.length then none
  else if !s.entryOk e then some (s.bucketFail b causeEntry)
  else some (s.setBState b bPosted)

/-- The RETURN flits of an owner from index `i` on (R387). -/
def State.returnFlits (s : State) (e : Bucket) (b : Nat) : Nat → Nat → State
  | 0, _ => s
  | n + 1, i =>
    ((s.chainReads [(e.param + 256 * i, Nat.min 256 (e.plen - 256 * i))]).chainFlit e b tyReturn i (decide (n = 0)) (s.physRead (e.param + 256 * i) (Nat.min 256 (e.plen - 256 * i)))).returnFlits e b n (i + 1)

/-- BKTPOST with RET = 1 (R379, R387): the owner starts its return; a SOLE bucket is done at once; anything else is refused. -/
def State.bktPostRet (s : State) (b : Nat) : State :=
  let e := s.bucket b
  if e.state = bReduced ∧ (e.role = roleOwner ∨ e.role = roleSole) then
    if e.role = roleSole then s.bucketDone b
    else (s.setBState b bReturning).returnFlits e b (returnLen e) 0
  else s.chainErr b causePostBusy

/-- What a BKTPOST with RET = 1 reads and writes lies in a window of a held cluster (R440): the entry, an owner's parameters, a SOLE bucket's flags. -/
def State.bktHeld (s : State) (b : Nat) : Bool :=
  let e := s.bucket b
  s.heldAny [s.bucketAddr b] || (e.state == bReduced &&
    ((e.role == roleOwner && s.heldAny [e.param, e.param + (e.plen - 1)]) || (e.role == roleSole && s.heldAny [e.flag])))

/-- A store to DLN_BKTPOST with RET = 1 takes its effect; while it reaches a held cluster's windows it waits (R440). -/
def State.bktRet (s : State) (ag b : Nat) : State :=
  if s.bktHeld b then { s with waiters := s.waiters ++ [.bucket ag b true] } else s.bktPostRet b

/-- BKTCTL with RESET = 1 (R379). -/
def State.bktReset (s : State) (b step : Nat) : State := ((s.setBStep b step).setBState b bIdle).setBkt b {}

/-- With this flit, which has left, the owner's return ends (R379): it is the die's own, and no other one of its bucket is still to leave. -/
def State.returnEnds (s : State) (f : Flit) : Bool :=
  s.unsent (flitBucket f) f && !s.dln.outq.any (s.unsent (flitBucket f)) && (s.bucket (flitBucket f)).state == bReturning

/-- The owner's last parameter flit leaves (R379), and its bucket is done; `none` while the bucket's flags lie in a window of a held cluster: the flit waits then (R440, log 86). -/
def State.returnLeft (s : State) (f : Flit) : Option State :=
  let b := flitBucket f
  if !s.returnEnds f then some s
  else if s.heldAny [s.bucketAddr b, (s.bucket b).flag] then none
  else some (s.bucketDone b)

end Sys2Proof.Machine
end

