-- ==== Sys2Proof/Machine/Mailbox.lean ====
section
/-! DEFINITION. The mailbox block (R402 to R413): channels, posts, doorbells, channel reset and the staging areas. -/

namespace Sys2Proof.Machine

/-- The channels that exist (R402). -/
def chanExists (ch : Nat) : Bool := decide (ch ≤ 40) || ch == 48 || ch == 49 || ch == 50

/-- Secure channels (R402). -/
def chanSecure (ch : Nat) : Bool := decide (48 ≤ ch)

/-- The receiver of a channel (R402). -/
def receiverOf (ch : Nat) : Nat := if ch < 40 then ch else if ch = 40 ∨ ch = 49 then 41 else 40

/-- The senders that the DIE record names for channel 48 or 50 (R402, R427); before a record is in force, Ronair's default (log 18). -/
def State.senders (s : State) (ch : Nat) : Nat :=
  match s.mill.dieRec[if ch = 48 then 0x0C else 0x0D]? with
  | some b => b.toNat
  | none => if ch = 48 then 1 else 0x1E

/-- An agent is a permitted sender on a channel (R402). -/
def State.maySend (s : State) (ch ag : Nat) : Bool :=
  if ch < 40 then true
  else if ch = 40 then ag != 41
  else if ch = 49 then ag == 40
  else if ag = 41 then bit (s.senders ch) 0
  else if 36 ≤ ag ∧ ag < 40 then bit (s.senders ch) (ag - 35)
  else false

/-- An agent may reach a channel's registers: every agent the non-secure ones, and the secure ones that it sends or receives on (R403). -/
def State.mayReach (s : State) (ch ag : Nat) : Bool := !chanSecure ch || s.maySend ch ag || receiverOf ch == ag

/-- The staging area that an agent posts to a channel from: 0 and 1 the host's, 2 the mill controller's (R412). -/
def areaOf (ag ch : Nat) : Nat := if ag = 40 then 2 else if chanSecure ch then 1 else 0

def State.stageReg (s : State) (a off : Nat) : Word := Tab.get 0 (Tab.get [] s.stage a) off

def State.setStageReg (s : State) (a off : Nat) (w : Word) : State :=
  { s with stage := Tab.set [] s.stage a (Tab.set 0 (Tab.get [] s.stage a) off w) }

/-- MBX_HPOST.BUSY. -/
def State.stageBusy (s : State) (a : Nat) : Bool := (s.stageReg a MBX_HPOST).getLsbD 30

/-- A sender waits for the grant of a channel (R404, R406). -/
def State.postTo (s : State) (ag ch len : Nat) (msg : List Word) : State :=
  let c := s.chan ch
  s.setChan ch { c with wait := c.wait ++ [⟨ag, len, msg⟩] }

/-- The sender of the post in the slot is told that it was taken or discarded: its POST retires, or its BUSY clears (R407, R411, R412). -/
def State.signalSender (s : State) (ch : Nat) : State :=
  let c := s.chan ch
  let ag := wfld (c.reg MBX_CTL) 8 6
  let s := s.setChan ch { c with owed := false }
  if !c.owed then s
  else if ag < 40 then
    if (s.core ag).run = .posting then (s.updCore ag (fun c => { c with run := .running })).retire ag none 1 else s
  else
    let a := areaOf ag ch
    s.setStageReg a MBX_HPOST (s.stageReg a MBX_HPOST &&& ~~~0x40000000)

/-- Empty the slot: the message registers read zero and GO is 0 (R408, R411). -/
def Channel.empty (c : Channel) : Channel :=
  let c := c.setReg MBX_CTL (c.reg MBX_CTL &&& ~~~0x80000000)
  { c with regs := c.regs.filter (fun p => decide (p.1 < MBX_MSG)) }

/-- The waiting sender that the round robin chooses: the next agent number from `rr` on (R406). -/
def pickSender (rr : Nat) (w : List WaitPost) : Option WaitPost :=
  match (List.range 42).find? (fun i => w.any (fun p => p.agent == (rr + i) % 42)) with
  | some i => w.find? (fun p => p.agent == (rr + i) % 42)
  | none => none

/-- Write the messages from MBX_MSGk on (R404). -/
def Channel.writeMsgs (c : Channel) (k : Nat) : List Word → Channel
  | [] => c
  | w :: ws => (c.setReg (MBX_MSG + 8 * k) w).writeMsgs (k + 1) ws

/-- Vector of a post or doorbell on the host's channels (R417). -/
def hostVector (ch bell : Nat) : Nat := (if ch = 49 then 2 else 0) + bell

/-- POST_GRANT: a channel whose GO is 0 is granted to one waiting sender, which fills the slot (R404, R406, R408, R413). -/
def State.grant (s : State) (ch : Nat) : State :=
  let c := s.chan ch
  if c.go then s
  else
    match pickSender c.rr c.wait with
    | none => s
    | some p =>
      let d := (c.empty).writeMsgs 0 (p.msg.take p.len)
      let d := d.setReg MBX_CTL (((d.reg MBX_CTL) &&& 0x40000000) ||| BitVec.ofNat 64 (2 ^ 31 + p.agent * 256 + p.len))
      let s := s.setChan ch { d with wait := c.wait.erase p, rr := (p.agent + 1) % 42, owed := true }
      if receiverOf ch = 41 then s.msix (hostVector ch 0) else s

/-- The receiver writes 1 to GO: the slot is free and the sender is told (R407, R408). -/
def State.take (s : State) (ch : Nat) : State :=
  if (s.chan ch).go then
    let s := s.signalSender ch
    s.setChan ch (s.chan ch).empty
  else s

/-- Write a doorbell register of a channel and send the host's doorbell vector when its condition becomes true (R410, R417). -/
def State.bells (s : State) (ch : Nat) (f : Channel → Channel) : State :=
  let c := s.chan ch
  let d := f c
  let s := s.setChan ch d
  if receiverOf ch = 41 ∧ c.ringing = false ∧ d.ringing = true then s.msix (hostVector ch 1) else s

/-- Set doorbell bits (R410). -/
def State.ring (s : State) (ch : Nat) (v : Word) : State := s.bells ch (fun c => c.setReg MBX_DB ((c.reg MBX_DB ||| v) &&& 0xFFFFFFFF))

/-- Clear doorbell bits (R410). -/
def State.unring (s : State) (ch : Nat) (v : Word) : State := s.bells ch (fun c => c.setReg MBX_DB (c.reg MBX_DB &&& ~~~v))

/-- A channel reset (R411). -/
def State.chanReset (s : State) (ch : Nat) : State :=
  if chanExists ch then
    let had := (s.chan ch).go
    let s := if had then s.signalSender ch else s
    let c := (s.chan ch).empty
    let c := if had then c.setReg MBX_CTL (c.reg MBX_CTL ||| 0x40000000) else c
    let c := (c.setReg MBX_DB 0).setReg MBX_DBMASK 0xFFFFFFFF
    s.setChan ch { c with rr := 0 }
  else s

/-- A write to a register of a channel by an agent (R403, R408, R410). `v` holds the written bits, zero outside `mask`. -/
def State.writeChan (s : State) (ag ch off : Nat) (v mask : Word) : State :=
  let refuse := s.log logRefusedWrite ag (freeUnit logRefusedWrite) (0x100000 + ch * 0x100 + off) v.toNat
  if !s.mayReach ch ag then refuse
  else if off = MBX_DBSET then if s.maySend ch ag then s.ring ch v else refuse
  else if off = MBX_CTL then
    if receiverOf ch = ag then
      let s := if v.getLsbD 31 then s.take ch else s
      if v.getLsbD 30 then s.setChan ch ((s.chan ch).setReg MBX_CTL ((s.chan ch).reg MBX_CTL &&& ~~~0x40000000)) else s
    else refuse
  else if off = MBX_DB then if receiverOf ch = ag then s.unring ch v else refuse
  else if off = MBX_DBMASK then
    if receiverOf ch = ag then s.bells ch (fun c => c.setReg MBX_DBMASK ((c.reg MBX_DBMASK &&& ~~~mask) ||| v)) else refuse
  else s

/-- A read of a register of a channel by an agent (R403): MBX_DBSET is write-only, the messages are the receiver's alone, and R396 keeps a secure channel from the others. -/
def State.readChan (s : State) (ag ch off : Nat) : State × Word :=
  if !s.mayReach ch ag then (s.log logRefusedWrite ag (freeUnit logRefusedWrite) (0x100000 + ch * 0x100 + off) (freeDetail logRefusedWrite), 0)
  else if MBX_MSG ≤ off then (s, if receiverOf ch = ag then (s.chan ch).reg off else 0)
  else if off = MBX_DBSET then (s, 0)
  else (s, (s.chan ch).reg off)

/-- Sixteen staging registers of an area. -/
def State.stageMsgs (s : State) (a : Nat) : List Word := (List.range 16).map (fun k => s.stageReg a (0x80 + 8 * k))

/-- MBX_HPOST with GO = 1 posts the staging registers (R412, R405). -/
def State.hostPost (s : State) (ag a : Nat) : State :=
  let h := s.stageReg a MBX_HPOST
  let ch := wfld h 0 6
  let len := wfld h 8 5
  let ok := chanExists ch && s.maySend ch ag && decide (8 ≤ len) && decide (len ≤ 16) && (a == areaOf ag ch)
  if ok then
    (s.setStageReg a MBX_HPOST (h ||| 0x40000000)).postTo ag ch len (s.stageMsgs a)
  else s.log logPostRefused ag (freeUnit logPostRefused) (freeAddr logPostRefused) (ch + len * 256)

/-- The agent that owns a staging area: the mill controller area 2, the host areas 0 and 1 (R412). -/
def areaOwner (a : Nat) : Nat := if a = 2 then 40 else 41

/-- A write to a staging area (R412): ignored and logged while BUSY, or by an agent that does not own the area (R396 for the mill controller's; log 19 for the host's). -/
def State.writeStage (s : State) (ag a off : Nat) (v mask : Word) : State :=
  let refuse := s.log logRefusedWrite ag (freeUnit logRefusedWrite) (0x108000 + a * 0x100 + off) v.toNat
  if ag ≠ areaOwner a then refuse
  else if s.stageBusy a then refuse
  else
    match rowAt stageMap off with
    | none => s
    | some r =>
      let s := s.setStageReg a off (r.write (s.stageReg a off) v mask)
      if off = MBX_HPOST ∧ v.getLsbD 31 = true then s.hostPost ag a else s

/-- A core's own waits and posts are forgotten when the core is reset (R441): an ungranted POST is withdrawn, and the taking of a granted one signals nothing. -/
def State.forgetPosts (s : State) (k : Nat) : State :=
  { s with mbx := Tab.update {} s.mbx (fun _ c =>
      { c with wait := c.wait.filter (fun p => p.agent != k), owed := c.owed && (wfld (c.reg MBX_CTL) 8 6 != k) }) }

end Sys2Proof.Machine
end

