-- ==== Sys2Proof/Machine/VatCtl.lean ====
section
/-! DEFINITION. The vat's control: enabling and the split (R290 to R293), victims (R294), range maintenance (R295 to R297), offers and fills (R298 to R300), failing ways (R301, R302), and the posting of window commands (R303). -/

namespace Sys2Proof.Machine

def refNone : Nat := 0
def refNotInvalidated : Nat := 1
def refRangeBusy : Nat := 2
def refSplitEnabled : Nat := 3
def refSplitRange : Nat := 4
def refRangeBad : Nat := 5
def refOpEnabled : Nat := 6

/-- Set VAT_STAT.REFUSE. -/
def Vat.refuse (v : Vat) (r : Nat) : Vat := v.setReg VAT_STAT (wset (v.reg VAT_STAT) 8 4 r)

/-- Set or clear one bit of VAT_STAT. -/
def Vat.stat (v : Vat) (i : Nat) (b : Bool) : Vat := v.setReg VAT_STAT (wset (v.reg VAT_STAT) i 1 (b2n b))

def stEnabled : Nat := 0
def stInvalidated : Nat := 1
def stBusy : Nat := 2
def stDisabling : Nat := 3
def stQuiesced : Nat := 4

/-- Every command that reached the vat's slices before a disable was accepted has completed (R290). -/
def Vat.drained (v : Vat) : Bool := v.queue.all (fun p => p.2.all VCmd.late) && v.done.all (fun p => p.2.isEmpty)

/-- Every slice queue is empty, and what has run has completed (R293). -/
def Vat.emptied (v : Vat) : Bool := v.queue.all (fun p => p.2.isEmpty) && v.done.all (fun p => p.2.isEmpty)

/-- A range is a run of whole lines in stack memory (R295, R296). -/
def State.stackRange (s : State) (base size : Nat) : Bool :=
  size == 0 || (decide (s.target base = .stack) && decide (s.target (base + size - 1) = .stack))

/-- The stale lines of a range that the cluster holds modified. -/
def State.dirtyIn (s : State) (c base size : Nat) : List Nat :=
  (s.stale.map Prod.fst).filter (fun l => decide (base ≤ l * 64) && decide (l * 64 < base + size) && s.clusterDirty c l)

/-- Change every copy of a range's lines that the cluster holds (R295): the core slots' lines by `f`, the vat's by `g`. -/
def State.mapCopies (s : State) (c base size : Nat) (f : Bool → Option Bool) (g : VLine → Option VLine) : State :=
  let inr := fun (l : Nat) => decide (base ≤ l * 64) && decide (l * 64 < base + size)
  let s := { s with cores := Tab.update {} s.cores (fun k x =>
    if clusterOf k = c ∧ k < 36 then { x with l2 := Tab.mapVals none x.l2 (fun l d => if inr l then d.bind f else d) } else x) }
  s.setVat c { s.vat c with lines := Tab.mapVals none (s.vat c).lines (fun _ l => l.bind (fun x => if inr x.line then g x else some x)) }

/-- The lines of a vat's cache that are modified. -/
def Vat.dirtyLines (v : Vat) : List Nat := v.lines.filterMap (fun p => p.2.bind (fun l => if l.dirty then some l.line else none))

/-- A byte of the window of cluster `c` takes a write: its way is not disabled (R302). -/
def State.writable (s : State) (c off : Nat) : Bool := !(s.vat c).offDisabled off

/-- ZERO to the lines of a window range that lie in disabled ways is dropped and logged, line by line (R302). -/
def State.zeroDrops (s : State) (c base size : Nat) : State :=
  ((List.range (size / 64)).filter (fun i => !s.writable c (base + 64 * i))).foldl (fun t i =>
    let (sl, w, _) := (s.vat c).place (base + 64 * i)
    t.log logWayWriteDrop 0xFF (c * 32 + sl) (0x00E000000000 + c * 0x10000000 + base + 64 * i) (sl * 16 + w)) s

/-- What a range operation does to the lines (R295). -/
def State.rangeEffect (s : State) (c op base size : Nat) : State :=
  if op = 0 then
    let lost := s.dirtyIn c base size
    (lost.foldl State.loseLine s).mapCopies c base size (fun _ => none) (fun _ => none)
  else if op = 1 then
    let d := s.dirtyIn c base size
    (d.foldl State.writeBack s).mapCopies c base size (fun _ => some false) (fun l => some { l with dirty := false })
  else if op = 2 then
    let d := s.dirtyIn c base size
    (d.foldl State.writeBack s).mapCopies c base size (fun _ => none) (fun _ => none)
  else if op = 3 then
    let a := 0x00E000000000 + c * 0x10000000 + base
    let takes := fun (b : Nat) => decide (a ≤ b) && decide (b < a + size) && s.writable c (b - (a - base))
    let t := { s with mem := s.mem.filter (fun p => !takes p.1), poison := s.poison.filter (fun p => !takes (p.1 * 64)) }
    let s := t.zeroDrops c base size
    { s with cores := Tab.update {} s.cores (fun k x =>
        if clusterOf k = c ∧ k < 36 then { x with l2 := x.l2.filter (fun p => !(decide (a ≤ p.1 * 64) && decide (p.1 * 64 < a + size))) } else x) }
  else
    let d := (s.vat c).dirtyLines
    let s := d.foldl (if op = 4 then State.loseLine else State.writeBack) s
    s.setVat c { s.vat c with lines := [] }

/-- A range operation finishes in every slice (R291, R297): BUSY clears, an _ALL operation while disabled invalidates, and a disable ends. -/
def State.rangeDone (s : State) (c : Nat) : State :=
  let v := s.vat c
  match v.range with
  | none => s
  | some r =>
    let v := { v.stat stBusy false with range := none }
    let v := if r.closing then (v.stat stEnabled false).stat stDisabling false else v
    let v := if (r.op = 4 ∨ r.op = 5) ∧ v.enabled = false then v.stat stInvalidated true else v
    s.setVat c v

/-- Start an accepted range operation; one of size zero completes at once (R296). A disable that waits for the queues goes on waiting (R290). -/
def State.rangeStart (s : State) (c op base size : Nat) (closing : Bool) : State :=
  let s := s.rangeEffect c op base size
  let v := s.vat c
  let s := s.setVat c { (v.stat stBusy true).stat stDisabling closing with range := some ⟨op, base, size, closing⟩, closing := v.closing && !closing }
  if size = 0 ∧ op < 4 then s.rangeDone c else s

/-- VAT_RCTL written with GO = 1, or a command that stands for it (R295, R296). -/
def State.rangeGo (s : State) (c : Nat) : State :=
  let v := s.vat c
  let op := wfld (v.reg VAT_RCTL) 0 3
  let base := (v.reg VAT_RBASE).toNat
  let size := (v.reg VAT_RSIZE).toNat
  let no := fun (r : Nat) => s.setVat c (v.refuse r)
  if v.busy then no refRangeBusy
  else if op = 4 ∧ v.enabled = true then no refOpEnabled
  else if 6 ≤ op then no refRangeBad
  else if op < 4 ∧ (base % 64 ≠ 0 ∨ size % 64 ≠ 0) then no refRangeBad
  else if op < 3 ∧ s.stackRange base size = false then no refRangeBad
  else if op = 3 ∧ v.addrw * 0x400000 < base + size then no refRangeBad
  else (s.setVat c (v.refuse refNone)).rangeStart c op base size false

/-- A command of R295's table: VAT_RCTL.OP takes the operation and GO is written. -/
def State.rangeCmd (s : State) (c op : Nat) : State :=
  (s.setVat c ((s.vat c).setReg VAT_RCTL (BitVec.ofNat 64 op))).rangeGo c

/-- ADDRW of VAT_CFG is written (R290): handled when it changes the field. -/
def Vat.writeAddrw (v : Vat) (w : Nat) : Vat × Bool :=
  if w = v.addrw then (v, true)
  else if v.enabled then (v.refuse refSplitEnabled, false)
  else if v.busy then (v.refuse refRangeBusy, false)
  else if 16 < w then (v.refuse refSplitRange, false)
  else ((v.setReg VAT_CFG (wset (v.reg VAT_CFG) 0 5 w)).stat stInvalidated false, true)

/-- The entries of a table with keys in [base, base + size) move up by `up` or down by `down`; those that come to lie outside [base, base + room) go. -/
def moveKeys {β : Type} (t : Tab β) (base size room up down : Nat) : Tab β :=
  t.filter (fun p => decide (p.1 < base)) ++
  ((t.filter (fun p => decide (base + down ≤ p.1) && decide (p.1 < base + size))).map (fun p => (p.1 + up - down, p.2))).filter (fun p => decide (p.1 < base + room)) ++
  t.filter (fun p => decide (base + size ≤ p.1))

/-- The split of a vat changes from `old` to `new` addressable ways: every way keeps its bytes, so those of the ways that stay addressable appear at other window offsets (R284), and the ways that leave the cache hold nothing a program wrote (log 29). -/
def State.moveWindow (s : State) (c old new : Nat) : State :=
  let base := 0x00E000000000 + c * 0x10000000
  let w := 0x400000
  let inWindow := fun (l : Nat) => decide (base ≤ l * 64) && decide (l * 64 < base + 0x10000000)
  { s with
    mem := moveKeys s.mem base 0x10000000 (new * w) ((new - old) * w) ((old - new) * w),
    poison := moveKeys s.poison (base / 64) 0x400000 (new * w / 64) ((new - old) * w / 64) ((old - new) * w / 64),
    cores := Tab.update {} s.cores (fun k x => if clusterOf k = c ∧ k < 36 then { x with l2 := x.l2.filter (fun p => !inWindow p.1) } else x) }

/-- A write to ADDRW of a cluster's VAT_CFG (R290, R284). -/
def State.writeAddrw (s : State) (c w : Nat) : State × Bool :=
  let (v, a) := (s.vat c).writeAddrw w
  let s := if a = true ∧ w ≠ (s.vat c).addrw then s.moveWindow c (s.vat c).addrw w else s
  (s.setVat c v, a)

/-- ENABLE of VAT_CFG is written (R290); a disable waits for the queues, then cleans and invalidates. Of two refusals of ENABLE = 1 the model takes RANGE_BUSY first (log 29). -/
def State.writeEnable (s : State) (c : Nat) (on : Bool) : State × Bool :=
  let v := s.vat c
  if on = true ∧ v.enabled = false then
    if v.busy then (s.setVat c (v.refuse refRangeBusy), false)
    else if !v.invalidated then (s.setVat c (v.refuse refNotInvalidated), false)
    else (s.setVat c ((v.setReg VAT_CFG (wset (v.reg VAT_CFG) 8 1 1)).stat stEnabled true), true)
  else if on = false ∧ v.enabled = true then
    if v.busy then (s.setVat c (v.refuse refRangeBusy), false)
    else
      let v := v.setReg VAT_CFG (wset (v.reg VAT_CFG) 8 1 0)
      if v.drained then ((s.setVat c v).rangeStart c 5 0 0 true, true) else (s.setVat c { v with closing := true }, true)
  else (s, true)

/-- A write to VAT_CFG (R290): ADDRW first, then ENABLE; an accepted write sets REFUSE to zero. -/
def State.writeVatCfg (s : State) (c : Nat) (w : Nat) (on : Bool) : State :=
  let (s, a) := s.writeAddrw c w
  let (s, b) := s.writeEnable c on
  if a && b then s.setVat c ((s.vat c).refuse refNone) else s

/-- A closing vat whose queues have drained starts its clean-and-invalidate (R290). -/
def State.vatDrain (s : State) (c : Nat) : State :=
  if (s.vat c).closing && (s.vat c).drained && !(s.vat c).busy then s.rangeStart c 5 0 0 true else s

/-- Writing 1s to VAT_WAYDIS retires ways (R301, R302). -/
def State.writeWaydis (s : State) (c sl : Nat) (v : Word) : State :=
  (List.range 16).foldl (fun s w => if v.getLsbD w then s.disableWay c sl w else s) s

/-- VAT_CERRCTL.CLEAR (R320). -/
def State.vatCerrClear (s : State) (c : Nat) : State := s.setVat c (((s.vat c).setReg VAT_CERR0 0).setReg VAT_CERR1 0)

/-- Set counters and their OVF register to zero. -/
def clearCounters (regs : Regs) (offs : List Nat) : Regs := offs.foldl (fun r o => Tab.set 0 r o 0) regs

/-- VAT_CNTCTL.CLEAR (R323). -/
def State.vatCntClear (s : State) (c : Nat) : State :=
  s.setVat c { s.vat c with regs := clearCounters (s.vat c).regs [VAT_HITS, VAT_MISSES, VAT_DECLINED, VAT_CECNT, VAT_CNTCTL] }

-- window commands

/-- The key of the staged word `w` of a window slot. -/
def winKey (sl slot w : Nat) : Nat := (sl * 64 + slot) * 8 + w

/-- The vat command that the 64 bytes of a window slot make (R304, R305). -/
def windowCmd (ag : Nat) (bs : List Byte) : VCmd :=
  let at8 := fun o => leNat ((bs.drop o).take 8)
  { agent := ag, core := none, window := true, ftz := bit (at8 0) 10, nmode := 0, bytes := bs, home := at8 8, inAddr := at8 0x10, outAddr := at8 0x18,
    flagAddr := at8 0x20, inData := [] }

/-- The commands of a slice queue (R12, R303). -/
def Vat.q (v : Vat) (sl : Nat) : List VCmd := Tab.get [] v.queue sl

/-- VAT_CFG.ENABLE: the vat accepts commands (R290, R292). -/
def Vat.accepts (v : Vat) : Bool := (v.reg VAT_CFG).getLsbD 8

/-- Put a command at the end of a slice queue. -/
def State.vatPut (s : State) (c sl : Nat) (m : VCmd) : State :=
  let v := s.vat c
  s.setVat c { v with queue := Tab.set [] v.queue sl (v.q sl ++ [{ m with late := !v.accepts }]) }

/-- A command can enter all these slice queues of a cluster. -/
def Vat.takes (v : Vat) (sls : List Nat) : Bool := sls.all (fun sl => decide ((v.q sl).length < 64))

/-- A hollander entry, of core slot `j`, waits for queues that now have room, slice `sl` of cluster `c` among them, and came before cycle `t`, or in it and from a slot below `k` (R14, R303). -/
def State.wantsNow (s : State) (c sl k t j : Nat) (h : HolEntry) : Bool :=
  h.want.any (fun w => w.1 == c && w.2.1.contains sl && (s.vat c).takes w.2.1 && (decide (w.2.2 < t) || (decide (w.2.2 = t) && decide (j < k)))) && !s.held c

/-- A hollander goes first at a slice queue: it came earlier, or in the same cycle from a core slot below `k` (R14, R303). -/
def State.hollanderFirst (s : State) (c sl k t : Nat) : Bool := s.cores.any (fun p => p.2.eng.hol.any (s.wantsNow c sl k t p.1))

/-- A slice queue takes a window command that came in cycle `t` now: it has room, no hollander goes first, and the cluster is not held, but for the mill controller (R12, R14, R303, R322). -/
def State.windowRoom (s : State) (ag c sl t : Nat) : Bool :=
  (s.vat c).takes [sl] && !s.hollanderFirst c sl 36 t && !(s.held c && decide (ag ≠ 40))

/-- A store waits for a slice queue. -/
def Waiter.atSlice (c sl : Nat) : Waiter → Bool
  | .window _ c' sl' _ _ _ => c' == c && sl' == sl
  | .bucket _ _ _ => false

/-- A store has waited for a slice queue since before cycle `t`. -/
def Waiter.atSliceBefore (c sl t : Nat) : Waiter → Bool
  | .window _ c' sl' _ _ a => c' == c && sl' == sl && decide (a < t)
  | .bucket _ _ _ => false

/-- The agent whose store waits. -/
def Waiter.agent : Waiter → Nat
  | .window ag _ _ _ _ _ => ag
  | .bucket ag _ _ => ag

/-- COMMAND_WINDOW_POST: the store to slot offset 0x38 posts the slot's bytes, or waits, behind those that wait already (R303, R12, R13). -/
def State.windowPost (s : State) (ag c sl slot : Nat) (data : Word) : State :=
  let v := s.vat c
  let s := s.setVat c { v with win := Tab.set 0 v.win (winKey sl slot 7) data }
  let bs := (List.range 8).flatMap (fun w => leBytes 8 (Tab.get 0 (s.vat c).win (winKey sl slot w)).toNat)
  let m := windowCmd ag bs
  if s.windowRoom ag c sl s.cycle && !s.waiters.any (Waiter.atSlice c sl) then s.vatPut c sl m
  else { s with waiters := s.waiters ++ [.window ag c sl slot m s.cycle] }

/-- The control-space offset of a word of a command window slot (R303). -/
def windowOff (c sl slot w : Nat) : Nat := 0x01340000 + c * 0x400000 + sl * 0x1000 + slot * 64 + 8 * w

end Sys2Proof.Machine
end

