-- ==== Sys2Proof/Machine/Control.lean ====
section
/-! DEFINITION. The smaller control registers with effects of their own: the error log's (R470, R473), the memory controllers' (R330, R335, R342), the mover's queues (R399), the power controller's and the sensors' (R453 to R458), and the die's power state (R18, R459). -/

namespace Sys2Proof.Machine

def psBoot : Nat := 0
def psActive : Nat := 1
def psIdle : Nat := 2
def psLoft : Nat := 3
def psFailed : Nat := 4
def psTripped : Nat := 5

/-- The stored part of PWR_STATE: ACTIVE stands for RUNNING, idle or not. -/
def State.pstate (s : State) : Nat := wfld (s.clkReg PWR_STATE) 0 3

/-- The die is in state TRIPPED. -/
def State.inTrip (s : State) : Bool := s.pstate == psTripped

/-- The die has tripped: the arrays, calenders and vat engines skip every cycle (R458); so they do, and the cores, between an error that is fatal and the FATAL that follows it (R463, R467; log 57). -/
def State.tripped (s : State) : Bool := s.inTrip || s.mill.doomed

/-- The die enters a power state; it leaves TRIPPED only at power-up (R458). -/
def State.setPstate (s : State) (n : Nat) : State := if s.inTrip then s else s.setClkReg PWR_STATE (wset (s.clkReg PWR_STATE) 0 3 n)

/-- MILL_BSTAT.STATE (R431). -/
def State.bootState (s : State) : Nat := wfld (s.millReg MILL_BSTAT) 0 4

def State.setBootState (s : State) (n : Nat) : State := s.setMillReg MILL_BSTAT (wset (s.millReg MILL_BSTAT) 0 4 n)

def bsRom : Nat := 1
def bsFlash : Nat := 2
def bsImage : Nat := 3
def bsDie : Nat := 4
def bsStacks : Nat := 5
def bsMemory : Nat := 6
def bsCopy : Nat := 7
def bsClusters : Nat := 8
def bsRunning : Nat := 9
def bsFailed : Nat := 15

/-- The die is idle: every enabled core is halted and no sheet is in a headbox (R18). -/
def State.idle (s : State) : Bool :=
  (List.range 36).all (fun k => !s.slotEnabled k || (decide ((s.core k).run = .halted) && (s.core k).eng.headbox.isEmpty))

/-- The state code that PWR_STATE and the SMBus command STATE report; a loft exit is reported as ACTIVE or IDLE until it completes (R459). -/
def State.stateCode (s : State) : Nat :=
  if s.pstate = psActive ∨ (s.pstate = psLoft ∧ s.mill.loft = .exiting) then (if s.idle then psIdle else psActive) else s.pstate

/-- A core can execute: it runs, no debugger holds it, it does not wait for a remote load, and the die has not tripped (R218, R458, R476). -/
def State.canRun (s : State) (k : Nat) : Bool :=
  decide ((s.core k).run = .running) && (!(s.core k).dbgHalt || (s.core k).dbgStep) && !s.awaitsRemote k && !s.tripped

-- the error log's registers

/-- An in-band write of ERR_RPTR: ignored when below its value or above ERR_WPTR (R470). -/
def State.writeRptr (s : State) (v : Nat) : State :=
  if v < s.err.rptr ∨ s.err.wptr < v then s else s.setErr { s.err with rptr := v }

/-- ERR_CFG.CLRLOST (R473). -/
def State.clrLost (s : State) : State :=
  { s with err := { s.err with lost := 0, regs := Tab.set 0 s.err.regs ERR_CFG (Tab.get 0 s.err.regs ERR_CFG &&& ~~~0x20000) } }

/-- CORE_EVCTL.CLEAR (R474). -/
def Core.evClear (c : Core) : Core := { c with regs := clearCounters c.regs [CORE_EVCNT, CORE_EVCNT + 8, CORE_EVCNT + 16, CORE_EVCNT + 24, CORE_EVCTL] }

/-- HOL_CNTCTL.CLEAR (R281). -/
def Core.holClear (c : Core) : Core := { c with regs := clearCounters c.regs [HOL_BYTES, HOL_RAUSE, HOL_RADROP, HOL_CNTCTL] }

/-- DLN_CNTCTL.CLEAR (R393). -/
def State.dlnCntClear (s : State) : State := { s with dln := { s.dln with regs := clearCounters s.dln.regs [DLN_DROPS, DLN_CNTCTL] } }

/-- MEM_CNTCTL.CLEAR (R342). -/
def State.memCntClear (s : State) (p : Nat) : State :=
  s.setPort p { s.port p with regs := clearCounters (s.port p).regs [MEM_CE, MEM_UE, MEM_UPD, MEM_CNTCTL] }

-- refused writes

/-- Log a write that is refused or ignored with logging (R472): ADDR is the control-space offset, DETAIL the value. -/
def State.refused (s : State) (ag off v : Nat) : State := s.log logRefusedWrite ag (freeUnit logRefusedWrite) off v

/-- MEM_MAP: the mill controller's first write sets it, every other write is ignored and logged (R330). -/
def State.writeMemMap (s : State) (ag : Nat) (v mask : Word) : State :=
  if ag = 40 ∧ s.mill.mapWritten = false then
    match rowAt memMap MEM_MAP with
    | some r => { s with memRegs := Tab.set (memReset MEM_MAP) s.memRegs MEM_MAP (r.write s.memMapReg v mask), mill := { s.mill with mapWritten := true } }
    | none => s
  else s.refused ag 0x02800000 v.toNat

-- the mover's queues

/-- A write to MILL_MVQn (R399): by service core n or the mill controller; a 1 in SRAM only by the latter; GO starts the batch unless one runs. A service core's GO with a 1 in SRAM while the controller's stands starts none, for the batch would lie in the SRAM (log 43). -/
def State.writeMvq (s : State) (ag q : Nat) (v mask : Word) : State :=
  let off := MILL_MVQ + q * 0x10
  if ag ≠ 36 + q ∧ ag ≠ 40 then s.refused ag off v.toNat
  else
    let sram := v.getLsbD 5 && decide (ag ≠ 40)
    let m := (if sram then 0xFC00FFFFFFFFFFC0 else 0xFC00FFFFFFFFFFE0) &&& mask
    let s := s.setMillReg off ((s.millReg off &&& ~~~m) ||| (v &&& m))
    let s := if sram then s.refused ag off v.toNat else s
    if v.getLsbD 0 && !(sram && (s.millReg off).getLsbD 5) then
      let st := s.millReg (MILL_MVS + q * 0x10)
      if st.getLsbD 31 then s.refused ag off v.toNat
      else
        let s := s.setMillReg (MILL_MVS + q * 0x10) (st ||| 0x80000000)
        { s with mill := { s.mill with batch := Tab.set 0 s.mill.batch q (s.millReg off), moved := Tab.set 0 s.mill.moved q 0, mvElem := Tab.set 0 s.mill.mvElem q 0 } }
    else s

-- power and heat

/-- The power limit in units of 0.25 W: the least of the TDP and the cap as it acts (R454, R455). -/
def State.powerLimit (s : State) : Nat :=
  let c := wfld (s.clkReg PWR_CAP) 0 16
  let w := if c = 0 then 1000 else if c < 400 then 400 else if 1000 < c then 1000 else c
  4 * w

/-- The hottest sensor's reading in 0.125 °C (THM_TEMP). -/
def State.hottest (s : State) : Int := sext 16 (wfld (s.clkReg THM_TEMP) 0 16)

/-- THM_CFG.THROT as it acts, in 0.125 °C (R457). -/
def State.throt (s : State) : Int := 8 * (Nat.min (wfld (s.clkReg THM_CFG) 8 8) 105 : Nat)

/-- THROTTLE_UPDATE: the estimate is compared with the limit and the hottest sensor with THROT, and T moves by at most one (R17, R454): the die lowers its power by the level of cycle skipping alone, and no divider changes. -/
def State.throttle (s : State) (est : Nat) : State :=
  let s := s.setClkReg PWR_EST (BitVec.ofNat 64 est)
  let r := s.clkReg PWR_THROT
  let t := wfld r 0 6
  let t' := if s.powerLimit < est ∨ s.throt < s.hottest then Nat.min (t + 1) 45
    else if 100 * est < 95 * s.powerLimit ∧ s.hottest < s.throt - 24 then t - 1 else t
  s.setClkReg PWR_THROT (BitVec.ofNat 64 (Nat.max (wfld r 8 6) t' * 256 + t'))

/-- PWR_THROT.CLRPEAK (R453). -/
def State.clrPeak (s : State) : State := let t := wfld (s.clkReg PWR_THROT) 0 6; s.setClkReg PWR_THROT (BitVec.ofNat 64 (t * 256 + t))

/-- A write of PWR_CAP.CAP (R455). -/
def State.setCap (s : State) (v : Nat) : State := s.setClkReg PWR_CAP (BitVec.ofNat 64 (v % 2 ^ 16))

/-- Root ÷4 periods in one second (R449). -/
def second : Nat := 1700000000

/-- A warning is due: its condition is new, or a second has passed since the last one (R457). -/
def warnDue (last : Option Nat) (now : Nat) : Bool := match last with | none => true | some t => decide (t + second ≤ now)

/-- The thermal trip (R458): TRIP_N, THM_STAT.TRIP, state TRIPPED, the entry, the notice, and every core halted. It overrides a loft entry or exit (R460). -/
def State.trip (s : State) (detail : Word) : State :=
  if s.inTrip then s
  else
    let s := (s.setClkReg THM_STAT (s.clkReg THM_STAT ||| 4)).setPstate psTripped
    let s := (s.out .tripLow).log logThermTrip 0xFF (freeUnit logThermTrip) (freeAddr logThermTrip) detail.toNat
    let s := s.notice 24 s.dev clsThermal 1
    { s with
      cores := Tab.update {} s.cores (fun _ c => if c.run = .running ∨ c.run = .posting then { c with run := .halted } else c),
      mill := { s.mill with loft := .none, loftQueue := [] } }

/-- SENSOR_SAMPLE: the hottest sensor against the thresholds (R457, R458). -/
def State.sample (s : State) (sensor reading : Nat) : State :=
  let s := s.setClkReg THM_TEMP (BitVec.ofNat 64 (sensor * 2 ^ 16 + reading))
  let t := s.hottest
  let s := s.setClkReg THM_STAT (wset (s.clkReg THM_STAT) 1 1 (b2n (decide (s.throt < t))))
  let detail := Config.detail logThermWarn sensor reading
  let warn : Int := 8 * (wfld (s.clkReg THM_CFG) 0 8 : Nat)
  let s := if warn ≤ t then
      let s := s.setClkReg THM_STAT (s.clkReg THM_STAT ||| 1)
      if warnDue s.mill.warnAt s.cycle then
        let s := { s with mill := { s.mill with warnAt := some s.cycle } }
        (s.msix 5).log logThermWarn 0xFF (freeUnit logThermWarn) (freeAddr logThermWarn) detail.toNat
      else s
    else { s with mill := { s.mill with warnAt := none } }
  if 8 * 115 ≤ t then s.trip (Config.detail logThermTrip sensor reading) else s

/-- STACK_TEMP_READOUT: MEM_PSTAT.TEMP, and the stack warning (R324, R457). -/
def State.stackTemp (s : State) (p temp : Nat) : State :=
  let s := s.setPort p ((s.port p).setReg MEM_PSTAT (wset ((s.port p).reg MEM_PSTAT) 8 8 temp))
  let thr := wfld (s.clkReg THM_CFG) 16 8
  let hot := (List.range 8).any (fun p => decide (thr ≤ wfld ((s.port p).reg MEM_PSTAT) 8 8))
  if thr ≤ temp then
    let s := s.setClkReg THM_STAT (s.clkReg THM_STAT ||| 8)
    if warnDue s.mill.swarnAt s.cycle then
      let s := { s with mill := { s.mill with swarnAt := some s.cycle } }
      (s.msix 5).log logStackWarn 0xFF p (freeAddr logStackWarn) temp
    else s
  else if hot then s else { s with mill := { s.mill with swarnAt := none } }

/-- Scrub reads a granule in its stack: `ecc` as the command states it, and an error that the storage has to report (R333 to R335). -/
def State.scrubRead (s : State) (pa : Nat) (ecc : Ecc) : State :=
  let (h, rest) := takeUpsets (fun l => decide (l = .stack (pa / 64))) s.upsets []
  h.foldl (fun s x => s.stackEcc pa x.2 1) (State.stackEcc { s with upsets := rest } pa ecc 1)

/-- The map names the port: its granules have physical addresses (R329). -/
def State.portUsed (s : State) (p : Nat) : Bool := !s.ways4 || (List.range 4).any (fun k => wfld s.memMapReg (4 * k) 3 == p)

/-- Scrub reads a granule of a port that the map does not name: it counts and logs what it finds as elsewhere; the granule has no physical address, and ADDR is free (log 14). -/
def State.scrubDark (s : State) (p : Nat) (ecc : Ecc) : State :=
  let pa := (Config.logAddr (2 ^ 17 + p)).toNat
  match ecc with
  | .clean => s
  | .corrected => (s.errAddr p pa false).bumpPort p 0 1
  | .uncorrectable => s.portUe p pa logStackUe 1
  | .parity => s.portUe p pa logStackParity (Config.detail logStackParity pa 0).toNat

/-- Patrol scrub reads the port's next granule, and steps on in ascending stack offset (R335). -/
def State.scrubStep (s : State) (p : Nat) (ecc : Ecc) : State :=
  let q := s.port p
  let s := if s.portUsed p then s.scrubRead (s.addrOf p (q.scrub * 64)) ecc else s.scrubDark p ecc
  let q := s.port p
  s.setPort p { q with scrub := if 96 * 2 ^ 30 ≤ (q.scrub + 1) * 64 then 0 else q.scrub + 1 }

/-- The port carries traffic and its patrol scrub runs (R325, R335). -/
def Port.scrubs (q : Port) : Bool := decide (wfld (q.reg MEM_SCRUB) 0 8 ≠ 0) && !(q.reg MEM_PSTAT).getLsbD 1

/-- A period of the root clock divided by four passes: CLK_CYCLE counts from the release of RESET_N (R449). -/
def tick (s : State) : State := if s.powered then s.setClkReg CLK_CYCLE (s.clkReg CLK_CYCLE + 1) else s

end Sys2Proof.Machine
end

