-- ==== Sys2Proof/Machine/Xlat.lean ====
section
/-! DEFINITION. Address translation (R343 to R358): extents, translation caches, the walk with its accessed and dirty bits, permissions and guards. -/

namespace Sys2Proof.Machine

/-- What an access does (R352). -/
inductive AccKind where
  | load
  | store
  | fetch
deriving DecidableEq, Repr

/-- How a translation is made: for an access that is performed; in the two halves of one that may still come to nothing, its walk first, which sets no D bit, and then, when it is performed, the D bit (R349); for a probe that sets no bit (R355); for a check that changes nothing before an access is performed; or for a wet descriptor, which waits where a bit would have to be set (R232). -/
inductive XMode where
  | act
  | read
  | set
  | probe
  | check
  | wet
deriving DecidableEq, Repr

/-- The walk reads its tables. -/
def XMode.reads : XMode → Bool
  | .act => true
  | .read => true
  | .set => false
  | .probe => true
  | .check => false
  | .wet => true

/-- The translation counts its walks (R474). -/
def XMode.counts : XMode → Bool
  | .act => true
  | .read => true
  | .set => false
  | .probe => true
  | .check => false
  | .wet => true

/-- The translation sets the A bit and fills the caches. -/
def XMode.fills : XMode → Bool
  | .act => true
  | .read => true
  | .set => true
  | .probe => false
  | .check => false
  | .wet => true

/-- How a translation ends: physical address and effective memory type, a fault's CORE_ECAUSE.SUB, or not yet: for a bit that a wet walk may not set, or for a table in a held window (R440). -/
inductive XRes where
  | ok (pa mt : Nat)
  | fault (sub : Nat)
  | later
deriving DecidableEq, Repr

def kindNomap : Nat := 1
def kindRsvd : Nat := 2
def kindRange : Nat := 3
def kindPerm : Nat := 4
def kindSxg : Nat := 5
def kindSag : Nat := 6
def kindWalkdev : Nat := 7
def kindRegion : Nat := 8
def kindPoison : Nat := 9

/-- CORE_ECAUSE.SUB of a translation cause (R354). -/
def mkSub (k : AccKind) (ext : Bool) (level kind : Nat) : Nat := b2n (k = .store) * 128 + b2n ext * 64 + level * 16 + kind

/-- The permission check of R352: none when permitted, else the KIND. -/
def permCheck (guard : Word) (k : AccKind) (user u x w r : Bool) : Option Nat :=
  let has := match k with | .fetch => x | .load => r | .store => w
  if !has || (user && !u) then some kindPerm
  else if !user && u then
    match k with
    | .fetch => if guard.getLsbD 0 then some kindSxg else none
    | _ => if guard.getLsbD 1 then some kindSag else none
  else none

/-- The stronger of the translation's type and the range's floor (R351). -/
def State.effType (s : State) (mt pa : Nat) : Nat := Nat.max mt (s.typeFloor pa)

/-- The checks that follow a translation: a fetch from what is not cacheable raises REGION whatever its permissions (R353); then R352. -/
def State.finish (s : State) (guard : Word) (k : AccKind) (user ext : Bool) (level mt pa : Nat) (u x w r : Bool) : XRes :=
  if k = .fetch ∧ s.effType mt pa ≠ 0 then .fault (mkSub k ext 0 kindRegion)
  else
    match permCheck guard k user u x w r with
    | some kd => .fault (mkSub k ext level kd)
    | none => .ok pa (s.effType mt pa)

/-- CORE_TCTL.VBITS as it acts (R344). -/
def vbitsOf (tctl : Word) : Nat := let n := wfld tctl 8 6; if n < 40 ∨ 56 < n then 56 else n

/-- The lowest-numbered extent that matches (R345). -/
def extFind (c : Core) (v : Nat) : Option Nat :=
  (List.range 8).find? (fun n =>
    let p := c.actReg (CORE_EXT + n * 0x20 + 16)
    let base := (c.actReg (CORE_EXT + n * 0x20)).toNat
    p.getLsbD 0 && decide (base ≤ v) && decide (v - base < (c.actReg (CORE_EXT + n * 0x20 + 8)).toNat * 2 ^ 21))

/-- Translate through extent `n` (R345, R347). -/
def State.extXlat (s : State) (c : Core) (n v : Nat) (k : AccKind) (user : Bool) : XRes :=
  let p := c.actReg (CORE_EXT + n * 0x20 + 16)
  let base := (c.actReg (CORE_EXT + n * 0x20)).toNat
  let mt := wfld p 10 2
  let pa := (wfld p 21 27 * 2 ^ 21 + (v - base)) % 2 ^ 48
  if mt = 3 ∨ (p.getLsbD 3 = true ∧ p.getLsbD 2 = false) then .fault (mkSub k true 0 kindRsvd)
  else s.finish (c.actReg CORE_GUARD) k user true 0 mt pa (p.getLsbD 5) (p.getLsbD 4) (p.getLsbD 3) (p.getLsbD 2)

/-- The bytes that a leaf at a level maps (R346). -/
def pageSize (level : Nat) : Nat := 2 ^ (12 + 9 * (3 - level))

/-- The level whose leaf, or group of leaves, has this size. -/
def levelOf (size : Nat) : Nat := if 2 ^ 30 ≤ size then 1 else if 2 ^ 21 ≤ size then 2 else 3

/-- A cached leaf matches an address under an ASID (R344, R356). -/
def TlbEntry.hits (t : TlbEntry) (asid v : Nat) : Bool :=
  (t.glob || t.asid == asid) && decide (t.va ≤ v) && decide (v - t.va < t.size)

/-- How a walk ends: a leaf, with the address and the value of its table entry and the level; a fault; or a wait for a held window (R440). -/
inductive WRes where
  | leaf (addr ent level : Nat)
  | fault (level kind : Nat)
  | later
deriving DecidableEq, Repr

/-- A table entry can be read at this address: stack memory, or a vat window offset that reaches a byte (R350). -/
def State.walkable (s : State) (pa : Nat) : Bool :=
  match s.target pa with
  | .stack => true
  | .vat c off => (s.vat c).reaches off
  | _ => false

/-- The index of an address at a level (R346). -/
def walkIndex (vbits v level : Nat) : Nat := if level = 0 then fld v 39 (vbits - 39) else fld v (12 + 9 * (3 - level)) 9

/-- A walk of core `k` reads the entry at an address, through the core's L2 where that may hold the line (R357, R286). -/
def State.walkRead (s : State) (k a : Nat) : State :=
  let s := s.strikeMem true k a 8
  match s.target a with
  | .stack => s.cacheLoad k a false
  | .vat c _ => if isSlot k && c == clusterOf k then s.cacheLoad k a false else s
  | _ => s

/-- The context that walk-cache entries are read under: the root table's base, aligned to its size, VBITS and the ASID (R346, R356). -/
def Core.walkCtx (c : Core) : Nat × Nat × Nat :=
  let vbits := vbitsOf (c.actReg CORE_TCTL)
  let root := wfld (c.actReg CORE_TROOT) 12 36 * 4096
  (root - root % (2 ^ (vbits - 39) * 8), vbits, wfld (c.actReg CORE_TCTL) 16 16)

/-- The walk of core `k` from a level on (R346, R347, R350), with the table entries it passes, for the walk cache. `real`: its reads are made; a check makes none. `fuel` is the levels left. -/
def walkFrom (real : Bool) (k : Nat) (ctx : Nat × Nat × Nat) (v : Nat) (s : State) : Nat → Nat → Nat → List WalkEntry → State × WRes × List WalkEntry
  | 0, level, _, acc => (s, .fault level kindRsvd, acc)
  | fuel + 1, level, base, acc =>
    let a := base + walkIndex ctx.2.1 v level * 8
    if s.waitsFor k (s.target a) then (s, .later, acc)
    else if !s.walkable a then (s, .fault level kindWalkdev, acc)
    else
      let s := if real then s.walkRead k a else s
      let t := s.seenBy (isSlot k || decide (s.target a = .stack)) k
      if t.physBad a then (s, .fault level kindPoison, acc)
      else
        let e := t.mem.readLE a 8
        if !bit e 0 then (s, .fault level kindNomap, acc)
        else if bit e 1 then
          if level = 0 ∨ fld e 10 2 = 3 ∨ (bit e 3 = true ∧ bit e 2 = false) ∨ (fld e 12 36 * 4096) % pageSize level ≠ 0 then
            (s, .fault level kindRsvd, acc)
          else (s, .leaf a e level, acc)
        else if level = 3 ∨ fld e 2 10 ≠ 0 then (s, .fault level kindRsvd, acc)
        else
          let nb := fld e 12 36 * 4096
          walkFrom real k ctx v s fuel (level + 1) nb (⟨ctx.1, ctx.2.1, ctx.2.2, level, v / pageSize level, nb⟩ :: acc)

/-- The deepest table entry that the walk cache holds for an address in the context (R356). -/
def wcacheFind (c : Core) (v : Nat) : Option WalkEntry :=
  let x := c.walkCtx
  [2, 1, 0].findSome? (fun l => c.wcache.find? (fun w => w.level == l && w.key == v / pageSize l && w.root == x.1 && w.vbits == x.2.1 && w.asid == x.2.2))

/-- A whole walk of core `k` (R346): from the walk cache, or from CORE_TROOT. -/
def State.walk (s : State) (real : Bool) (k v : Nat) : State × WRes × List WalkEntry :=
  let c := s.core k
  match wcacheFind c v with
  | some w => walkFrom real k c.walkCtx v s (3 - w.level) (w.level + 1) w.base []
  | none => walkFrom real k c.walkCtx v s 4 0 c.walkCtx.1 []

/-- The bytes that a leaf maps with its group: 16 pages with CONT (R348). -/
def groupSize (ent level : Nat) : Nat := if bit ent 9 then 16 * pageSize level else pageSize level

/-- The physical address that a leaf gives an address: with CONT its ADDR without the group-index bits, plus the place in the group (R348). -/
def leafPa (ent level v : Nat) : Nat := let a := fld ent 12 36 * 4096; a - a % groupSize ent level + v % groupSize ent level

/-- The leaf as a translation cache holds it: the one page, or with `grp` the CONT group (R348, R356). -/
def leafEntry (grp : Bool) (asid v ent level : Nat) (d : Bool) : TlbEntry :=
  let n := if grp then groupSize ent level else pageSize level
  { asid := asid, glob := bit ent 8, va := v - v % n, size := n, pa := leafPa ent level (v - v % n), mt := fld ent 10 2,
    u := bit ent 5, x := bit ent 4, w := bit ent 3, r := bit ent 2, d := d }

/-- Put a leaf first in a translation cache of `n` entries (log 11). -/
def tlbPut (n : Nat) (l : List TlbEntry) (t : TlbEntry) : List TlbEntry :=
  (t :: l.filter (fun x => !(x.va == t.va && x.size == t.size && x.asid == t.asid && x.glob == t.glob))).take n

/-- The first-level cache that an access looks in: the hollander's, the L1 ITLB or the L1 DTLB (R275, R356). -/
def Core.l1tlb (c : Core) (kind : AccKind) (hol : Bool) : List TlbEntry :=
  if hol then c.htlb else match kind with | .fetch => c.itlb | _ => c.dtlb

/-- Put a leaf into the first-level cache of an access (R356). -/
def Core.fillL1 (c : Core) (kind : AccKind) (hol : Bool) (t : TlbEntry) : Core :=
  if hol then { c with htlb := tlbPut 256 c.htlb t }
  else match kind with | .fetch => { c with itlb := tlbPut 32 c.itlb t } | _ => { c with dtlb := tlbPut 64 c.dtlb t }

/-- The leaves of the L2 TLB, locked ones first (R356). -/
def Core.l2tlb (c : Core) : List TlbEntry := c.lock.filterMap Prod.snd ++ c.tlb

/-- Put a leaf into the L2 TLB, of which the locked entries take their part (R356). -/
def Core.fillL2 (c : Core) (t : TlbEntry) : Core := { c with tlb := tlbPut (2048 - (c.lock.filterMap Prod.snd).length) c.tlb t }

/-- The one page of a leaf, or of a CONT group, that covers an address: what the hollander's cache holds (R356). -/
def TlbEntry.page (t : TlbEntry) (v : Nat) : TlbEntry :=
  let n := pageSize (levelOf t.size)
  { t with va := v - v % n, size := n, pa := t.pa + (v - v % n - t.va) }

/-- Translate through the L1 and L2 caches, none where neither has a leaf that serves: a store needs one with D, but a probe sets none (R344, R349, R355, R356). An L2 hit fills the first level. -/
def State.xlatCached (s : State) (k v asid : Nat) (kind : AccKind) (user : Bool) (mode : XMode) (hol : Bool) : Option (State × XRes) :=
  let c := s.core k
  let guard := c.actReg CORE_GUARD
  let serves := fun (t : TlbEntry) => t.hits asid v && (decide (kind ≠ .store) || t.d || decide (mode = .probe))
  let res := fun (t : TlbEntry) => s.finish guard kind user false (levelOf t.size) t.mt (t.pa + (v - t.va)) t.u t.x t.w t.r
  match (c.l1tlb kind hol).find? serves with
  | some t => some (s, res t)
  | none =>
    match c.l2tlb.find? serves with
    | some t => some (if mode.fills then s.updCore k (fun c => c.fillL1 kind hol (if hol then t.page v else t)) else s, res t)
    | none => none

/-- Set the bits that an access needs in its leaf's table entry: A, and D for a store that is permitted (R349). -/
def leafBits (ent : Nat) (kind : AccKind) (ok : Bool) : Nat := ent ||| 0x40 ||| (if decide (kind = .store) && ok then 0x80 else 0)

/-- Translate by a walk (R346 to R349): it counts, sets the bits, and fills the caches, unless the mode says otherwise. A bit is set by a compare-and-update of the entry in memory: when that no longer holds what the walk read, from a copy that memory has left behind, the copies go and the walk is made again. `fuel`: walks at most. -/
def State.xlatWalks (k v asid : Nat) (kind : AccKind) (user : Bool) (mode : XMode) (hol : Bool) : Nat → State → State × XRes
  | 0, s => (s, .later)
  | fuel + 1, s =>
  let guard := (s.core k).actReg CORE_GUARD
  let s := if mode.counts then s.event k 0x09 1 else s
  match s.walk mode.reads k v with
  | (s, .later, _) => (s, .later)
  | (s, .fault level kd, _) => (s, .fault (mkSub kind false level kd))
  | (s, .leaf a ent level, acc) =>
    let r := s.finish guard kind user false level (fld ent 10 2) (leafPa ent level v) (bit ent 5) (bit ent 4) (bit ent 3) (bit ent 2)
    let ok := match r with | .ok _ _ => true | _ => false
    let new := leafBits ent kind (ok && decide (mode ≠ .read))
    if !mode.fills then (s, r)
    else if mode = .wet ∧ ok = true ∧ new ≠ ent then (s, .later)
    else if mode ≠ .wet ∧ new ≠ ent ∧ s.mem.readLE a 8 ≠ ent then State.xlatWalks k v asid kind user mode hol fuel (s.recall (a / 64))
    else
      let ent' := if mode = .wet then ent else new
      let s := if ent' ≠ ent then s.physWrite k a (leBytes 8 ent') else s
      let d := bit ent' 7
      (s.updCore k (fun c =>
        let c := if ok then (c.fillL2 (leafEntry false asid v ent level d)).fillL1 kind hol (leafEntry (!hol) asid v ent level d) else c
        { c with wcache := (acc ++ c.wcache).take 64 }), r)

/-- Translate by a walk: one more at most than the copies that differ from memory, of which each new walk loses one. -/
def State.xlatWalk (s : State) (k v asid : Nat) (kind : AccKind) (user : Bool) (mode : XMode) (hol : Bool) : State × XRes :=
  State.xlatWalks k v asid kind user mode hol ((s.core k).kept.length + (s.vat (clusterOf k)).kept.length + 1) s

/-- The L1 DTLB holds no leaf for a core's data access (event 0x08). -/
def Core.dtlbMiss (c : Core) (asid v : Nat) : Bool := !c.dtlb.any (fun t => t.hits asid v)

/-- The translation caches that an access looks in hold a leaf for its page. -/
def Core.tlbHeld (c : Core) (kind : AccKind) (hol : Bool) (asid v : Nat) : Bool := (c.l1tlb kind hol ++ c.l2tlb).any (fun t => t.hits asid v)

/-- The look-up of a page in the translation caches that hold it reads their arrays: an error there drops the entry, which is fetched again (R463). -/
def State.strikeTlb (s : State) (k v asid : Nat) (kind : AccKind) (hol : Bool) : State :=
  if (s.core k).tlbHeld kind hol asid v then s.strike (fun l => decide (l = .tlb k (v / 4096))) else s

/-- Translate one virtual address in core `k`'s active context (R343 to R353). `hol`: through the hollander's cache (R275). -/
def State.xlat (s : State) (k : Nat) (va : Word) (kind : AccKind) (user : Bool) (mode : XMode) (hol : Bool) : State × XRes :=
  let c := s.core k
  let v := va.toNat
  let tctl := c.actReg CORE_TCTL
  if !tctl.getLsbD 0 then
    if 2 ^ 48 ≤ v then (s, .fault (mkSub kind false 0 kindRange))
    else if kind = .fetch ∧ s.typeFloor v ≠ 0 then (s, .fault (mkSub kind false 0 kindRegion))
    else (s, .ok v (s.typeFloor v))
  else if 2 ^ vbitsOf tctl ≤ v then (s, .fault (mkSub kind false 0 kindRange))
  else
    match extFind c v with
    | some n => (s, s.extXlat c n v kind user)
    | none =>
      let asid := wfld tctl 16 16
      let s := if (mode = .act ∨ mode = .read) ∧ hol = false ∧ kind ≠ .fetch ∧ c.dtlbMiss asid v = true then s.event k 0x08 1 else s
      let s := if mode.reads then s.strikeTlb k v asid kind hol else s
      match s.xlatCached k v asid kind user mode hol with
      | some r => r
      | none => s.xlatWalk k v asid kind user mode hol

end Sys2Proof.Machine
end

