-- ==== Sys2Proof/Machine/CoreRegs.lean ====
section
/-! DEFINITION. A core's own registers (R205 to R207, R479): what a read returns, and what a write does, with the registers whose writes act. -/

namespace Sys2Proof.Machine

-- the engine numeric mode class (R35, R46, R200, R243)

def rselNmode : Nat := 0
def rselRng : Nat := 1
def rselSrow : Nat := 2

/-- The value that ENG_RNG takes in place of zero (R46). -/
def rngReset : Word := 0x9E3779B97F4A7C15

/-- The value that a write leaves in the writable fields of the register that RSEL selects (R200, R8, R46). -/
def ewrValue (rsel : Nat) (v : Word) : Word :=
  if rsel = rselNmode then v &&& 0x1F1D
  else if rsel = rselRng then if v = 0 then rngReset else v
  else v &&& 0x807F

/-- The offset of the register that RSEL selects. -/
def rselOff (rsel : Nat) : Nat := if rsel = rselNmode then ENG_NMODE else if rsel = rselRng then ENG_RNG else ENG_SROW

/-- The later of two writes: the one that takes effect for the later sheet, of equals the one made last. -/
def laterEwr (best : Option (Nat × Word)) (x : Nat × Word) : Option (Nat × Word) :=
  match best with
  | some b => if seqBefore x.1 b.1 then best else some x
  | none => some x

/-- The write to a register that is in force for sheet `q` and is not yet in the register (R200). -/
def Eng.ewrAt (e : Eng) (rsel q : Nat) : Option Word :=
  ((e.ewr.filter (fun x => x.2.1 == rsel && !seqBefore q x.1)).foldl (fun b x => laterEwr b (x.1, x.2.2)) none).map Prod.snd

/-- The write to a register that took effect after sheet `p` and is in force for sheet `q`. -/
def Eng.ewrAfter (e : Eng) (rsel p q : Nat) : Option Word := ({ e with ewr := e.ewr.filter (fun x => seqBefore p x.1) }).ewrAt rsel q

/-- A register of the class with a write applied: ENG_SROW keeps SEQ (R200). -/
def applyEwr (rsel : Nat) (old v : Word) : Word := if rsel = rselSrow then (old &&& ~~~0x807F) ||| v else v

/-- A register of the numeric mode class as it stands for sheet `q`. -/
def Core.modeReg (c : Core) (rsel q : Nat) : Word :=
  match c.eng.ewrAt rsel q with
  | some v => applyEwr rsel (c.reg (rselOff rsel)) v
  | none => c.reg (rselOff rsel)

/-- ENG_NMODE for sheet `q` (R35). -/
def Core.nmode (c : Core) (q : Nat) : Nat := (c.modeReg rselNmode q).toNat

/-- Bring a register up to date for sheet `q`: the writes in force by then move into it. -/
def Core.settle (c : Core) (rsel q : Nat) : Core :=
  let c := c.setReg (rselOff rsel) (c.modeReg rsel q)
  { c with eng := { c.eng with ewr := c.eng.ewr.filter (fun x => !(x.2.1 == rsel && !seqBefore q x.1)) } }

/-- Record a write that takes effect for sheet `eff` and later. Writes that took effect 1,024 sheets ago move into the registers: no sheet that old is left (R230). -/
def Core.pushEwr (c : Core) (eff rsel : Nat) (v : Word) : Core :=
  let c := { c with eng := { c.eng with ewr := c.eng.ewr ++ [(eff % 2 ^ 48, rsel, ewrValue rsel v)] } }
  let old := (c.eng.nextDry + 2 ^ 48 - 1024) % 2 ^ 48
  [rselNmode, rselRng, rselSrow].foldl (fun c r => if c.eng.ewr.any (fun x => x.2.1 == r && !seqBefore old x.1) then c.settle r old else c) c

/-- The core executes nothing: halted, or held by the mill controller. -/
def Core.stopped (c : Core) : Bool := decide (c.run = .halted) || decide (c.run = .held)

/-- A control-space write to a register of the class applies (R35): the core is halted and its headbox is empty. -/
def Core.modeWritable (c : Core) : Bool := c.stopped && c.eng.headbox.isEmpty

-- the fault record, the headbox and the summaries

/-- Sheets as DISCARD leaves them: dry ones go; wet ones keep their place in program order with no slot left to run (R238). -/
def Eng.discardSheets (e : Eng) : Eng :=
  { e with headbox := (e.headbox.filter Sheet.wet).map (fun h => { h with slots := [], gone := 0, reads := [] }) }

/-- A write of DISCARD or RESUME to ENG_FCTL (R238). -/
def Core.writeFctl (c : Core) (discard resume : Bool) : Core :=
  if !c.frecValid then c
  else if discard then ({ c with eng := c.eng.discardSheets }).clearRecord
  else if resume then c.clearRecord
  else c

/-- The descriptors of wet sheets that hold run-ahead data. -/
def Eng.aheadReads (e : Eng) : Nat := ((e.headbox.filter Sheet.wet).map (fun h => (h.reads.filter (fun r => !r.data.isEmpty)).length)).sum

/-- ENG_FCTL, with the run-ahead data that a DISCARD drops counted (HOL_RADROP). -/
def State.writeFctl (s : State) (k : Nat) (discard resume : Bool) : State :=
  let n := if (s.core k).frecValid && discard then (s.core k).eng.aheadReads else 0
  let s := s.updCore k (fun c => c.writeFctl discard resume)
  if n = 0 then s else s.bumpHol k 2 n

/-- ENG_CSUMQ.CLEAR: while the core is halted and its headbox is empty; otherwise ignored and logged. -/
def State.csumClear (s : State) (ag k : Nat) (v : Nat) : State :=
  if (s.core k).modeWritable then s.updCore k (fun c => { c with eng := { c.eng with sums := [] } })
  else s.refused ag (coreBlock k + ENG_CSUMQ) v

/-- A control-space write to ENG_NMODE, ENG_RNG or ENG_SROW (R35). -/
def State.modeWrite (s : State) (ag k rsel : Nat) (v mask : Word) : State :=
  let c := s.core k
  let q := c.eng.nextSeq
  if c.modeWritable then s.updCore k (fun c => c.pushEwr q rsel ((c.modeReg rsel q &&& ~~~mask) ||| (v &&& mask)))
  else s.refused ag (coreBlock k + rselOff rsel) v.toNat

-- the decode table

/-- The staged entry that CORE_DTAB_SEL points at. -/
def Core.dtabIndex (c : Core) : Nat := wfld (c.reg CORE_DTAB_SEL) 0 9

/-- A write to CORE_DTAB_DATA stores the entry; after a CWR, UOP moves on, 31 wrapping to 0 (R212). -/
def Core.dtabWrite (c : Core) (cwr : Bool) (v mask : Word) : Core :=
  let i := c.dtabIndex
  let m := (0x3EFFFFFFFF : Word) &&& mask
  let e := (Tab.get 0 c.dtab i &&& ~~~m) ||| (v &&& m)
  let c := { c with dtab := Tab.set 0 c.dtab i e }
  if cwr then c.setReg CORE_DTAB_SEL (wset (c.reg CORE_DTAB_SEL) 0 5 (i + 1)) else c

/-- The registers that SYNCX makes active (R241, R212). -/
def syncedReg (off : Nat) : Bool := isControlClass off || off == CORE_DTAB_SEL

/-- Every staged write becomes active (R241, R212). -/
def Core.applyStaged (c : Core) : Core :=
  { c with act := c.regs.filter (fun p => syncedReg p.1), dtabAct := c.dtab }

-- translation

/-- An invalidation request selects an entry (R360). -/
def TlbiReq.kills (r : TlbiReq) (t : TlbEntry) : Bool :=
  let covers := decide (t.va ≤ r.va * 4096) && decide (r.va * 4096 < t.va + t.size)
  if r.op = 0 then true
  else if r.op = 1 then !t.glob && t.asid == r.asid
  else if r.op = 2 then (t.glob || t.asid == r.asid) && covers
  else covers

/-- A core holds an entry that a request selects. -/
def Core.losesTo (c : Core) (r : TlbiReq) : Bool := (c.itlb ++ c.dtlb ++ c.tlb ++ c.htlb ++ c.lock.filterMap Prod.snd).any r.kills

/-- Remove what a request selects from a core's translation caches, and empty its walk cache (R360). -/
def Core.invalidate (c : Core) (r : TlbiReq) : Core :=
  { c with
    itlb := c.itlb.filter (fun t => !r.kills t)
    dtlb := c.dtlb.filter (fun t => !r.kills t)
    tlb := c.tlb.filter (fun t => !r.kills t)
    htlb := c.htlb.filter (fun t => !r.kills t)
    lock := Tab.update none c.lock (fun _ t => t.filter (fun x => !r.kills x))
    wcache := [] }

/-- Invalidate on the cores that a request of core `k` reaches (R360). -/
def State.invalidate (s : State) (k : Nat) (r : TlbiReq) : State :=
  if r.die then { s with cores := Tab.update {} s.cores (fun _ c => c.invalidate r) } else s.updCore k (fun c => c.invalidate r)

/-- The update requests at the ports and in the mesh. -/
def State.updates (s : State) : List UpdReq := s.ports.flatMap (fun p => p.2.upd ++ p.2.mesh)

/-- The sheets of a core with accesses of its engines in flight: descriptors that have moved an element or been issued and vat commands that have translated, until they complete; update requests, those of a descriptor that has faulted too; an ESAVE that has begun; and data read ahead. -/
def State.sheetsInFlight (s : State) (k : Nat) : List Nat :=
  let e := (s.core k).eng
  ((e.hol.filter (fun h => decide (h.phase = .issued) || decide (0 < h.written) || h.stage.isSome || h.want.isSome ||
      s.dln.reqs.any (fun r => r.core == k && decide (r.desc = some (h.seq, h.pos, h.idx))))).map HolEntry.seq ++
    ((s.updates.filter (fun u => u.core == k)).map UpdReq.seq ++ (if e.saving.isSome then (e.yq.take 1).map EngOp.seq else [])) ++
    (e.headbox.filter (fun h => !h.reads.isEmpty)).map Sheet.seq).eraseDups

/-- The remote requests that a core's own translations made. -/
def State.tagsInFlight (s : State) (k : Nat) : List Nat := (s.dln.reqs.filter (fun r => r.core == k && (isSlot k || r.desc.isNone))).map RemReq.tag

/-- A store of an agent waits for a queue (R12, R379). -/
def State.storeWaits (s : State) (ag : Nat) : Bool := s.waiters.any (fun w => w.agent == ag)

/-- The request with what is in flight on the cores that it takes an entry from (R360). -/
def State.tlbiFlight (s : State) (k : Nat) (r : TlbiReq) : TlbiReq :=
  let on := (s.cores.map Prod.fst).filter (fun j => (r.die || j == k) && (s.core j).losesTo r)
  { r with
    sheets := on.flatMap (fun j => (s.sheetsInFlight j).map (fun q => (j, q)))
    tags := on.flatMap s.tagsInFlight
    agents := on.filter s.storeWaits }

/-- A request to CORE_TLBI (R360): the entries go at once, and PEND reads 1 until it completes. One that finds PEND at 1 from a control-space write takes its effect at once (log 20). -/
def State.tlbiStart (s : State) (k : Nat) (r : TlbiReq) : State :=
  if (s.core k).tlbi.isSome then s.invalidate k r
  else (s.invalidate k r).updCore k (fun c => { c with tlbi := some (s.tlbiFlight k r) })

/-- Everything that used an entry the request removed has ended (R360). -/
def State.tlbiQuiet (s : State) (r : TlbiReq) : Bool :=
  r.sheets.all (fun x => !(s.sheetsInFlight x.1).contains x.2) && r.tags.all (fun t => !s.dln.reqs.any (fun q => q.tag == t)) &&
  r.agents.all (fun a => !s.storeWaits a)

/-- The request of core `k` completes, once the accesses that used its entries have (R360). -/
def State.tlbiDone (s : State) (k : Nat) : State :=
  match (s.core k).tlbi with
  | some r => if s.tlbiQuiet r then s.updCore k (fun c => { c with tlbi := none }) else s
  | none => s

/-- The request that a value written to CORE_TLBI makes. -/
def tlbiOf (v : Word) : TlbiReq := { op := wfld v 62 2, die := v.getLsbD 61, asid := wfld v 44 16, va := wfld v 0 44 }

/-- A lock's walk of a page cannot be made yet: it needs a table in the window of a held cluster (R440). -/
def State.tlockWaits (s : State) (k va : Nat) : Bool :=
  decide (va * 4096 < 2 ^ vbitsOf ((s.core k).actReg CORE_TCTL)) && decide ((s.walk false k (va * 4096)).2.1 = .later)

/-- The L2 TLB holds 2,048 leaves, its locked ones included (R356). -/
def Core.trimL2 (c : Core) : Core := { c with tlb := c.tlb.take (2048 - (c.lock.filterMap Prod.snd).length) }

/-- A lock slot that could not be filled is empty, and FAIL is 1 (R358). -/
def Core.tlockFail (c : Core) (slot : Nat) : Core :=
  { c.setReg CORE_TLOCK (c.reg CORE_TLOCK ||| 0x2000000000000000) with lock := Tab.set none c.lock slot none }

/-- The walks that fill a lock slot: the entry's accessed bit is set by compare and update, and a copy that memory no longer agrees with is given up and walked again (R349, R358). -/
def State.tlockWalks (k slot v : Nat) : Nat → State → State
  | 0, s => s.updCore k (fun c => c.tlockFail slot)
  | fuel + 1, s =>
    let s := s.event k 0x09 1
    match s.walk true k v with
    | (s, .fault _ _, _) => s.updCore k (fun c => c.tlockFail slot)
    | (s, .later, _) => s.updCore k (fun c => c.tlockFail slot)
    | (s, .leaf a ent level, acc) =>
      let new := ent ||| 0x40
      if new ≠ ent ∧ s.mem.readLE a 8 ≠ ent then State.tlockWalks k slot v fuel (s.recall (a / 64))
      else
        let s := if new ≠ ent then s.physWrite k a (leBytes 8 new) else s
        s.updCore k (fun c =>
          let t := leafEntry true (wfld (c.actReg CORE_TCTL) 16 16) v ent level (bit ent 7)
          { c.setReg CORE_TLOCK (c.reg CORE_TLOCK &&& ~~~0x2000000000000000) with
            lock := Tab.set none c.lock slot (some t), wcache := (acc ++ c.wcache).take 64 }.trimL2)

/-- Place a lock entry (R358): the walk of a load, which sets the accessed bit; a walk that faults leaves the slot empty and FAIL at 1. -/
def State.tlockWalk (s : State) (k slot va : Nat) : State :=
  if 2 ^ vbitsOf ((s.core k).actReg CORE_TCTL) ≤ va * 4096 then s.updCore k (fun c => c.tlockFail slot)
  else State.tlockWalks k slot (va * 4096) ((s.core k).kept.length + (s.vat (clusterOf k)).kept.length + 1) s

/-- OP of CORE_TLOCK acts on the slot and address as they stand after the write (R358, R479). -/
def State.tlockAct (s : State) (k op : Nat) : State :=
  let r := s.creg k CORE_TLOCK
  let slot := wfld r 48 4
  if op = 1 then s.tlockWalk k slot (wfld r 0 44)
  else if op = 2 then s.updCore k (fun c => { c with lock := Tab.set none c.lock slot none })
  else s

/-- The access that a value written to CORE_TPROBE names. -/
def tprobeKind (v : Word) : AccKind := match wfld v 62 2 with | 1 => .store | 2 => .fetch | _ => .load

/-- A probe's walk cannot be made yet: it needs a table in the window of a held cluster (R440). -/
def State.tprobeWaits (s : State) (k : Nat) (v : Word) : Bool :=
  decide ((s.xlat k (BitVec.ofNat 64 (wfld v 0 56)) (tprobeKind v) (v.getLsbD 61) .check false).2 = .later)

/-- A write to CORE_TPROBE leaves its result in CORE_TPRES (R355). -/
def State.tprobe (s : State) (k : Nat) (v : Word) : State :=
  match s.xlat k (BitVec.ofNat 64 (wfld v 0 56)) (tprobeKind v) (v.getLsbD 61) .probe false with
  | (s, .ok pa _) => s.setCreg k CORE_TPRES (BitVec.ofNat 64 (pa % 2 ^ 48))
  | (s, .fault sub) => s.setCreg k CORE_TPRES (BitVec.ofNat 64 (2 ^ 63 + sub * 2 ^ 48))
  | (s, .later) => s

-- reads

/-- The run counters of the four reams as ENG_RSTATE shows them. -/
def Eng.rstate (e : Eng) : Nat := Tab.get 0 e.runs 0 + Tab.get 0 e.runs 1 * 2 ^ 8 + Tab.get 0 e.runs 2 * 2 ^ 16 + Tab.get 0 e.runs 3 * 2 ^ 24

/-- The lock slots that hold an entry, as CORE_TLOCKV shows them. -/
def Core.tlockv (c : Core) : Nat := (List.range 16).foldl (fun n i => n + b2n (Tab.get none c.lock i).isSome * 2 ^ i) 0

/-- The hollander holds the descriptor of a remote request (R12). -/
def Eng.holds (e : Eng) (r : RemReq) : Bool := e.hol.any (fun h => decide (r.desc = some (h.seq, h.pos, h.idx)))

/-- HOL_STAT: FIDX as stored, the reads outstanding, and the descriptors held. -/
def State.holStat (s : State) (k : Nat) : Word :=
  let c := s.core k
  let reads := (s.dln.reqs.filter (fun r => r.core == k && c.eng.holds r && !r.write && r.open)).length
  c.reg HOL_STAT ||| BitVec.ofNat 64 (Nat.min reads 256 * 2 ^ 17 + c.eng.hol.length)

/-- What a read of a register of core `k` returns (R205, R207, R397). DEDUCED (log 99): ENG_NMODE, ENG_RNG and ENG_SROW read the value in force for the next sheet to dry. -/
def State.coreRead (s : State) (k off : Nat) : Word :=
  let c := s.core k
  if !isSlot k && isEngineReg off then 0
  else if off = CORE_IPEND then s.ipend k
  else if off = CORE_DTAB_DATA then Tab.get 0 c.dtab c.dtabIndex
  else if off = CORE_TLBI then if c.tlbi.isSome then 0x1000000000000000 else 0
  else if off = CORE_TLOCKV then BitVec.ofNat 64 c.tlockv
  else if off = ENG_NMODE then c.modeReg rselNmode c.eng.nextDry
  else if off = ENG_RNG then c.modeReg rselRng c.eng.nextDry
  else if off = ENG_SROW then c.modeReg rselSrow c.eng.nextDry
  else if off = ENG_CHAIN then c.reg ENG_CHAIN ||| BitVec.ofNat 64 c.eng.chainIn.length
  else if off = ENG_RSTATE then BitVec.ofNat 64 c.eng.rstate
  else if off = ENG_CSUMQ then BitVec.ofNat 64 c.eng.sums.length
  else if off = ENG_SEQ then BitVec.ofNat 64 c.eng.nextDry
  else if off = HOL_STAT then s.holStat k
  else if off = CORE_CYCLE then s.clkReg CLK_CYCLE
  else match rowAt coreMap off with | some _ => c.reg off | none => 0

-- writes

/-- A generic write of the masked bits of a register. -/
def Core.writeReg (c : Core) (off : Nat) (v mask : Word) : Core :=
  match rowAt coreMap off with
  | some r => c.setReg off (r.write (c.reg off) v mask)
  | none => c

/-- A write to a register of core `k` (R205, R207, R479): `cwr` when the core's own CWR makes it, else through control space by agent `ag`, which reaches the staged decode table, VALID included, of a stopped core alone (R212); OPC and UOP of CORE_DTAB_SEL are the pointer and no part of the table, so they take a write while the core runs (DEDUCED, log 39). `v` holds the written bits, zero outside `mask`. -/
def State.coreWrite (s : State) (cwr : Bool) (ag k off : Nat) (v mask : Word) : State :=
  if !isSlot k && isEngineReg off then s
  else if off = ENG_NMODE then s.modeWrite ag k rselNmode v mask
  else if off = ENG_RNG then s.modeWrite ag k rselRng v mask
  else if off = ENG_SROW then s.modeWrite ag k rselSrow v mask
  else if off = ENG_FCTL then s.writeFctl k (v.getLsbD 1) (v.getLsbD 0)
  else if off = ENG_CSUMQ then if v.getLsbD 31 then s.csumClear ag k v.toNat else s
  else if off = HOL_CNTCTL then if v.getLsbD 8 then s.updCore k Core.holClear else s
  else if off = CORE_EVCTL then if v.getLsbD 8 then s.updCore k Core.evClear else s
  else if off = CORE_DTAB_DATA ∨ off = CORE_DTAB_SEL then
    let open_ := cwr || (s.core k).stopped
    if off = CORE_DTAB_DATA then if open_ then s.updCore k (fun c => c.dtabWrite cwr v mask) else s
    else s.updCore k (fun c => c.writeReg off (if open_ then v else v &&& 0x1FF) (if open_ then mask else mask &&& 0x1FF))
  else if off = CORE_TLBI then s.tlbiStart k (tlbiOf v)
  else if off = CORE_TLOCK then (s.updCore k (fun c => c.writeReg off v mask)).tlockAct k (wfld v 62 2)
  else if off = CORE_TPROBE then s.tprobe k v
  else s.updCore k (fun c => c.writeReg off v mask)

end Sys2Proof.Machine
end

