-- ==== Sys2Proof/Machine/Space.lean ====
section
/-! DEFINITION. Die control space (R11, R479): which register an offset holds, what each agent reads there, and what its writes do. -/

namespace Sys2Proof.Machine

/-- What an 8-byte slot of control space holds. -/
inductive CtlSlot where
  | none
  | mill (off : Nat)
  | core (k off : Nat)
  | chan (ch off : Nat)
  | stage (a off : Nat)
  | msixTable (off : Nat)
  | msixPba
  | crst
  | clk (off : Nat)
  | err (off : Nat)
  | errEntry (n w : Nat)
  | vat (c off : Nat)
  | window (c sl slot w : Nat)
  | dln (off : Nat)
  | link (p off : Nat)
  | route (d : Nat)
  | memMap
  | port (p off : Nat)
  | hpstat
deriving DecidableEq, Repr

/-- A slot that a register map lists. -/
def inMap (m : List RegRow) (off : Nat) (x : CtlSlot) : CtlSlot := if (rowAt m off).isSome then x else .none

/-- The slots of the mill block. -/
def millSlot (o : Nat) : CtlSlot :=
  if 0x80000 ≤ o then inMap coreMap ((o - 0x80000) % 0x20000) (.core (36 + (o - 0x80000) / 0x20000) ((o - 0x80000) % 0x20000))
  else inMap millMap o (.mill o)

/-- The slots of the mailbox block. -/
def mbxSlot (o : Nat) : CtlSlot :=
  if o < 0x8000 then if chanExists (o / 0x100) then inMap chanMap (o % 0x100) (.chan (o / 0x100) (o % 0x100)) else .none
  else if o < 0x8300 then inMap stageMap (o % 0x100) (.stage ((o - 0x8000) / 0x100) (o % 0x100))
  else if 0xC000 ≤ o ∧ o < 0xC080 then .msixTable (o - 0xC000)
  else if o = 0xD000 then .msixPba
  else if o = 0xF000 then .crst
  else .none

/-- The slots of a cluster block. -/
def clusterSlot (c o : Nat) : CtlSlot :=
  if o < 0x240000 then inMap coreMap (o % 0x40000) (.core (9 * c + o / 0x40000) (o % 0x40000))
  else if 0x300000 ≤ o ∧ o < 0x340000 then inMap vatMap (o - 0x300000) (.vat c (o - 0x300000))
  else if 0x340000 ≤ o ∧ o < 0x360000 then .window c ((o - 0x340000) / 0x1000) ((o % 0x1000) / 64) (o % 64 / 8)
  else .none

/-- The slots of the Delnel block. -/
def dlnSlot (o : Nat) : CtlSlot :=
  if o < 0x10000 then inMap dlnMap o (.dln o)
  else if o < 0x10000 + 24 * 0x100 then inMap linkMap (o % 0x100) (.link ((o - 0x10000) / 0x100) (o % 0x100))
  else if 0x100000 ≤ o ∧ o < 0x104000 then .route ((o - 0x100000) / 4)
  else .none

/-- The slot at an 8-byte aligned offset of control space (R11). -/
def ctlSlot (off : Nat) : CtlSlot :=
  if off < 0x100000 then millSlot off
  else if off < 0x110000 then mbxSlot (off - 0x100000)
  else if 0x200000 ≤ off ∧ off < 0x300000 then inMap clkMap (off - 0x200000) (.clk (off - 0x200000))
  else if 0x300000 ≤ off ∧ off < 0x400000 then
    let o := off - 0x300000
    if ERR_ENTRY ≤ o ∧ o < ERR_ENTRY + 0x2000 then .errEntry ((o - ERR_ENTRY) / 32) (o % 32 / 8) else inMap errMap o (.err o)
  else if 0x1000000 ≤ off ∧ off < 0x2000000 then clusterSlot ((off - 0x1000000) / 0x400000) (off % 0x400000)
  else if 0x2000000 ≤ off ∧ off < 0x2800000 then dlnSlot (off - 0x2000000)
  else if 0x2800000 ≤ off ∧ off < 0x3000000 then
    let o := off - 0x2800000
    if o = 0 then .memMap
    else if 0x10000 ≤ o ∧ o < 0x18000 then inMap portMap (o % 0x1000) (.port ((o - 0x10000) / 0x1000) (o % 0x1000))
    else .none
  else if off = 0x3000000 then .hpstat
  else .none

/-- A map's register at an offset is 64 bits wide. -/
def wideAt (m : List RegRow) (off : Nat) : Bool := match rowAt m off with | some r => r.wide | none => false

/-- The slot holds a register of 64 bits, or bytes of its own up to the top (R479). -/
def CtlSlot.wide : CtlSlot → Bool
  | .none => false
  | .mill o => wideAt millMap o
  | .core _ o => wideAt coreMap o
  | .chan _ o => wideAt chanMap o
  | .stage _ o => wideAt stageMap o
  | .msixTable _ => true
  | .msixPba => true
  | .crst => false
  | .clk o => wideAt clkMap o
  | .err o => wideAt errMap o
  | .errEntry _ _ => true
  | .vat _ o => wideAt vatMap o
  | .window _ _ _ _ => true
  | .dln o => wideAt dlnMap o
  | .link _ o => wideAt linkMap o
  | .route _ => true
  | .memMap => false
  | .port _ o => wideAt portMap o
  | .hpstat => false

/-- The bytes of an error log entry (R471). -/
def Entry.bytes (e : Entry) : List Byte :=
  leBytes 8 e.time ++ leBytes 2 e.code ++ leBytes 1 e.agent ++ leBytes 1 e.sev ++ leBytes 2 e.count ++ leBytes 2 e.unit ++
  leBytes 8 e.addr ++ leBytes 8 e.detail

/-- An 8-byte word of a list of bytes. -/
def word8 (bs : List Byte) (w : Nat) : Word := BitVec.ofNat 64 (leNat ((bs.drop (8 * w)).take 8))

/-- The pending-bit array as a word. -/
def State.pbaWord (s : State) : Word := BitVec.ofNat 64 ((List.range 8).foldl (fun n v => n + b2n (Tab.get false s.host.pba v) * 2 ^ v) 0)

/-- PWR_STATE as it reads (R459). -/
def State.pwrState (s : State) : Word := wset (s.clkReg PWR_STATE) 0 3 s.stateCode

/-- MILL_DBG as it reads: DBGDIS is the fuse (R476). -/
def State.millDbg (s : State) : Word := s.millReg MILL_DBG ||| (if s.board.dbgdis then 2 else 0)

/-- MILL_HPSTAT as it reads: BME is the configuration space's bit. -/
def State.hpstat (s : State) : Word := Tab.get 0 s.host.regs 0 ||| (if s.host.bme then 0x200 else 0)

/-- Registers of the mill block that answer only to the mill controller (R396). -/
def millOnly (off : Nat) : Bool := off == MILL_DBG || off == MILL_STEST

/-- An agent may not read or write a slot (R396): the mill controller's registers, its staging area, and THM_CFG for all but it and the host. -/
def barred (ag : Nat) : CtlSlot → Bool
  | .mill o => millOnly o && decide (ag ≠ 40)
  | .crst => decide (ag ≠ 40)
  | .stage a _ => a == 2 && decide (ag ≠ 40)
  | .clk o => o == THM_CFG && decide (ag ≠ 40) && decide (ag ≠ 41)
  | _ => false

/-- The control-space offset of a slot's access, for the error log (R472). -/
def refusedRead (s : State) (ag off : Nat) : State := s.log logRefusedWrite ag (freeUnit logRefusedWrite) off (freeDetail logRefusedWrite)

/-- What a slot holds for an agent that may read it. -/
def State.slotRead (s : State) (ag : Nat) : CtlSlot → State × Word
  | .none => (s, 0)
  | .mill o => (s, if o = MILL_DBG then s.millDbg else s.millReg o)
  | .core k o => (s, s.coreRead k o)
  | .chan ch o => s.readChan ag ch o
  | .stage a o => (s, s.stageReg a o)
  | .msixTable o => (s, BitVec.ofNat 64 (s.host.table.readLE o 8))
  | .msixPba => (s, s.pbaWord)
  | .crst => (s, 0)
  | .clk o => (s, if o = PWR_STATE then s.pwrState else s.clkReg o)
  | .err o =>
    (s, if o = ERR_WPTR then BitVec.ofNat 64 s.err.wptr
        else if o = ERR_RPTR then BitVec.ofNat 64 s.err.rptr
        else if o = ERR_LOST then BitVec.ofNat 64 s.err.lost
        else s.errReg o)
  | .errEntry n w => (s, word8 (Tab.get {} s.err.ring n).bytes w)
  | .vat c o => (s, (s.vat c).reg o)
  | .window c sl slot w => (s, Tab.get 0 (s.vat c).win (winKey sl slot w))
  | .dln o => (s, s.dlnReg o)
  | .link p o => (s, (s.link p).reg o)
  | .route d => (s, BitVec.ofNat 64 ((Tab.get 0 s.dln.route d).toNat + (Tab.get 0 s.dln.route (d + 1)).toNat * 2 ^ 32))
  | .memMap => (s, s.memMapReg)
  | .port p o => (s, (s.port p).reg o)
  | .hpstat => (s, s.hpstat)

/-- Bits of a slot's 64-bit word that an access of `size` bytes at byte `b` of it names. -/
def accMask (b size : Nat) : Word := BitVec.ofNat 64 ((2 ^ (8 * size) - 1) * 2 ^ (8 * b))

/-- An access to a slot that holds no register (R328). -/
def State.noTarget (s : State) (ag pa w : Nat) : State := s.log logNoTarget ag (freeUnit logNoTarget) pa w

/-- The physical address of a control-space offset. -/
def ctlPa (off : Nat) : Nat := 0x00FF00000000 + off

/-- A read of 4 or 8 aligned bytes of control space (R328, R396, R479). The upper half of a 32-bit register's slot reads zero. -/
def State.ctlRead (s : State) (ag off size : Nat) : State × Nat :=
  let b := off % 8
  let slot := ctlSlot (off - b)
  if slot = .none then (s.noTarget ag (ctlPa off) 0, 0)
  else if !slot.wide && b != 0 then (s, 0)
  else if barred ag slot then (refusedRead s ag off, 0)
  else
    let (s, v) := s.slotRead ag slot
    (s, fld v.toNat (8 * b) (8 * size))

-- writes

/-- A generic write to a vat's register. -/
def State.vatRegWrite (s : State) (c off : Nat) (v mask : Word) : State :=
  match rowAt vatMap off with
  | some r => s.setVat c ((s.vat c).setReg off (r.write ((s.vat c).reg off) v mask))
  | none => s

/-- A write to a vat's register (R290, R295, R301, R320, R323). -/
def State.vatWrite (s : State) (c off : Nat) (v mask : Word) : State :=
  if off = VAT_CFG then s.writeVatCfg c (wfld v 0 5) (v.getLsbD 8)
  else if off = VAT_RCTL then
    let s := s.vatRegWrite c off v mask
    if v.getLsbD 31 then s.rangeGo c else s
  else if off = VAT_CERRCTL then if v.getLsbD 0 then s.vatCerrClear c else s
  else if off = VAT_CNTCTL then if v.getLsbD 8 then s.vatCntClear c else s
  else if VAT_WAYDIS ≤ off ∧ off < VAT_HITS then s.writeWaydis c ((off - VAT_WAYDIS) / 8) v
  else s.vatRegWrite c off v mask

/-- A store to a command window (R303): it stages its bytes, and one of 8 bytes at slot offset 0x38 posts. -/
def State.windowWrite (s : State) (ag c sl slot w : Nat) (v mask : Word) : State :=
  if w = 7 ∧ mask = 0xFFFFFFFFFFFFFFFF then s.windowPost ag c sl slot v
  else
    let x := s.vat c
    let k := winKey sl slot w
    s.setVat c { x with win := Tab.set 0 x.win k ((Tab.get 0 x.win k &&& ~~~mask) ||| v) }

/-- A store waits to post a bucket. -/
def Waiter.atBucket : Waiter → Bool
  | .bucket _ _ ret => !ret
  | .window _ _ _ _ _ _ => false

/-- A store to DLN_BKTPOST posts a bucket, or waits for room, behind those that wait already (R13, R379). -/
def State.bktWrite (s : State) (ag : Nat) (v : Word) : State :=
  let b := wfld v 0 14
  if v.getLsbD 31 then s.bktRet ag b
  else if s.waiters.any Waiter.atBucket then { s with waiters := s.waiters ++ [.bucket ag b false] }
  else match s.bktPost b with
    | some s' => s'
    | none => { s with waiters := s.waiters ++ [.bucket ag b false] }

/-- A write to DLN_FCCLOSE frees a HELD record (R392). -/
def State.fcClose (s : State) (r : Nat) : State :=
  if r ≤ 64 ∧ s.fcState r = 2 then (s.setDlnReg (DLN_FCREC + r * 0x20) 0).setDlnReg (DLN_FCREC + r * 0x20 + 8) 0 else s

/-- A generic write to a register of the Delnel block. -/
def State.dlnRegWrite (s : State) (off : Nat) (v mask : Word) : State :=
  match rowAt dlnMap off with
  | some r => s.setDlnReg off (r.write (s.dlnReg off) v mask)
  | none => s

/-- A write to the Delnel block (R374 to R393). DLN_ID is the mill controller's, before release. -/
def State.dlnWrite (s : State) (ag off : Nat) (v mask : Word) : State :=
  if off = DLN_ID then
    if ag = 40 ∧ s.bootState < bsRunning then s.dlnRegWrite off v mask else s.refused ag (0x02000000 + off) v.toNat
  else if off = DLN_BKTPOST then s.bktWrite ag v
  else if off = DLN_BKTCTL then if v.getLsbD 31 then s.bktReset (wfld v 0 14) (wfld v 14 16) else s
  else if off = DLN_CERRCTL then if v.getLsbD 0 then s.setDlnReg DLN_CERR0 0 else s
  else if off = DLN_CNTCTL then if v.getLsbD 8 then s.dlnCntClear else s
  else if off = DLN_FCCLOSE then s.fcClose (wfld v 0 7)
  else s.dlnRegWrite off v mask

/-- A write to a port's ROLE: a change takes the port down, and a port with role FABRIC or NODE trains again; in loft it stays DOWN until the exit (R393, R462). -/
def State.writeRole (s : State) (p role : Nat) : State :=
  if role = (s.link p).role then s
  else
    let s := (s.setLink p ((s.link p).setReg DLN_PCFG (BitVec.ofNat 64 role))).stopPort p lsDown false false
    if (role = 1 ∨ role = 2) ∧ s.pstate ≠ psLoft then s.startTraining p else s

/-- One route table entry, single-copy atomic (R370). -/
def State.routeSet (s : State) (d : Nat) (v : Half) : State := { s with dln := { s.dln with route := Tab.set 0 s.dln.route d (v &&& routeMask.setWidth 32) } }

/-- A write to one or two consecutive route table entries (R479). -/
def State.routeWrite (s : State) (d : Nat) (v mask : Word) : State :=
  let s := if mask.getLsbD 0 then s.routeSet d (v.setWidth 32) else s
  if mask.getLsbD 32 then s.routeSet (d + 1) ((v >>> 32).setWidth 32) else s

/-- A write to the MSI-X table: message address, data and vector control's mask bit (log 17). -/
def State.msixTableWrite (s : State) (off : Nat) (v mask : Word) : State :=
  let m := mask &&& (if off % 16 = 8 then 0x1FFFFFFFF else 0xFFFFFFFFFFFFFFFC)
  let old := BitVec.ofNat 64 (s.host.table.readLE off 8)
  State.msixFlush { s with host := { s.host with table := s.host.table.writeLE off 8 (((old &&& ~~~m) ||| (v &&& m)).toNat) } }

/-- A generic write to the clock block. -/
def State.clkRegWrite (s : State) (off : Nat) (v mask : Word) : State :=
  match rowAt clkMap off with
  | some r => s.setClkReg off (r.write (s.clkReg off) v mask)
  | none => s

/-- A write to the clock block (R449, R453 to R457); the dividers of CLK_CFG take none while the die runs (R17). PWR_CAP and PWR_LOFTCFG take the writes of the mill controller and the host. -/
def State.clkWrite (s : State) (ag off : Nat) (v mask : Word) : State :=
  if off = CLK_CFG then
    if ag = 40 ∧ s.bootState = bsDie ∧ s.mill.clkSet = false then
      let s := s.clkRegWrite off v mask
      { s with mill := { s.mill with clkSet := true } }
    else s.refused ag (0x200000 + off) v.toNat
  else if off = PWR_THROT then if v.getLsbD 31 then s.clrPeak else s
  else if off = PWR_CAP ∨ off = PWR_LOFTCFG then if ag = 40 ∨ ag = 41 then s.clkRegWrite off v mask else s
  else s.clkRegWrite off v mask

/-- A write to the error block (R470, R473). -/
def State.errWrite (s : State) (off : Nat) (v mask : Word) : State :=
  if off = ERR_RPTR then s.writeRptr ((BitVec.ofNat 64 s.err.rptr &&& ~~~mask) ||| v).toNat
  else
    match rowAt errMap off with
    | some r =>
      let s := if r.rw = 0 then s else s.setErrReg off (r.write (s.errReg off) v mask)
      if off = ERR_CFG ∧ v.getLsbD 31 = true then s.clrLost else s
    | none => s

/-- MILL_DBG.UNLOCK: never sets once DBGDIS is blown (R476). -/
def State.writeDbg (s : State) (v mask : Word) : State :=
  if mask.getLsbD 0 then s.setMillReg MILL_DBG (if v.getLsbD 0 && !s.board.dbgdis then 1 else 0) else s

/-- A write to the mill block's own registers (R399, R401, R446, R476). -/
def State.millWrite (s : State) (ag off : Nat) (v mask : Word) : State :=
  if off = MILL_DBG then s.writeDbg v mask
  else if 0x100 ≤ off ∧ off < 0x140 ∧ off % 16 = 0 then s.writeMvq ag ((off - 0x100) / 16) v mask
  else match rowAt millMap off with
    | some r => if r.rw = 0 ∧ r.w1c = 0 then s else s.setMillReg off (r.write (s.millReg off) v mask)
    | none => s

/-- A generic write to a stack port's register. -/
def State.portRegWrite (s : State) (p off : Nat) (v mask : Word) : State :=
  match rowAt portMap off with
  | some r => s.setPort p ((s.port p).setReg off (r.write ((s.port p).reg off) v mask))
  | none => s

/-- A write to a slot by an agent that may write it. `v` is zero outside `mask`. -/
def State.slotWrite (s : State) (ag : Nat) (v mask : Word) : CtlSlot → State
  | .none => s
  | .mill o => s.millWrite ag o v mask
  | .core k o => s.coreWrite false ag k o v mask
  | .chan ch o => s.writeChan ag ch o v mask
  | .stage a o => s.writeStage ag a o v mask
  | .msixTable o => s.msixTableWrite o v mask
  | .msixPba => s
  | .crst => s.chanReset (wfld v 0 6)
  | .clk o => s.clkWrite ag o v mask
  | .err o => s.errWrite o v mask
  | .errEntry _ _ => s
  | .vat c o => s.vatWrite c o v mask
  | .window c sl slot w => s.windowWrite ag c sl slot w v mask
  | .dln o => s.dlnWrite ag o v mask
  | .link p o => if o = DLN_PCFG then s.writeRole p (wfld v 0 2) else s
  | .route d => s.routeWrite d v mask
  | .memMap => s.writeMemMap ag v mask
  | .port p o => if o = MEM_CNTCTL then if v.getLsbD 8 then s.memCntClear p else s else s.portRegWrite p o v mask
  | .hpstat => s

/-- A write to CORE_TLOCK or CORE_TPROBE whose walk needs a table in a held cluster's window has to wait (R440). `w` is the write, zero outside `m`. -/
def State.slotStalls (s : State) (w m : Word) : CtlSlot → Bool
  | .core k o =>
    (decide (o = CORE_TLOCK) && decide (wfld w 62 2 = 1) && s.tlockWaits k (wfld ((s.creg k o &&& ~~~m) ||| w) 0 44)) ||
    (decide (o = CORE_TPROBE) && s.tprobeWaits k w)
  | _ => false

/-- A write of control space has to wait (R440). -/
def State.ctlStalls (s : State) (off size v : Nat) : Bool :=
  let b := off % 8
  let m := accMask b size
  s.slotStalls (BitVec.ofNat 64 (v * 2 ^ (8 * b)) &&& m) m (ctlSlot (off - b))

/-- A write of 4 or 8 aligned bytes of control space (R328, R396, R479). The upper half of a 32-bit register's slot ignores it; one that has to wait changes nothing and is commanded again (R440, log 86). -/
def State.ctlWrite (s : State) (ag off size v : Nat) : State :=
  let b := off % 8
  let slot := ctlSlot (off - b)
  let m := accMask b size &&& (if slot.wide then 0xFFFFFFFFFFFFFFFF else 0xFFFFFFFF)
  let w := BitVec.ofNat 64 (v * 2 ^ (8 * b)) &&& m
  if slot = .none then s.noTarget ag (ctlPa off) 1
  else if m = 0 then s
  else if barred ag slot then s.refused ag off v
  else if s.slotStalls w m slot then s
  else s.slotWrite ag w m slot

end Sys2Proof.Machine
end

