-- ==== Sys2Proof/Machine/Access.lean ====
section
/-! DEFINITION. What a core's loads and stores do (R247, R249, R252, R259, R285, R302, R328, R351, R376, R464), and the frame around every scalar instruction: it runs, and retires, takes its exception, or waits. -/

namespace Sys2Proof.Machine

/-- How a part of an instruction ends: with a result; with a precise exception of a code, a subclass and an address (R223); waiting; or waiting for the data of remote reads that it asks for as (device, address, length) (R376). -/
inductive Res (α : Type) where
  | ok (s : State) (a : α)
  | exc (s : State) (code sub : Nat) (addr : Word)
  | wait
  | remote (s : State) (reqs : List (Nat × Nat × Nat))

/-- Go on with a result. -/
def Res.bind {α β : Type} (r : Res α) (f : State → α → Res β) : Res β :=
  match r with
  | .ok s a => f s a
  | .exc s c u a => .exc s c u a
  | .wait => .wait
  | .remote s q => .remote s q

/-- Cut `n` bytes from `a` at multiples of `g`: pieces as (address, length). -/
def chunksFrom (g : Nat) : Nat → Nat → Nat → List (Nat × Nat)
  | 0, _, _ => []
  | fuel + 1, a, n => if n = 0 then [] else let k := Nat.min n (g - a % g); (a, k) :: chunksFrom g fuel (a + k) (n - k)

def chunks (g a n : Nat) : List (Nat × Nat) := chunksFrom g (n / g + 2) a n

/-- A piece of an access after translation. -/
structure Piece where
  va : Nat
  pa : Nat
  mt : Nat
  n : Nat
deriving DecidableEq, Repr

/-- How the translation of every page piece of an access ends. -/
inductive XAll where
  | ok (ps : List Piece)
  | fault (va sub : Nat)
  | later
deriving DecidableEq, Repr

/-- Translate every page piece of an access, up to the first that faults. -/
def State.xlatAll (s : State) (k : Nat) (kind : AccKind) (user : Bool) (mode : XMode) : List (Nat × Nat) → State × XAll
  | [] => (s, .ok [])
  | (va, n) :: ps =>
    match s.xlat k (BitVec.ofNat 64 va) kind user mode false with
    | (s, .fault sub) => (s, .fault va sub)
    | (s, .later) => (s, .later)
    | (s, .ok pa mt) =>
      match s.xlatAll k kind user mode ps with
      | (s, .ok r) => (s, .ok (⟨va, pa, mt, n⟩ :: r))
      | r => r

/-- Check, with no effect, that an access may be performed: every page translates (R344 to R353). -/
def State.checkAccess (s : State) (k : Nat) (kind : AccKind) (user : Bool) (pages : List (Nat × Nat)) : XAll := (s.xlatAll k kind user .check pages).2

/-- The pieces of a translated page piece, cut at multiples of `g`. -/
def Piece.cut (g : Nat) (p : Piece) : List Piece := (chunks g p.pa p.n).map (fun (a, n) => ⟨p.va + (a - p.pa), a, p.mt, n⟩)

def Target.isFelt : Target → Bool
  | .felt _ _ => true
  | _ => false

def Target.isCtl : Target → Bool
  | .ctl _ => true
  | _ => false

/-- The access breaks R252: misaligned in a felt window or control space, or 1 or 2 bytes in control space. In a device region that R252 does not list (the aperture, a range without a target, a page of type device) a misaligned access is performed (DESIGN CHOICE, log 96). -/
def State.misaligned (s : State) (va n : Nat) (ps : List Piece) : Bool :=
  (decide (n ≤ 8 ∧ va % n ≠ 0) && ps.any (fun p => (s.target p.pa).isFelt || (s.target p.pa).isCtl)) ||
  (decide (n < 4) && ps.any (fun p => (s.target p.pa).isCtl))

/-- A core caches the line: a cacheable access to stack memory, or to its own cluster's window from a core slot (R286, R351). -/
def State.caches (s : State) (k pa mt : Nat) : Bool :=
  decide (mt = 0) &&
  (match s.target pa with
   | .stack => true
   | .vat c off => isSlot k && c == clusterOf k && (s.vat c).reaches off && !(s.vat c).offDisabled off
   | _ => false)

/-- The offset of the first of `n` bytes that carries poison. -/
def State.firstBad (s : State) (pa : Nat) : Nat → Nat → Option Nat
  | _, 0 => none
  | i, n + 1 => if s.physBad (pa + i) then some i else s.firstBad pa (i + 1) n

/-- Memory as core `k`'s access to a piece sees it: through its own L2 when it caches the piece. -/
def State.seenAt (s : State) (k : Nat) (p : Piece) : State := s.seenBy (s.caches k p.pa p.mt) k

/-- The first piece with a poisoned byte: its virtual and physical address. -/
def State.badPiece (s : State) (k : Nat) (ps : List Piece) : Option (Nat × Nat) :=
  ps.findSome? (fun p => ((s.seenAt k p).firstBad p.pa 0 p.n).map (fun i => (p.va + i, p.pa + i)))

/-- The requests that a translated page piece makes of another die: one of at most 256 bytes after the other, from its first byte on, so that a scalar access is never split (R247, R375). -/
def Piece.far (p : Piece) : List Piece := (chunks 256 0 p.n).map (fun (o, n) => ⟨p.va + o, p.pa + o, p.mt, n⟩)

/-- The pieces of an access that lie on another die, each of which is a request (R376). -/
def State.remotePieces (s : State) (ps : List Piece) : List Piece := (ps.filter (fun p => decide (s.target p.pa = .remote))).flatMap Piece.far

/-- The pieces in which an access is performed: by line, and on another die by request. -/
def State.linesOf (s : State) (ps : List Piece) : List Piece := ps.flatMap (fun p => if s.target p.pa = .remote then p.far else p.cut 64)

/-- The remote reads that a load makes: device, address, length. -/
def State.remoteReqs (s : State) (ps : List Piece) : List (Nat × Nat × Nat) :=
  (s.remotePieces ps).map (fun p => let (d, a) := s.aperture p.pa; (d, a, p.n))

/-- The remote reads of a core whose data has come. -/
def State.readsDone (s : State) (k : Nat) : List RemReq := s.dln.reqs.filter (fun r => r.core == k && r.desc.isNone && !r.write && !r.open)

/-- The request is this read. -/
def RemReq.reads (r : RemReq) (q : Nat × Nat × Nat) : Bool := r.dev == q.1 && r.addr == q.2.1 && r.len == q.2.2

/-- Take the reads of a load whose data has come, in order; none while one is missing. -/
def State.takeReads (s : State) (k : Nat) : List (Nat × Nat × Nat) → Option (State × List RemReq)
  | [] => some (s, [])
  | q :: qs =>
    match (s.readsDone k).find? (fun r => r.reads q) with
    | none => none
    | some r =>
      match (s.dropReq r.tag).takeReads k qs with
      | some (s, rs) => some (s, r :: rs)
      | none => none

/-- A read of `n` bytes of control space in 8-byte units, or the one unit it is. -/
def State.ctlReadN (s : State) (ag off n : Nat) : State × List Byte :=
  (chunks 8 off n).foldl (fun (s, bs) (a, m) => let (s, v) := s.ctlRead ag a m; (s, bs ++ leBytes m v)) (s, [])

/-- A write to control space in 8-byte units, or the one unit it is. An element of the hollander or mover may be shorter or longer than a register access: the model lets it read and write the bytes that it has, as R479 gives sizes for cores and the host only (DESIGN CHOICE, log 39). -/
def State.ctlWriteN (s : State) (ag off : Nat) (bs : List Byte) : State :=
  (chunks 8 off bs.length).foldl (fun s (a, m) => s.ctlWrite ag a m (leNat ((bs.drop (a - off)).take m))) s

/-- Load a piece that lies in one line. `rem`: data of remote reads still to use. -/
def State.loadPiece (s : State) (k : Nat) (rem : List Byte) (p : Piece) : State × List Byte × List Byte :=
  match s.target p.pa with
  | .ctl off => let (s, bs) := s.ctlReadN k off p.n; (s, bs, rem)
  | .remote => (s, rem.take p.n, rem.drop p.n)
  | _ =>
    let s := if s.caches k p.pa p.mt then s.cacheLoad k p.pa true else s
    (s.logHole k 0 p.pa p.n, (s.seenAt k p).physRead p.pa p.n, rem)

/-- Load pieces in rising address order. -/
def State.loadPieces (s : State) (k : Nat) : List Byte → List Piece → State × List Byte
  | _, [] => (s, [])
  | rem, p :: ps =>
    let (s, bs, rem) := s.loadPiece k rem p
    let (s, r) := s.loadPieces k rem ps
    (s, bs ++ r)

/-- The storage that serves the pieces of an access reports the errors that it has to report (R333, R334, R463); of the first line also what the command states. -/
def State.strikePieces (s : State) (k : Nat) (ecc : Ecc) (lines : List Piece) : State :=
  let s := match lines with | p :: _ => s.accessEcc (s.caches k p.pa p.mt) k p.pa ecc | [] => s
  lines.foldl (fun s p => s.strikeMem (s.caches k p.pa p.mt) k p.pa p.n) s

/-- The load exception of a poisoned piece, with its log entry (R464). -/
def State.poisonLoad (s : State) (k va pa : Nat) : Res (List Byte) :=
  .exc (s.log logPoisonConsumed k (freeUnit logPoisonConsumed) pa va) excLoad (mkSub .load false 0 kindPoison) (BitVec.ofNat 64 va)

/-- The part of a load that follows its checks: remote reads, errors, and the bytes. -/
def State.loadLines (s : State) (k : Nat) (ecc : Ecc) (ps : List Piece) : Res (List Byte) :=
  let lines := s.linesOf ps
  let reqs := s.remoteReqs ps
  match s.takeReads k reqs with
  | none => .remote s (reqs.filter (fun q => !(s.readsDone k).any (fun r => r.reads q)))
  | some (t, rs) =>
    let t := t.strikePieces k ecc lines
    let far := ((s.remotePieces ps).zip rs).findSome? (fun x => if x.2.bad then some (x.1.va, x.1.pa) else none)
    match t.badPiece k lines, far with
    | some (a, pa), some (b, pb) => if b < a then t.poisonLoad k b pb else t.poisonLoad k a pa
    | some (a, pa), none => t.poisonLoad k a pa
    | none, some (b, pb) => t.poisonLoad k b pb
    | none, none => let (t, bs) := t.loadPieces k (rs.flatMap (fun r => r.data.getD [])) lines; .ok t bs

/-- The control-space page of a store that waits for a queue (R303, R379). -/
def Waiter.page : Waiter → Nat
  | .window _ c sl slot _ _ => windowOff c sl slot 7 / 4096
  | .bucket _ _ _ => (0x02000000 + DLN_BKTPOST) / 4096

/-- Device accesses of core `k` that are outstanding: its stores that wait for a queue (R251). -/
def State.deviceOpen (s : State) (k : Nat) : Nat := (s.waiters.filter (fun w => w.agent == k)).length

/-- A remote write of core `k` without its WRACK overlaps a piece. -/
def State.overlapsOpen (s : State) (k : Nat) (p : Piece) : Bool :=
  let (d, a) := s.aperture p.pa
  s.dln.reqs.any (fun r => r.core == k && r.desc.isNone && r.write && r.dev == d && decide (r.addr < a + p.n) && decide (a < r.addr + r.len))

/-- A piece has to wait for older accesses of core `k`: for a store to the same page of control space (R247), for the one of 16 outstanding device accesses to end (R251), and a load for an overlapping store still in the store buffer (R248). -/
def State.orderWaits (s : State) (k : Nat) (kind : AccKind) (p : Piece) : Bool :=
  match s.target p.pa with
  | .ctl off => s.waiters.any (fun w => w.agent == k && w.page == off / 4096) || decide (16 ≤ s.deviceOpen k)
  | .felt _ _ => decide (16 ≤ s.deviceOpen k)
  | .remote => decide (kind = .load) && s.overlapsOpen k p
  | _ => false

/-- A load or store of `n` bytes by core `k` is checked (R247, R252, R349, R354, R440), and then translated for good, all its tables read, with what their errors make of them (R350), before a D bit is set; `act` goes on with its pieces. -/
def State.access {α : Type} (s : State) (k va n : Nat) (kind : AccKind) (user : Bool) (act : State → List Piece → Res α) : Res α :=
  let pages := chunks 4096 va n
  let code := if kind = .store then excStore else excLoad
  let go : Unit → Res α := fun _ =>
    match s.xlatAll k kind user .read pages with
    | (_, .later) => .wait
    | (t, .fault a sub) => .exc t code sub (BitVec.ofNat 64 a)
    | (t, .ok _) =>
      match t.xlatAll k kind user .set pages with
      | (_, .later) => .wait
      | (_, .fault a sub) => .exc t code sub (BitVec.ofNat 64 a)
      | (t, .ok ps) => act t ps
  match s.checkAccess k kind user pages with
  | .later => .wait
  | .fault _ _ => go ()
  | .ok ps =>
    if s.misaligned va n ps then .exc s excAlign 0 (BitVec.ofNat 64 va)
    else if (s.linesOf ps).any (fun p => s.waitsFor k (s.target p.pa) || s.orderWaits k kind p) then .wait
    else go ()

/-- A load of `n` bytes by core `k` (R252, R464). -/
def State.coreLoad (s : State) (k va n : Nat) (user : Bool) (ecc : Ecc) : Res (List Byte) := s.access k va n .load user (fun t ps => t.loadLines k ecc ps)

/-- Store a piece that lies in one line. -/
def State.storePiece (s : State) (k : Nat) (bs : List Byte) (p : Piece) : State :=
  match s.target p.pa with
  | .ctl off => s.ctlWriteN k off bs
  | .remote => let (d, a) := s.aperture p.pa; s.sendRemote k true d a p.n bs none
  | _ =>
    if s.caches k p.pa p.mt then s.cacheStore k p.pa bs
    else (s.logHole k 1 p.pa p.n).physWriteLine k p.pa bs

/-- Store bytes to pieces in rising address order. -/
def State.storePieces (s : State) (k : Nat) : List Byte → List Piece → State
  | _, [] => s
  | bs, p :: ps => (s.storePiece k (bs.take p.n) p).storePieces k (bs.drop p.n) ps

/-- The stores of a core that have retired and are not performed: remote writes without their WRACK (R376), and those that wait for a queue (R12, R379). -/
def State.openStores (s : State) (k : Nat) : Nat :=
  (s.dln.reqs.filter (fun r => r.core == k && r.desc.isNone && r.write)).length +
  s.deviceOpen k

/-- The first piece of an uncached store to stack memory fails its parity check on the eighth repeat too: the write is dropped (R326). -/
def State.parityDrops (s : State) (k : Nat) (ecc : Ecc) (p : Piece) : Bool := decide (ecc = .parity) && decide (s.target p.pa = .stack) && !s.caches k p.pa p.mt

/-- The part of a store that follows its checks (R326, R334). A piece that replaces a whole line reads nothing. -/
def State.storeLines (s : State) (k : Nat) (bs : List Byte) (ecc : Ecc) (ps : List Piece) : Res Unit :=
  match s.linesOf ps with
  | [] => .ok s ()
  | p :: rest =>
    if s.parityDrops k ecc p then
      .ok ((s.stackUe p.pa logStackParity (Config.detail logStackParity p.pa 1).toNat).storePieces k (bs.drop p.n) rest) ()
    else
      let s := s.strikePieces k ecc ((p :: rest).filter (fun q => s.caches k q.pa q.mt || q.n != 64))
      .ok (s.storePieces k bs (p :: rest)) ()

/-- The store has no room in the store buffer: it takes a place for each remote write that it makes, and one at least (R12, log 85). -/
def State.storesFull (s : State) (k : Nat) (ps : List Piece) : Bool := decide (64 < s.openStores k + Nat.max 1 (s.remotePieces ps).length)

/-- The store is one to CORE_TLOCK or CORE_TPROBE that has to wait (R440). -/
def State.storeStalls (s : State) (bs : List Byte) (ps : List Piece) : Bool :=
  match ps with
  | [p] => match s.target p.pa with | .ctl off => decide (bs.length ≤ 8) && s.ctlStalls off bs.length (leNat bs) | _ => false
  | _ => false

/-- A store by core `k` (R252): every page is checked before a byte is written. It waits while the store buffer is full (R12). -/
def State.coreStore (s : State) (k va : Nat) (bs : List Byte) (user : Bool) (ecc : Ecc) : Res Unit :=
  s.access k va bs.length .store user (fun t ps => if t.storesFull k ps || t.storeStalls bs ps then .wait else t.storeLines k bs ecc ps)

-- the frame around an instruction

/-- Forget the remote reads of a core's squashed load. -/
def State.forgetReads (s : State) (k : Nat) : State :=
  { s with dln := { s.dln with reqs := s.dln.reqs.filter (fun r => !(r.core == k && r.desc.isNone && !r.write)) } }

/-- How the fetch of the word at the pc ends: with its translation and its line brought in; with an instruction fetch exception's SUB (R223); or not yet, in a held window (R440). -/
inductive FRes where
  | ok (s : State)
  | fault (s : State) (sub : Nat)
  | later
deriving DecidableEq, Repr

/-- Fetch the word at an address (R188, R349, R353, R356, R464). -/
def State.fetch (s : State) (k : Nat) (va : Word) : FRes :=
  match s.xlat k va .fetch (!(s.core k).sup) .act false with
  | (t, .fault sub) => .fault t sub
  | (_, .later) => .later
  | (t, .ok pa _) =>
    if t.waitsFor k (t.target pa) then .later
    else
      let t := (t.strike (fun l => decide (l = .l1i k (pa / 64)))).strikeMem (t.caches k pa 0) k pa 4
      if (t.seenBy (t.caches k pa 0) k).anyBad pa 4 then .fault (t.log logPoisonConsumed k (freeUnit logPoisonConsumed) pa va.toNat) (mkSub .fetch false 0 kindPoison)
      else .ok (if t.caches k pa 0 then t.cacheLoad k pa false else t)

/-- The frame around an instruction of core `k` (R218, R221): nothing when the core cannot run, its fetch before anything else, then the body, whose exception is taken at the instruction. A body that answers has done everything, its retirement too. -/
def State.runFrame (s : State) (k : Nat) (f : State → Res Unit) : State :=
  if !s.canRun k then s
  else
    let pc := (s.core k).pc
    match s.fetch k pc with
    | .later => s
    | .fault t sub => (t.forgetReads k).takeException k excIfetch sub false pc pc none
    | .ok t =>
      let t := t.strike (fun l => decide (l = .logic k))
      if t.tripped then t
      else match f t with
      | .ok t _ => t
      | .exc t code sub addr => (t.forgetReads k).takeException k code sub false addr pc none
      | .wait => s
      | .remote t reqs => reqs.foldl (fun t (d, a, n) => t.sendRemote k false d a n [] none) t

/-- Core `k` runs one instruction whose body answers where it goes on (none: after its own word), and retires it (R218). -/
def State.runInstr (s : State) (k : Nat) (f : State → Res (Option Word)) : State :=
  s.runFrame k (fun s => (f s).bind (fun t target => .ok (t.retire k target 1) ()))

/-- An instruction of core `k` (log 3). -/
def State.instr (s : State) (k : Nat) (f : State → Res (Option Word)) : Out :=
  if k < 40 then .next (s.runInstr k f) else .fault .noSuchUnit

/-- An exception of the instruction itself, which has changed nothing. -/
def raise {α : Type} (s : State) (code : Nat) : Res α := .exc s code 0 0

/-- A control transfer to `t` (R187): IADDR when it is not word aligned. -/
def jumpTo (s : State) (t : Word) : Res (Option Word) := if t.getLsbD 0 || t.getLsbD 1 then .exc s excIaddr 0 t else .ok s (some t)

end Sys2Proof.Machine
end

