-- ==== Sys2Proof/Machine/Operands.lean ====
section
/-! DEFINITION. Operand forms: the M-format addressing modes with their register updates (R202 to R204), and the fields of the engine slots (R193 to R199). -/

namespace Sys2Proof.Machine

-- addressing modes

/-- disp13 (R202). -/
def mopDisp13 (m : MOp) : Int := sext 13 m.disp.toNat

/-- disp8 (R202). -/
def mopDisp8 (m : MOp) : Int := sext 8 m.disp.toNat

/-- The index register x (R202). -/
def mopX (m : MOp) : Nat := fld m.disp.toNat 8 5

/-- An address: the sum, wrapping at 64 bits. -/
def wrap64 (x : Int) : Nat := wrapN 64 x

/-- Base-2 logarithm of an access size. -/
def log2size (z : Nat) : Nat := Nat.log2 z

/-- The M format breaks an encoding rule: AM 6 or 7, or a disp8 in AM 5 (R202, R203). -/
def mopBad (m : MOp) : Bool := decide (6 ≤ m.am.toNat) || (decide (m.am.toNat = 5) && decide (fld m.disp.toNat 0 8 ≠ 0))

/-- The address of an access of `z` bytes (R202). -/
def mopAddr (m : MOp) (c : Core) (z : Nat) : Nat :=
  let gb := (c.greg m.b.toNat).toNat
  let gx := (c.greg (mopX m)).toNat
  match m.am.toNat with
  | 0 => wrap64 (gb + mopDisp13 m)
  | 1 => wrap64 (gb + gx * z + mopDisp8 m)
  | 2 => gb
  | 3 => wrap64 (gb + mopDisp13 m)
  | _ => wrap64 (gb + gx % 2 ^ 32)

/-- The offset after one step of AM 4 (R202). -/
def moduloStep (gx : Nat) (d : Int) : Nat :=
  let len := gx / 2 ^ 32
  ((((gx % 2 ^ 32 : Nat) : Int) + d) % ((if len = 0 then 2 ^ 32 else len : Nat) : Int)).toNat

/-- The offset after one step of AM 5 (R203). -/
def bitrevStep (gx z : Nat) : Nat :=
  let b0 := fld gx 32 5
  let b := if 25 ≤ b0 then 24 else b0
  let s := log2size z
  let j := (gx % 2 ^ 32 / 2 ^ s) % 2 ^ b
  if b = 0 then gx % 2 ^ 32 else (revBits b ((revBits b j + 1) % 2 ^ b) * 2 ^ s) % 2 ^ 32

/-- The register update of an access: the register and its new value, when the mode has one (R202, R203). -/
def mopUpdate (m : MOp) (c : Core) (z : Nat) : Option (Nat × Word) :=
  let gb := (c.greg m.b.toNat).toNat
  let gx := (c.greg (mopX m)).toNat
  match m.am.toNat with
  | 2 => some (m.b.toNat, BitVec.ofNat 64 (wrap64 (gb + mopDisp13 m)))
  | 3 => some (m.b.toNat, BitVec.ofNat 64 (wrap64 (gb + mopDisp13 m)))
  | 4 => some (mopX m, BitVec.ofNat 64 (gx / 2 ^ 32 * 2 ^ 32 + moduloStep gx (mopDisp8 m)))
  | 5 => some (mopX m, BitVec.ofNat 64 (gx / 2 ^ 32 * 2 ^ 32 + bitrevStep gx z))
  | _ => none

/-- Write the update of an access (R202). -/
def Core.applyUpdate (c : Core) (u : Option (Nat × Word)) : Core :=
  match u with
  | some (r, v) => c.setG r v
  | none => c

/-- Write a floating value of `w` bits into the low bits of an F register; the bits above an FP32 or FP16 value are open (log 23). -/
def Core.setFlow (c : Core) (w r v : Nat) : Core :=
  c.setF r (BitVec.ofNat 64 (if w < 64 then setFld (Config.fUpper w (c.freg r) v).toNat 0 w v else v))

-- slots

/-- A field of a slot's 64 bits. -/
def slotUnit (w : Word) : Nat := wfld w 54 3

def slotStop (w : Word) : Bool := w.getLsbD 57

/-- The operation code bits [53:52] of an H, L, M or C slot. -/
def slotOp (w : Word) : Nat := wfld w 52 2

/-- DECK or BDECK or ADECK. -/
def slotDeck (w : Word) : Nat := wfld w 28 24

/-- TILE, BTILE or ATILE. -/
def slotTile (w : Word) : Nat := wfld w 24 4

def hDreg (w : Word) : Nat := wfld w 47 5
def hNdesc (w : Word) : Nat := wfld w 42 5 + 1
def lBreg (w : Word) : Nat := wfld w 19 5
def lPreg (w : Word) : Nat := wfld w 14 5
def lSreg (w : Word) : Nat := wfld w 9 5
def mReam (w : Word) : Nat := wfld w 22 2
def mAcc (w : Word) : Bool := w.getLsbD 21
def mTotal (w : Word) : Bool := w.getLsbD 20
def mRun (w : Word) : Nat := wfld w 14 6 + 1
def mSat (w : Word) : Nat := wfld w 12 2
def mSwap (w : Word) : Bool := w.getLsbD 11
def mSrow (w : Word) : Bool := w.getLsbD 10
def mChin (w : Word) : Bool := w.getLsbD 9
def mTok (w : Word) : Bool := w.getLsbD 8
def mTally (w : Word) : Nat := wfld w 6 2
def mTreg (w : Word) : Nat := wfld w 1 5
def mBlk0 (w : Word) : Nat := wfld w 20 2
def mNblk (w : Word) : Nat := wfld w 18 2 + 1
def cDreg (w : Word) : Nat := wfld w 19 5
def cSreg0 (w : Word) : Nat := wfld w 14 5
def cSreg1 (w : Word) : Nat := wfld w 9 5
def cTally (w : Word) : Nat := wfld w 7 2
def cTreg (w : Word) : Nat := wfld w 2 5
def yOp (w : Word) : Nat := wfld w 50 4
def yGreg (w : Word) : Nat := wfld w 45 5
def yParts (w : Word) : Nat := wfld w 42 3
def yRsel (w : Word) : Nat := wfld w 40 2

/-- The bits of a slot that must be zero: fields marked Reserved, and fields its operation does not use (R190, R195 to R199). -/
def slotZeroMask (w : Word) : Word :=
  match slotUnit w with
  | 0 => 0x3FFFFFFFFFF
  | 1 => 0x1FF
  | 2 => match slotOp w with | 0 => 0xFFFFFF | 1 => 1 | _ => 0xFFFFFFF03FFFF
  | 3 => 3
  | _ => match yOp w with
    | 0 => 0x3FFFFFFFFFFFF
    | 1 => 0x3FFFFFFFFFFFF
    | 2 => 0x3FFFFFFFFFF
    | 3 => 0x1FFFFFFFFFFF
    | _ => 0x1CFFFFFFFFFF

/-- The slot carries an operation code that its unit's table marks reserved (R190). -/
def slotReserved (w : Word) : Bool :=
  match slotUnit w with
  | 0 => decide (2 ≤ slotOp w)
  | 1 => decide (2 ≤ slotOp w)
  | 2 => decide (slotOp w = 3)
  | 3 => decide (slotOp w ≠ 0)
  | _ => decide (5 ≤ yOp w)

/-- One slot breaks an encoding rule (R190). -/
def slotBad (w : Word) : Bool :=
  decide (5 ≤ slotUnit w) || slotReserved w || decide (w &&& slotZeroMask w ≠ 0) ||
  (decide (slotUnit w = 4 ∧ yOp w = 4) && decide (yRsel w = 3))

/-- Two slots of the sheet name one unit (R190). -/
def unitTwice : List Word → Bool
  | [] => false
  | w :: ws => ws.any (fun v => slotUnit v == slotUnit w) || unitTwice ws

/-- A sheet holds an encoding error (R190): a slot of its own, a unit named twice, or a last slot without the stop bit, which a word that opens no slot follows. -/
def sheetBad (slots : List Word) : Bool :=
  slots.any slotBad || unitTwice slots || (match slots.getLast? with | some w => !slotStop w | none => true)

/-- The slots can stand in one sheet (R186, R189): each opens with major opcode 0x3E, and only the last may have its stop bit set. -/
def sheetForm (slots : List Word) : Bool :=
  decide (1 ≤ slots.length) && slots.all (fun w => decide (wfld w 58 6 = 0x3E)) && (slots.dropLast).all (fun w => !slotStop w)

/-- The G registers that a slot captures, in the order in which the meanings use them (R194). -/
def slotRegs (w : Word) : List Nat :=
  match slotUnit w with
  | 0 => [hDreg w]
  | 1 => [lBreg w, lPreg w, lSreg w]
  | 2 => if slotOp w = 1 then [mTreg w] else []
  | 3 => [cDreg w, cSreg0 w, cSreg1 w, cTreg w]
  | _ => if 2 ≤ yOp w then [yGreg w] else []

end Sys2Proof.Machine
end

