-- ==== Sys2Proof/Machine/Alu.lean ====
section
/-! DEFINITION. The integer instructions (R208, R209): every operation once over both widths. -/

namespace Sys2Proof.Machine

-- the operations on w-bit words held as numbers below 2^w

/-- Arithmetic wraps (R209). -/
def aluAdd (w x y : Nat) : Nat := (x + y) % 2 ^ w
def aluSub (w x y : Nat) : Nat := (x + 2 ^ w - y) % 2 ^ w
def aluAnd (_w x y : Nat) : Nat := x &&& y
def aluOr (_w x y : Nat) : Nat := x ||| y
def aluXor (_w x y : Nat) : Nat := x ^^^ y

/-- Shifts. An amount of the width or more leaves the result open (log 22). -/
def aluSll (w x y : Nat) : Nat := if y < w then (x * 2 ^ y) % 2 ^ w else Config.longShift 0 w x y % 2 ^ w
def aluSrl (w x y : Nat) : Nat := if y < w then x / 2 ^ y else Config.longShift 1 w x y % 2 ^ w
def aluSra (w x y : Nat) : Nat := if y < w then wrapN w (sext w x / (2 ^ y : Nat)) else Config.longShift 2 w x y % 2 ^ w

def aluSlt (w x y : Nat) : Nat := b2n (decide (sext w x < sext w y))
def aluSltu (_w x y : Nat) : Nat := b2n (decide (x < y))
def aluMin (w x y : Nat) : Nat := if sext w x < sext w y then x else y
def aluMax (w x y : Nat) : Nat := if sext w x < sext w y then y else x
def aluMinu (_w x y : Nat) : Nat := Nat.min x y
def aluMaxu (_w x y : Nat) : Nat := Nat.max x y
def aluMul (w x y : Nat) : Nat := (x * y) % 2 ^ w
def aluMulh (w x y : Nat) : Nat := wrapN w (sext w x * sext w y / (2 ^ w : Nat))
def aluMulhu (w x y : Nat) : Nat := x * y / 2 ^ w

/-- Division truncates; by zero it gives all ones, and the most negative value over −1 wraps to itself (R209). -/
def aluDiv (w x y : Nat) : Nat := if y = 0 then 2 ^ w - 1 else wrapN w (Int.tdiv (sext w x) (sext w y))
def aluDivu (w x y : Nat) : Nat := if y = 0 then 2 ^ w - 1 else x / y

/-- The remainder takes the dividend's sign; by zero it is the dividend (R209). -/
def aluRem (w x y : Nat) : Nat := if y = 0 then x else wrapN w (Int.tmod (sext w x) (sext w y))
def aluRemu (_w x y : Nat) : Nat := if y = 0 then x else x % y

/-- Count of leading zeros. -/
def aluClz (w x _y : Nat) : Nat := if x = 0 then w else w - 1 - Nat.log2 x

/-- Population count. -/
def popCount : Nat → Nat → Nat
  | 0, _ => 0
  | n + 1, x => x % 2 + popCount n (x / 2)

def aluPopc (w x _y : Nat) : Nat := popCount w x
def aluBrev (w x _y : Nat) : Nat := revBits w x

/-- A result of the 64-bit or the 32-bit ALU; a 32-bit one is sign-extended from bit 31 (R208). -/
def aluResult (w32 : Bool) (f : Nat → Nat → Nat → Nat) (a b : Word) : Word :=
  if w32 then BitVec.ofInt 64 (sext 32 (f 32 (a.toNat % 2 ^ 32) (b.toNat % 2 ^ 32))) else BitVec.ofNat 64 (f 64 a.toNat b.toNat)

/-- An instruction of the integer ALU. -/
def bodyAlu (k : Nat) (w32 : Bool) (d a b : Reg) (f : Nat → Nat → Nat → Nat) (s : State) : Res (Option Word) :=
  .ok (s.setG k d (aluResult w32 f (s.greg k a) (s.greg k b))) none

/-- An instruction of one source and an immediate. -/
def bodyImm (k : Nat) (d a : Reg) (v : Nat) (f : Nat → Nat → Nat → Nat) (s : State) : Res (Option Word) :=
  .ok (s.setG k d (BitVec.ofNat 64 (f 64 (s.greg k a).toNat v))) none

/-- A sign-extended imm16 as a 64-bit number. -/
def imm16s (i : BitVec 16) : Nat := wrapN 64 (sext 16 i.toNat)

/-- LIH (R208): imm16 replaces bits [16 sel + 15 : 16 sel]. -/
def bodyLih (k : Nat) (d : Reg) (sel : BitVec 2) (imm : BitVec 16) (s : State) : Res (Option Word) :=
  .ok (s.setG k d (wset (s.greg k d) (16 * sel.toNat) 16 imm.toNat)) none

def execSlli (k : Nat) (d a : Reg) (sh : BitVec 6) (s : State) : Out := s.instr k (bodyImm k d a sh.toNat aluSll)
def execSrli (k : Nat) (d a : Reg) (sh : BitVec 6) (s : State) : Out := s.instr k (bodyImm k d a sh.toNat aluSrl)
def execSrai (k : Nat) (d a : Reg) (sh : BitVec 6) (s : State) : Out := s.instr k (bodyImm k d a sh.toNat aluSra)
def execLih (k : Nat) (d : Reg) (sel : BitVec 2) (imm : BitVec 16) (s : State) : Out := s.instr k (bodyLih k d sel imm)
def execAdd (k : Nat) (w32 : Bool) (d a b : Reg) (s : State) : Out := s.instr k (bodyAlu k w32 d a b aluAdd)
def execSub (k : Nat) (w32 : Bool) (d a b : Reg) (s : State) : Out := s.instr k (bodyAlu k w32 d a b aluSub)
def execAnd (k : Nat) (w32 : Bool) (d a b : Reg) (s : State) : Out := s.instr k (bodyAlu k w32 d a b aluAnd)
def execOr (k : Nat) (w32 : Bool) (d a b : Reg) (s : State) : Out := s.instr k (bodyAlu k w32 d a b aluOr)
def execXor (k : Nat) (w32 : Bool) (d a b : Reg) (s : State) : Out := s.instr k (bodyAlu k w32 d a b aluXor)
def execSll (k : Nat) (w32 : Bool) (d a b : Reg) (s : State) : Out := s.instr k (bodyAlu k w32 d a b aluSll)
def execSrl (k : Nat) (w32 : Bool) (d a b : Reg) (s : State) : Out := s.instr k (bodyAlu k w32 d a b aluSrl)
def execSra (k : Nat) (w32 : Bool) (d a b : Reg) (s : State) : Out := s.instr k (bodyAlu k w32 d a b aluSra)
def execSlt (k : Nat) (w32 : Bool) (d a b : Reg) (s : State) : Out := s.instr k (bodyAlu k w32 d a b aluSlt)
def execSltu (k : Nat) (w32 : Bool) (d a b : Reg) (s : State) : Out := s.instr k (bodyAlu k w32 d a b aluSltu)
def execMin (k : Nat) (w32 : Bool) (d a b : Reg) (s : State) : Out := s.instr k (bodyAlu k w32 d a b aluMin)
def execMax (k : Nat) (w32 : Bool) (d a b : Reg) (s : State) : Out := s.instr k (bodyAlu k w32 d a b aluMax)
def execMinu (k : Nat) (w32 : Bool) (d a b : Reg) (s : State) : Out := s.instr k (bodyAlu k w32 d a b aluMinu)
def execMaxu (k : Nat) (w32 : Bool) (d a b : Reg) (s : State) : Out := s.instr k (bodyAlu k w32 d a b aluMaxu)
def execMul (k : Nat) (w32 : Bool) (d a b : Reg) (s : State) : Out := s.instr k (bodyAlu k w32 d a b aluMul)
def execMulh (k : Nat) (w32 : Bool) (d a b : Reg) (s : State) : Out := s.instr k (bodyAlu k w32 d a b aluMulh)
def execMulhu (k : Nat) (w32 : Bool) (d a b : Reg) (s : State) : Out := s.instr k (bodyAlu k w32 d a b aluMulhu)
def execDiv (k : Nat) (w32 : Bool) (d a b : Reg) (s : State) : Out := s.instr k (bodyAlu k w32 d a b aluDiv)
def execDivu (k : Nat) (w32 : Bool) (d a b : Reg) (s : State) : Out := s.instr k (bodyAlu k w32 d a b aluDivu)
def execRem (k : Nat) (w32 : Bool) (d a b : Reg) (s : State) : Out := s.instr k (bodyAlu k w32 d a b aluRem)
def execRemu (k : Nat) (w32 : Bool) (d a b : Reg) (s : State) : Out := s.instr k (bodyAlu k w32 d a b aluRemu)
def execClz (k : Nat) (w32 : Bool) (d a : Reg) (s : State) : Out := s.instr k (bodyAlu k w32 d a a aluClz)
def execPopc (k : Nat) (w32 : Bool) (d a : Reg) (s : State) : Out := s.instr k (bodyAlu k w32 d a a aluPopc)
def execBrev (k : Nat) (w32 : Bool) (d a : Reg) (s : State) : Out := s.instr k (bodyAlu k w32 d a a aluBrev)
def execAddi (k : Nat) (d a : Reg) (imm : BitVec 16) (s : State) : Out := s.instr k (bodyImm k d a (imm16s imm) aluAdd)
def execAndi (k : Nat) (d a : Reg) (imm : BitVec 16) (s : State) : Out := s.instr k (bodyImm k d a imm.toNat aluAnd)
def execOri (k : Nat) (d a : Reg) (imm : BitVec 16) (s : State) : Out := s.instr k (bodyImm k d a imm.toNat aluOr)
def execXori (k : Nat) (d a : Reg) (imm : BitVec 16) (s : State) : Out := s.instr k (bodyImm k d a imm.toNat aluXor)

end Sys2Proof.Machine
end

