-- ==== Sys2Proof/Machine/Fabric.lean ====
section
/-! DEFINITION. The commands of Delnel: link events (R363 to R366), the router (R371), remote requests and responses (R375 to R377), notices (R391, R392), and the chain unit (R379 to R388). -/

namespace Sys2Proof.Machine

-- ports

/-- LINK_BLOCK (R365). -/
def execLinkBlock (p : Nat) (b : LinkBlock) (s : State) : Out := guardUnit (decide (p < 24)) (s.linkBlock p b)

/-- Every flit that waits for the router: of the die itself, and of the ports' lanes. -/
def State.routerFlits (s : State) : List Flit := s.dln.outq ++ s.dln.links.flatMap (fun x => x.2.rx.flatMap Prod.snd)

/-- A flit waits for a credit of lane `vl` of port `p` (R369, R371). -/
def State.waitsOn (s : State) (p vl : Nat) (f : Flit) : Bool :=
  decide (s.routed f = .wait) && decide (s.routeOf f.dst.toNat (classOf f.typ.toNat) = some (p, vl))

/-- CREDIT_TIMEOUT (R365, R15): with flits waiting for the lane and no credit left, the port declares its partner lost. -/
def execCreditTimeout (p : Nat) (vl : BitVec 2) (s : State) : Out :=
  guardUnit (decide (p < 24))
    (if (s.link p).state = lsUp ∧ s.routerFlits.any (s.waitsOn p vl.toNat) = true then s.partnerLost p else s)

/-- PARK (R366): the port receives the command. -/
def execPark (p : Nat) (s : State) : Out := guardUnit (decide (p < 24)) (if (s.link p).state = lsUp then s.takePark p else s)

/-- The port trains: in TRAINING, in LOST, or parked when its partner starts (R365, R366). -/
def Link.training (l : Link) : Bool := l.state == lsTraining || l.state == lsLost || l.parked

/-- Credits of a port that has just trained: the partner's whole buffer, on each lane (R369). -/
def fullCredits : Tab Nat := [(0, 512), (1, 512), (2, 512), (3, 512)]

/-- LINK_TRAINING_DONE (R362, R365, R366): STATE is UP, PARKED clears, and the partner and the width are known. Fewer than four working lanes do not make a port. The receive buffers are the partner's and empty (R369). -/
def Link.trained (l : Link) (partner pport width : Nat) : Link :=
  ({ l with rx := [], nakSent := false, replayed := false, rxSeq := 0, creditDue := [], ackDue := none, nakDue := none, credits := fullCredits, lane := 0, txSeq := 0, replay := [],
            resend := [], nakSeq := 0, nakCount := 0, sinceIdle := 0, parking := false }).setReg DLN_PSTAT
    (BitVec.ofNat 64 (partner * 2 ^ 16 + pport * 2 ^ 11 + width * 2 ^ 3 + lsUp * 2))

/-- The flits that stand in a port's receive lanes. -/
def Link.received (l : Link) : List Flit := (List.range 4).flatMap (fun v => Tab.get [] l.rx v)

/-- The router takes what a port received before it trained: flits for the die are delivered, the others wait with the die's own (R13, log 83). -/
def State.takeReceived (s : State) (p : Nat) : State :=
  let fs := (s.link p).received
  { s with dln := { s.dln with
      inbox := s.dln.inbox ++ (fs.filter (fun f => decide (f.dst.toNat = s.dev))).map (fun f => (p, f)),
      outq := s.dln.outq ++ fs.filter (fun f => !decide (f.dst.toNat = s.dev)) } }

def execLinkTrainingDone (p : Nat) (partner : BitVec 12) (pport : BitVec 5) (lanes : BitVec 4) (s : State) : Out :=
  guardUnit (decide (p < 24))
    (if (s.link p).training = true ∧ 4 ≤ lanes.toNat ∧ s.pstate ≠ psLoft then
      let s := (s.recover p).takeReceived p
      s.setLink p ((s.link p).trained partner.toNat pport.toNat (if 8 ≤ lanes.toNat then 8 else 4))
    else s)

/-- LINK_TRAINING_TIMEOUT (R15): the port is marked DOWN. -/
def execLinkTrainingTimeout (p : Nat) (s : State) : Out :=
  guardUnit (decide (p < 24))
    (if (s.link p).state = lsTraining ∨ (s.link p).state = lsLost then s.setLink p ((s.link p).setState lsDown) else s)

/-- LANE_SIGNAL_LOSS (R365, R366): an UP port declares its partner lost; a parked one is not UP and declares nothing. -/
def execLaneSignalLoss (p : Nat) (s : State) : Out := guardUnit (decide (p < 24)) (if (s.link p).state = lsUp then s.partnerLost p else s.recover p)

/-- LINK_BLOCK_SEND (R363). -/
def execLinkBlockSend (p : Nat) (s : State) : Out := guardUnit (decide (p < 24)) (s.linkSend p)

/-- PARK_TIMEOUT (R366). -/
def execParkTimeout (p : Nat) (s : State) : Out := guardUnit (decide (p < 24)) (s.setLink p { s.link p with parking := false })

-- the router

/-- The flit that FLIT_ROUTE takes: the head of a port's receive lane, or the die's first flit of the lane's class that need not wait (R373). -/
def State.nextFlit (s : State) (src vl : Nat) : Option Flit :=
  if src < 24 then (Tab.get [] (s.link src).rx vl).head?
  else s.dln.outq.find? (fun f => classOf f.typ.toNat == vl / 2 && decide (s.routed f ≠ .wait))

/-- Take a flit out of where it waits; a freed place of a receive buffer is a credit to return (R369). -/
def State.takeFlit (s : State) (src vl : Nat) (f : Flit) : State :=
  if src < 24 then
    let l := s.link src
    s.setLink src { l with rx := Tab.set [] l.rx vl (Tab.get [] l.rx vl).tail, creditDue := Tab.set 0 l.creditDue vl (Tab.get 0 l.creditDue vl + 1) }
  else { s with dln := { s.dln with outq := s.dln.outq.erase f } }

/-- FLIT_ROUTE (R371): deliver, forward or drop one flit; one without a credit waits. An owner whose last parameter flit leaves ends its return (R379). -/
def State.flitRoute (s : State) (src vl : Nat) : State :=
  match s.nextFlit src vl with
  | none => s
  | some f =>
    match (s.takeFlit src vl f).route src f with
    | some t => if src = 24 then (t.returnLeft f).getD s else t
    | none => s

def execFlitRoute (src : Nat) (vl : BitVec 2) (s : State) : Out := guardUnit (decide (src < 25)) (s.flitRoute src vl.toNat)

-- remote requests

/-- The physical address that an RD or WR flit names. -/
def flitPa (f : Flit) : Nat := f.addr % 2 ^ 48

/-- RD (R375, R376): data with status 0; a refused request is answered with NACK, and data that carries poison with status 1 (log 42). -/
def State.remoteRead (s : State) (f : Flit) : State :=
  if !s.acceptsRemote (flitPa f) f.len then s.answer f tyNack 1 []
  else
    let (s, bs) := s.readMem 0xFF (flitPa f) f.len
    s.answer f tyRdrsp (b2n (s.anyBad (flitPa f) f.len)) bs

def execRd (s : State) : Out :=
  .next (match s.firstReq tyRd s.dln.inbox [] with
    | some x => (s.inboxTake x).remoteRead x.2
    | none => s)

/-- WR (R375, R376). -/
def State.remoteWrite (s : State) (f : Flit) : State :=
  if !s.acceptsRemote (flitPa f) f.len then s.answer f tyNack 1 []
  else (s.physWrite 0xFF (flitPa f) (f.payload.take f.len)).answer f tyWrack 0 []

def execWr (s : State) : Out :=
  .next (match s.firstReq tyWr s.dln.inbox [] with
    | some x => (s.inboxTake x).remoteWrite x.2
    | none => s)

/-- RDRSP (R376, R377): data for an open read; status 1 without data ends the request as a NACK does, and with data says that the data carries poison (log 42); a late response is discarded. -/
def State.readResponse (s : State) (f : Flit) : State :=
  match s.reqOf f.tag.toNat with
  | some r =>
    if r.write then s
    else if f.status = 1 ∧ f.len = 0 then s.failReq r
    else s.mapReq r.tag (fun r =>
      { r with data := some (((r.data.getD []) ++ f.payload.take f.len).take r.len), bad := r.bad || decide (f.status = 1) })
  | none => s

/-- Take the first delivered flit of a type that does not wait and act on it. -/
def State.onFlit (s : State) (typ : Nat) (waits : Flit → Bool) (act : State → Flit → State) : State :=
  match s.inboxFirst typ waits with
  | some x => act (s.inboxTake x) x.2
  | none => s

def execRdrsp (s : State) : Out := .next (s.onFlit tyRdrsp (fun _ => false) State.readResponse)

/-- WRACK (R376). -/
def State.writeResponse (s : State) (f : Flit) : State :=
  match s.reqOf f.tag.toNat with
  | some r => if r.write then s.ackReq r else s
  | none => s

def execWrack (s : State) : Out := .next (s.onFlit tyWrack (fun _ => false) State.writeResponse)

/-- NACK (R377). -/
def State.nackResponse (s : State) (f : Flit) : State :=
  match s.reqOf f.tag.toNat with
  | some r => s.failReq r
  | none => s

def execNack (s : State) : Out := .next (s.onFlit tyNack (fun _ => false) State.nackResponse)

/-- REQUEST_TIMEOUT (R377). -/
def execRequestTimeout (tag : BitVec 16) (s : State) : Out :=
  .next (match s.reqOf tag.toNat with
    | some r => s.failReq r
    | none => s)

-- notices

/-- NOTICE (R391): a delivered notice, with the port that it came on. -/
def execNotice (s : State) : Out :=
  .next (match s.inboxFirst tyNotice (fun _ => false) with
    | some x => (s.inboxTake x).notice x.1 x.2.subject.toNat x.2.cls.toNat x.2.count.toNat
    | none => s)

/-- The NOTICE flit of an accumulator, to the port's partner (R367). -/
def State.noticeFlit (s : State) (p : Nat) (a : Nat × Nat × Nat) : Flit :=
  { s.flitTo (s.link p).partner tyNotice with
    subject := BitVec.ofNat 12 a.1, cls := BitVec.ofNat 4 a.2.1, count := BitVec.ofNat 32 a.2.2 }

/-- NOTICE_SEND (R391): a port sends an accumulator's whole count as one notice and clears it; it goes on lane 2, the first of class 1 (R368). -/
def State.noticeSend (s : State) (p i : Nat) : State :=
  let l := s.link p
  match l.acc[i]? with
  | none => s
  | some a =>
    if l.usable && decide (0 < Tab.get 0 l.credits 2) then
      (s.setLink p { l with acc := l.acc.eraseIdx i }).txPut p 2 (s.noticeFlit p a)
    else s

def execNoticeSend (p i : Nat) (s : State) : Out := guardUnit (decide (p < 24)) (s.noticeSend p i)

/-- COALESCER_HOLD (R392): MERGING becomes HELD, and a record of the 64 raises source 0x20. -/
def State.fcHold (s : State) (r : Nat) : State :=
  if s.fcState r = 1 then
    let s := s.setDlnReg (DLN_FCREC + r * 0x20) (wset (s.fcRec r) 24 2 2)
    if r = 64 then s else s.fcIrq 0x20
  else s

def execCoalescerHold (r : Nat) (s : State) : Out := guardUnit (decide (r < 65)) (s.fcHold r)

/-- DLN_FCCLOSE (R392). -/
def execDlnFcclose (r : BitVec 7) (s : State) : Out := .next (s.fcClose r.toNat)

-- the chain unit

/-- CHAIN (R383). -/
def execChain (s : State) : Out := .next (s.onFlit tyChain s.chainWaits State.chainLand)

/-- CHAIN_FLIT_PROCESS (R381). -/
def execChainFlitProcess (bucket : BitVec 14) (s : State) : Out := .next (s.chainProcess bucket.toNat)

/-- RETURN (R387). -/
def execReturnFlit (s : State) : Out := .next (s.onFlit tyReturn s.returnWaits State.chainReturn)

/-- BKTPOST (R379). -/
def execBktpost (bucket : BitVec 14) (s : State) : Out := .next (s.bktWrite 0xFF (bucket.setWidth 64))

/-- BKTPOST with RET = 1 (R379, R387). -/
def execBktpostRet (bucket : BitVec 14) (s : State) : Out := .next (s.bktRet 0xFF bucket.toNat)

/-- BKTCTL with RESET = 1 (R379). -/
def execBktctlReset (bucket : BitVec 14) (step : BitVec 16) (s : State) : Out := .next (s.bktReset bucket.toNat step.toNat)

/-- DLN_CERRCTL (R388). -/
def execDlnCerrctl (s : State) : Out := .next (s.setDlnReg DLN_CERR0 0)

/-- DLN_CNTCTL (R393). -/
def execDlnCntctl (s : State) : Out := .next s.dlnCntClear

/-- DLN_PCFG_WRITE (R393). -/
def execDlnPcfgWrite (p : Nat) (role : BitVec 2) (s : State) : Out := guardUnit (decide (p < 24)) (s.writeRole p role.toNat)

end Sys2Proof.Machine
end

