-- ==== Sys2Proof/Machine/Sys.lean ====
section
/-! DEFINITION. The system instructions (R201, R205 to R208, R224, R225, R237, R241 to R246), POST and its grant (R404 to R406), and the asynchronous exceptions. -/

namespace Sys2Proof.Machine

/-- An instruction of the supervisor only (R208). -/
def supervisorOnly (s : State) (k : Nat) (r : Res (Option Word)) : Res (Option Word) := if (s.core k).sup then r else raise s excPriv

def execNop (k : Nat) (s : State) : Out := s.instr k (fun s => .ok s none)

/-- HALT (R18, R208): the core stops after the instruction. -/
def bodyHalt (k : Nat) (s : State) : Res (Option Word) :=
  supervisorOnly s k (.ok (s.updCore k (fun c => { c with run := .halted })) none)

def execHalt (k : Nat) (s : State) : Out := s.instr k (bodyHalt k)

/-- A register of the translation context: translation, guards, extents (R242, R275). -/
def translationReg (off : Nat) : Bool := off == CORE_TCTL || off == CORE_TROOT || off == CORE_GUARD || (decide (CORE_EXT ≤ off) && decide (off < CORE_EXT + 0x100))

/-- SYNCX would change a translation register or an extent. -/
def Core.translationStaged (c : Core) : Bool :=
  decide (c.regs.filter (fun p => translationReg p.1) ≠ c.act.filter (fun p => translationReg p.1))

/-- An H slot of a dry sheet is still in the headbox. -/
def Sheet.hWaits (h : Sheet) : Bool := !h.wet && (h.slots.drop h.gone).any (fun x => slotUnit x.word == unitH)

/-- The hollander has descriptors of earlier sheets that it has not translated (R242). -/
def Eng.untranslated (e : Eng) : Bool := e.headbox.any Sheet.hWaits || e.hol.any (fun h => decide (h.phase ≠ .issued))

/-- SYNCX (R241, R242): it waits for the hollander when it changes translation, applies every staged write, squashes the wet sheets and fetches again. -/
def bodySyncx (k : Nat) (s : State) : Res (Option Word) :=
  let c := s.core k
  if c.translationStaged && c.eng.untranslated then .wait
  else .ok ((s.squash k).updCore k Core.applyStaged) none

def execSyncx (k : Nat) (s : State) : Out := s.instr k (bodySyncx k)

/-- ISYNC (R245): what was fetched after it, wet sheets too, is discarded. -/
def execIsync (k : Nat) (s : State) : Out := s.instr k (fun s => .ok (s.squash k) none)

/-- An earlier store of the core is not visible yet: a remote write without its WRACK (R376), or a store that waits for a queue (R12, R379). -/
def State.storesOpen (s : State) (k : Nat) : Bool := decide (0 < s.openStores k)

/-- A FENCE that orders earlier stores waits until they are visible (R246). The model performs every other access in program order. -/
def fenceStores (k : Nat) (s : State) : Out := s.instr k (fun s => if s.storesOpen k then .wait else .ok s none)

/-- A FENCE that orders earlier loads only: a load's value is fixed when it retires (R246). -/
def fenceLoads (k : Nat) (s : State) : Out := s.instr k (fun s => .ok s none)

def execFenceFull (k : Nat) (s : State) : Out := fenceStores k s
def execFenceLl (k : Nat) (s : State) : Out := fenceLoads k s
def execFenceSs (k : Nat) (s : State) : Out := fenceStores k s
def execFenceAcq (k : Nat) (s : State) : Out := fenceLoads k s
def execFenceRel (k : Nat) (s : State) : Out := fenceStores k s
def execFenceDev (k : Nat) (s : State) : Out := fenceStores k s

/-- TRAP (R223). -/
def execTrap (k : Nat) (s : State) : Out := s.instr k (fun s => raise s excTrap)

/-- ERET (R225): it serialises the core, so no younger sheet is in the headbox past it. -/
def bodyEret (k : Nat) (s : State) : Res (Option Word) :=
  supervisorOnly s k (let t := (s.squash k).returnException k; .ok t (some (t.core k).pc))

def execEret (k : Nat) (s : State) : Out := s.instr k (bodyEret k)

/-- CRD and CWR may name the offset in the core's mode (R206). -/
def regAllowed (c : Core) (off : Nat) : Bool := c.sup || (decide (0x1000 ≤ off) && decide (off < 0x2000))

/-- CRD (R205, R206). -/
def bodyCrd (k : Nat) (d : Reg) (n : BitVec 16) (s : State) : Res (Option Word) :=
  let off := n.toNat * 8
  if !regAllowed (s.core k) off then raise s excPriv else .ok (s.setG k d (s.coreRead k off)) none

def execCrd (k : Nat) (d : Reg) (n : BitVec 16) (s : State) : Out := s.instr k (bodyCrd k d n)

/-- A CWR names a register of the engine numeric mode class (R207). -/
def numericMode (off : Nat) : Bool := off == ENG_NMODE || off == ENG_RNG || off == ENG_SROW

/-- CWR (R205 to R207, R360): a 32-bit register takes the low half. -/
def bodyCwr (k : Nat) (g : Reg) (n : BitVec 16) (s : State) : Res (Option Word) :=
  let off := n.toNat * 8
  let m : Word := if wideAt coreMap off then 0xFFFFFFFFFFFFFFFF else 0xFFFFFFFF
  if !regAllowed (s.core k) off then raise s excPriv
  else if isSlot k && numericMode off then raise s excIllegal
  else if off = CORE_TLBI ∧ (s.core k).tlbi.isSome = true then .wait
  else if off = CORE_TPROBE ∧ s.tprobeWaits k (s.greg k g) = true then .wait
  else if off = CORE_TLOCK ∧ wfld (s.greg k g) 62 2 = 1 ∧ s.tlockWaits k (wfld (s.greg k g) 0 44) = true then .wait
  else .ok (s.coreWrite true k k off (s.greg k g &&& m) m) none

def execCwr (k : Nat) (g : Reg) (n : BitVec 16) (s : State) : Out := s.instr k (bodyCwr k g n)

/-- The operands of POST are as R404 asks, and the core may send on the channel (R405). -/
def State.postOk (s : State) (k : Nat) (a b : Word) : Bool :=
  let ch := wfld a 0 6
  let len := wfld a 8 5
  decide (a &&& ~~~0x1F3F = 0) && decide (8 ≤ len) && decide (len ≤ 16) && decide (b.toNat % 8 = 0) &&
  decide (b.toNat / 4096 = (b.toNat + 8 * len - 1) / 4096) && chanExists ch && s.maySend ch k

/-- POST (R404, R405, R407): a post that is not allowed is logged and retires at once; else the core waits from here until its post is taken or discarded. -/
def bodyPost (k : Nat) (a b : Reg) (s : State) : Res Unit :=
  let ga := s.greg k a
  let gb := s.greg k b
  let len := wfld ga 8 5
  if !s.postOk k ga gb then
    .ok ((s.log logPostRefused k (freeUnit logPostRefused) (freeAddr logPostRefused) ga.toNat).retire k none 1) ()
  else if s.storesOpen k then .wait
  else (s.coreLoad k gb.toNat (8 * len) (!(s.core k).sup) .clean).bind (fun t bs =>
    .ok ((t.postTo k (wfld ga 0 6) len ((List.range len).map (word8 bs))).updCore k (fun c => { c with run := .posting })) ())

def execPost (k : Nat) (a b : Reg) (s : State) : Out :=
  if k < 40 then .next (s.runFrame k (bodyPost k a b)) else .fault .noSuchUnit

/-- POST_GRANT (R406). -/
def execPostGrant (ch : Nat) (s : State) : Out := guardUnit (chanExists ch) (s.grant ch)

/-- The core stands at an instruction boundary at which it can take an asynchronous exception: running or halted, and neither posting, tripped nor stopped by the debugger (R224, R407, R458, R476); an instruction whose remote load has begun ends first, for a device load is never repeated (R247). -/
def State.atBoundary (s : State) (k : Nat) : Bool :=
  !s.dln.reqs.any (fun r => r.core == k && r.desc.isNone && !r.write) && (decide ((s.core k).run = .running) || decide ((s.core k).run = .halted)) && (!(s.core k).dbgHalt || (s.core k).dbgStep) && !s.tripped

/-- INTERRUPT_TAKEN (R224, R227): the highest-numbered source pending and enabled. -/
def State.takeInterrupt (s : State) (k : Nat) : State :=
  if s.atBoundary k && (s.core k).ie then
    match s.irqSource k with
    | some src => s.takeException k excInterrupt src true 0 (s.core k).pc none
    | none => s
  else s

def execInterruptTaken (k : Nat) (s : State) : Out := guardUnit (decide (k < 40)) (s.takeInterrupt k)

/-- ENGINE_EXCEPTION (R237): while the record is VALID, at a boundary at which EE is 1. -/
def State.takeEngine (s : State) (k : Nat) : State :=
  if s.atBoundary k && (s.core k).ee && (s.core k).frecValid then
    s.takeException k excEngine 0 true 0 (s.core k).pc none
  else s

def execEngineException (k : Nat) (s : State) : Out := guardUnit (decide (k < 40)) (s.takeEngine k)

end Sys2Proof.Machine
end

