-- ==== Sys2Proof/Machine/Deckle.lean ====
section
/-! DEFINITION. Deckles and what they say about tile bytes (R61 to R64), the checks a slot gets when it leaves the headbox (R72), the byte claims on tiles (R65 to R68), and elements in memories. -/

namespace Sys2Proof.Machine

/-- A deckle field (R61, R63): format, tiles spanned, bytes per row, rows. -/
structure Deckle where
  fmt : Fmt
  span : Nat
  rowbytes : Nat
  rows : Nat
deriving DecidableEq, Repr

/-- Decode a deckle field (R61). -/
def deckleOf (d : Nat) : Deckle := ⟨Fmt.ofCode (fld d 20 4), fld d 16 4 + 1, 16 * (fld d 8 8 + 1), fld d 0 8 + 1⟩

/-- Elements per row (R63). -/
def Deckle.epr (d : Deckle) : Nat := d.rowbytes * 8 / d.fmt.bits

/-- Blocks per row of a scaled format (R63). -/
def Deckle.bpr (d : Deckle) : Nat := ceilDiv d.epr 32

/-- Where the scale array starts, which is also the footprint of an unscaled format (R63). -/
def Deckle.body (d : Deckle) : Nat := d.rows * d.rowbytes

/-- Bytes of the scale array. -/
def Deckle.scales (d : Deckle) : Nat := if d.fmt.scaled then d.rows * d.bpr else 0

/-- The footprint F (R63). -/
def Deckle.size (d : Deckle) : Nat := d.body + d.scales

/-- The size of a felt (R253). -/
def feltSize : Nat := 0x800000

-- elements

/-- Element `i` of an array of `w`-bit elements at byte `base` (R21, R22). -/
def elemBits (m : Mem) (base w i : Nat) : Nat :=
  if w = 4 then fld (m.read (base + i / 2)).toNat (4 * (i % 2)) 4 else m.readLE (base + i * (w / 8)) (w / 8)

/-- Write element `i` (R21, R22): a 4-bit one changes its own half of the byte. -/
def setElem (m : Mem) (base w i v : Nat) : Mem :=
  if w = 4 then m.write (base + i / 2) (BitVec.ofNat 8 (setFld (m.read (base + i / 2)).toNat (4 * (i % 2)) 4 v))
  else m.writeLE (base + i * (w / 8)) (w / 8) v

/-- Read an element as a value under FTZ, its X8 scale applied (R32, R49). A subnormal encoding that FTZ reads as zero sets FLUSHED also in a block whose scale is 255, which reads as NaN (DESIGN CHOICE, log 90). -/
def elemValue (ftz : Bool) (f : Fmt) (scale : Option Nat) (b : Nat) : FV × Flags :=
  let (v, fl) := readElem ftz f b
  match scale with
  | some x => (applyScale x v, fl)
  | none => (v, fl)

/-- Element (r, c) of a footprint at byte `base` of `m` (R63). -/
def Deckle.value (d : Deckle) (ftz : Bool) (m : Mem) (base r c : Nat) : FV × Flags :=
  let x := if d.fmt.scaled then some (m.read (base + d.body + r * d.bpr + c / 32)).toNat else none
  elemValue ftz d.fmt x (elemBits m (base + r * d.rowbytes) d.fmt.bits c)

/-- The raw bits of element (r, c). -/
def Deckle.raw (d : Deckle) (m : Mem) (base r c : Nat) : Nat := elemBits m (base + r * d.rowbytes) d.fmt.bits c

-- order of operations

/-- (q, p) stands before (q', p') in sheet and slot order (R65). -/
def posBefore (q p q' p' : Nat) : Bool := seqBefore q q' || (q % 2 ^ 48 == q' % 2 ^ 48 && decide (p < p'))

/-- The claims of a footprint at base tile `t`: in each tile its part of the footprint (R66). A tile that the deckle spans and no byte of the footprint reaches takes none (log 77). -/
def tileClaims (o : EngOp) (d : Deckle) (t : Nat) (write : Bool) : List Claim :=
  ((List.range d.span).map (fun i => (⟨o.seq, o.pos, (t + i) * 32768, Nat.min ((t + i + 1) * 32768) (t * 32768 + d.size), write⟩ : Claim))).filter
    (fun c => decide (c.lo < c.hi))

/-- Two claims touch a common byte and one of them writes (R65). -/
def Claim.conflicts (a b : Claim) : Bool := decide (a.lo < b.hi) && decide (b.lo < a.hi) && (a.write || b.write)

/-- A claim of an operation waits for an earlier one (R65). -/
def Eng.claimed (e : Eng) (seq pos : Nat) : Bool :=
  (e.claims.filter (fun c => c.seq == seq && c.pos == pos)).any (fun c =>
    e.claims.any (fun a => posBefore a.seq a.pos seq pos && a.conflicts c))

/-- The claims that stand in a tile. -/
def Eng.claimsIn (e : Eng) (t : Nat) : Nat := (e.claims.filter (fun c => decide (c.lo < (t + 1) * 32768) && decide (t * 32768 < c.hi))).length

/-- Every tile has room for the claims that an operation places in it (R66). -/
def Eng.claimRoom (e : Eng) (cs : List Claim) : Bool :=
  (List.range 16).all (fun t => !cs.any (fun c => c.lo / 32768 == t) || decide (e.claimsIn t + (cs.filter (fun c => c.lo / 32768 == t)).length ≤ 16))

/-- An operation has read all but the bytes [lo, hi) and [lo', hi') of its footprint: the read claims that touch neither are released (R67, log 77). -/
def Eng.claimsLeft (e : Eng) (o : EngOp) (lo hi lo' hi' : Nat) : Eng :=
  { e with claims := e.claims.filter (fun c => !(c.seq == o.seq && c.pos == o.pos && !c.write) ||
      (decide (c.lo < hi) && decide (lo < c.hi)) || (decide (c.lo < hi') && decide (lo' < c.hi))) }

/-- Release the claims of an operation (R67). -/
def Eng.unclaim (e : Eng) (seq pos : Nat) : Eng := { e with claims := e.claims.filter (fun c => !(c.seq == seq && c.pos == pos)) }

-- checks at release

/-- A fault found by a check: its code and DETAIL. -/
abbrev Found := Nat × Nat

/-- SPAN and FIT (R72). -/
def spanFit (d : Deckle) (t : Nat) : List Found :=
  (if 16 < t + d.span then [(0x20, 0)] else []) ++ (if d.span * 32768 < d.size then [(0x21, 0)] else [])

/-- The lowest felt offset at or above 8 MiB that bytes [a, a + n) touch. -/
def overFelt (a n : Nat) : Option Nat := if n = 0 ∨ a + n ≤ feltSize then none else some (Nat.max a feltSize)

/-- SHP_FELT of an L slot (R72): base, pitch and scale offset, then the bytes, rows in order and then the scale array. -/
def lFelt (d : Deckle) (base pitch scale : Nat) : Option Nat :=
  if base % 16 ≠ 0 then some base
  else if pitch % 16 ≠ 0 then some pitch
  else if d.fmt.scaled ∧ scale % 16 ≠ 0 then some scale
  else
    match (List.range d.rows).findSome? (fun r => overFelt (base + r * pitch) d.rowbytes) with
    | some a => some a
    | none => overFelt scale d.scales

/-- The misfits of an L slot (R72). -/
def lChecks (w : Word) (base pitch scale : Nat) : List Found :=
  let d := deckleOf (slotDeck w)
  spanFit d (slotTile w) ++ (match lFelt d base pitch scale with | some a => [(0x2C, a)] | none => [])

/-- The offset of a tally record, its low five bits ignored (R53). -/
def tallyOff (v : Word) : Nat := v.toNat - v.toNat % 32

/-- The misfits of an M slot that are checked when it leaves the headbox (R72). -/
def mChecks (w : Word) (gv : List Word) : List Found :=
  let d := deckleOf (slotDeck w)
  if slotOp w = 0 then
    spanFit d (slotTile w) ++ (if 128 < d.rows then [(0x26, 0)] else []) ++ (if 512 < d.epr then [(0x27, 0)] else [])
  else if slotOp w = 1 then
    let t := tallyOff (gv.headD 0)
    spanFit d (slotTile w) ++ (if 128 < d.rows then [(0x24, 0)] else []) ++ (if 128 < d.epr then [(0x25, 0)] else []) ++
      (if mTally w ≠ 0 ∧ feltSize ≤ t then [(0x2C, t)] else [])
  else []

/-- The misfit of a Y slot that is checked when it leaves the headbox (R72). -/
def yChecks (w : Word) (gv : List Word) : List Found :=
  if (yOp w = 2 ∨ yOp w = 3) ∧ (gv.headD 0).toNat % 4096 ≠ 0 then [(0x2D, 0)] else []

/-- The lowest code of a list of faults found, the first of equals (R72). -/
def lowest : List Found → Option Found
  | [] => none
  | f :: fs => match lowest fs with | some g => if g.1 < f.1 then some g else some f | none => some f

-- ends of operations

/-- The fault that one operation raises when it ends (R39, R72, R235): of a numeric fault and the read errors found, the lowest code. -/
def State.opFault (s : State) (k seq pos unit nmode flags : Nat) (reads : List Found) : State :=
  let cause := trapCause nmode flags
  if cause ≠ 0 then s.engFault k ⟨seq, pos, 0, unit, numCode cause, cause, 0⟩
  else match lowest reads with
    | some (c, d) => s.engFault k ⟨seq, pos, 0, unit, c, 0, d⟩
    | none => s

/-- The first aligned 8-byte unit of [a, a + n) with an uncorrectable error. -/
def badUnit (bad : Tab Bool) (a n : Nat) : Option Nat := ((bad.find? (fun p => p.2 && decide (a < 8 * p.1 + 8) && decide (8 * p.1 < a + n))).map (fun p => 8 * p.1))

/-- FELT_POISON of a read of felt bytes (R254). -/
def Eng.feltPoison (e : Eng) (a n : Nat) : List Found := match badUnit e.feltBad a n with | some u => [(0x69, u)] | none => []

/-- TILE_POISON of a read of tile bytes (R463). -/
def Eng.tilePoison (e : Eng) (a n : Nat) : List Found := match badUnit e.tileBad a n with | some u => [(0x6A, u)] | none => []

/-- The 8-byte unit of byte `a` lies in one of these (offset, length) ranges. -/
def unitIn (rs : List (Nat × Nat)) (a : Nat) : Bool := rs.any (fun r => decide (r.1 < a - a % 8 + 8) && decide (a - a % 8 < r.1 + r.2))

/-- The units of core slot `k`'s own storage that an operation reads: byte ranges of its felt, tiles, B buffers and reams, as (offset, length) (R254, R463). -/
def ownReads (k : Nat) (felt tile bbuf ream : List (Nat × Nat)) : Loc → Bool
  | .felt j u => j == k && unitIn felt (8 * u)
  | .tile j a => j == k && unitIn tile a
  | .bbuf j a => j == k && unitIn bbuf a
  | .ream j a => j == k && unitIn ream a
  | _ => false

/-- An operation of core slot `k` reads bytes of its own felt: errors that the storage reports take effect first. -/
def State.strikeFelt (s : State) (k : Nat) (rs : List (Nat × Nat)) : State := s.strike (ownReads k rs [] [] [])

/-- A tally record that is added to is read (R53, R254). -/
def State.tallyRead (s : State) (k choice off : Nat) : State := if 2 ≤ choice then s.strikeFelt k [(off, 32)] else s

/-- Write tile bytes; units written whole are good again. -/
def Eng.writeTile (e : Eng) (a : Nat) (bs : List Byte) : Eng :=
  { e with tiles := e.tiles.writeN a bs, tileBad := feltClean e.tileBad a bs.length }

/-- Write own felt bytes; units written whole are good again. -/
def Eng.writeFelt (e : Eng) (a : Nat) (bs : List Byte) : Eng :=
  { e with felt := e.felt.writeN a bs, feltBad := feltClean e.feltBad a bs.length }

/-- Change the engines of core `k`. -/
def State.updEng (s : State) (k : Nat) (f : Eng → Eng) : State := s.updCore k (fun c => { c with eng := f c.eng })

/-- The engines of core `k`. -/
def State.eng (s : State) (k : Nat) : Eng := (s.core k).eng

/-- Set sticky engine flags (R37). -/
def State.setNstat (s : State) (k bits : Nat) : State := s.updCore k (fun c => c.setNstat bits)

/-- Update a tally record (R53 to R56), with TOVF. -/
def State.tallyTo (s : State) (k choice off : Nat) (c : Counts) : State :=
  if choice = 0 then s
  else
    let (bs, hit) := tallyUpdate (decide (2 ≤ choice)) ((s.eng k).felt.readN off 32) c
    let s := s.updEng k (fun e => e.writeFelt off bs)
    if hit then s.setNstat k 0x80 else s

/-- What a read of a tally record that is added to finds (R254). -/
def Eng.tallyPoison (e : Eng) (choice off : Nat) : List Found := if 2 ≤ choice then e.feltPoison off 32 else []

end Sys2Proof.Machine
end

