-- ==== Sys2Proof/Machine/CalDesc.lean ====
section
/-! DEFINITION. The calender's operation descriptor (R145 to R149, R157, R164), its checks when the slot leaves the headbox (R151, R159, R163, R167, R181), and the felt bytes that it names. -/

namespace Sys2Proof.Machine

/-- A stream of a descriptor (R147). -/
structure Stream where
  kind : Nat
  fmt : Nat
  bcast : Nat
  rnd : Nat
  sat : Nat
  vreg : Nat
  ream : Nat
  ntok : Nat
  form : Nat
  fmax : Bool
  fsum : Bool
  ftest : Nat
  resv : Bool
  base : Nat
  pitch : Nat
  scale : Nat
  frow : Nat
  tbase : Nat
  tpitch : Nat
deriving DecidableEq, Repr

/-- A nip word (R157). -/
structure Nip where
  kind : Nat
  opa : Nat
  opb : Nat
  opc : Nat
  fmt : Nat
  rnd : Nat
  sat : Nat
  sub : Nat
  resv : Bool
  imm : Nat
deriving DecidableEq, Repr

/-- An operation descriptor (R145). `wtype`: 0 FP32, 1 FP64, 2 I32. -/
structure CalDesc where
  nnip : Nat
  wtype : Nat
  sumq : Bool
  resv : Bool
  rows : Nat
  cols : Nat
  s0 : Stream
  s1 : Stream
  out : Stream
  aux : Stream
  mkind : Nat
  mzero : Bool
  mbase : Nat
  mpitch : Nat
  nips : List Nip
  stab : Nat
  layer : Nat
  hrec : Nat
deriving DecidableEq, Repr

/-- `n` little-endian bytes at offset `o` of a list. -/
def leAt (bs : List Byte) (o n : Nat) : Nat := leNat ((bs.drop o).take n)

/-- The stream at offset `o` (R147). -/
def streamOf (bs : List Byte) (o : Nat) : Stream :=
  let w := leAt bs o 4
  { kind := fld w 0 3, fmt := fld w 4 4, bcast := fld w 8 2, rnd := fld w 10 2, sat := fld w 12 2, vreg := fld w 14 4, ream := fld w 18 2,
    ntok := fld w 20 2 + 1, form := fld w 22 2, fmax := bit w 24, fsum := bit w 25, ftest := fld w 26 2,
    resv := bit w 3 || decide (fld w 28 4 ≠ 0) || decide (leAt bs (o + 0x1C) 4 ≠ 0),
    base := leAt bs (o + 4) 4, pitch := leAt bs (o + 8) 4, scale := leAt bs (o + 0xC) 4, frow := leAt bs (o + 0x10) 4,
    tbase := leAt bs (o + 0x14) 4, tpitch := leAt bs (o + 0x18) 4 }

/-- A nip word (R157). -/
def nipOf (w : Nat) : Nip :=
  { kind := fld w 0 6, opa := fld w 6 3, opb := fld w 9 3, opc := fld w 12 3, fmt := fld w 16 4, rnd := fld w 20 2, sat := fld w 22 2,
    sub := fld w 24 4, resv := bit w 15 || decide (fld w 28 4 ≠ 0), imm := fld w 32 32 }

/-- The descriptor in 256 bytes (R145). -/
def calDescOf (bs : List Byte) : CalDesc :=
  let w := leAt bs 0 4
  let m := leAt bs 0x90 4
  { nnip := fld w 0 4, wtype := fld w 4 2, sumq := bit w 6,
    resv := decide (fld w 7 25 ≠ 0) || decide (leAt bs 0xC 4 ≠ 0) || decide (leAt bs 0xEC 20 ≠ 0) || decide (fld m 3 29 ≠ 0) ||
      decide (leAt bs 0x9C 4 ≠ 0),
    rows := leAt bs 4 4, cols := leAt bs 8 4, s0 := streamOf bs 0x10, s1 := streamOf bs 0x30, out := streamOf bs 0x50, aux := streamOf bs 0x70,
    mkind := fld m 0 2, mzero := bit m 2, mbase := leAt bs 0x94 4, mpitch := leAt bs 0x98 4,
    nips := (List.range (Nat.min (fld w 0 4) 8)).map (fun i => nipOf (leAt bs (0xA0 + 8 * i) 8)),
    stab := leAt bs 0xE0 4, layer := leAt bs 0xE4 4, hrec := leAt bs 0xE8 4 }

def nkCmp : Nat := 0x09
def nkCvt : Nat := 0x0B
def nkReduce : Nat := 0x30
def nkCompress : Nat := 0x31
def nkExpand : Nat := 0x32
def nkTopk : Nat := 0x33
def nkScupd : Nat := 0x34
def nkHist : Nat := 0x35

/-- The kind of a chain's last nip when it is one of the three that end a chain (R163). -/
def CalDesc.term (d : CalDesc) : Option Nip :=
  match d.nips.getLast? with
  | some n => if n.kind = nkReduce ∨ n.kind = nkCompress ∨ n.kind = nkTopk then some n else none
  | none => none

/-- The chain ends in a nip of this kind. -/
def CalDesc.ends (d : CalDesc) (kind : Nat) : Bool := d.term.any (fun n => n.kind == kind)

/-- The chain holds a nip of this kind. -/
def CalDesc.has (d : CalDesc) (kind : Nat) : Bool := d.nips.any (fun n => n.kind == kind)

/-- Nips of this kind in the chain. -/
def CalDesc.countOf (d : CalDesc) (kind : Nat) : Nat := (d.nips.filter (fun n => n.kind == kind)).length

/-- An integer format that the I32 working type takes (R151, R160). -/
def intFmt (f : Nat) : Bool := decide (7 ≤ f) && decide (f ≤ 11)

/-- A nip's kind and fields are accepted with a working type (R159, R160, R166). -/
def nipOk (w : Nat) (n : Nip) : Bool :=
  !n.resv &&
  (if n.kind = 0x04 ∨ (0x20 ≤ n.kind ∧ n.kind ≤ 0x23) ∨ n.kind = nkScupd ∨ n.kind = nkHist then decide (w ≤ 1)
   else if n.kind = nkCmp then decide (n.sub ≤ 5)
   else if n.kind = nkCvt then decide (w ≠ 2) || intFmt n.fmt
   else if n.kind ≤ 0x0A then true
   else if 0x10 ≤ n.kind ∧ n.kind ≤ 0x16 then decide (w = 2)
   else if n.kind = nkReduce then decide (n.sub ≤ 3) || (decide (n.sub ≤ 5) && decide (w ≠ 2))
   else if n.kind = nkTopk then decide (w = 0)
   else decide (n.kind = nkCompress ∨ n.kind = nkExpand))

/-- A stochastic CVT stands before a HIST (R163). -/
def stochBeforeHist : List Nip → Bool → Bool
  | [], _ => false
  | n :: ns, seen => (n.kind == nkHist && seen) || stochBeforeHist ns (seen || (n.kind == nkCvt && n.rnd == 3))

/-- The chain keeps R159 and the positions of R163. -/
def CalDesc.chainOk (d : CalDesc) : Bool :=
  d.nips.all (nipOk d.wtype) &&
  (d.nips.drop 1).all (fun n => n.kind != nkExpand) &&
  (d.nips.dropLast).all (fun n => n.kind != nkReduce && n.kind != nkCompress && n.kind != nkTopk) &&
  decide (d.countOf nkScupd ≤ 1) && decide (d.countOf nkHist ≤ 1) && !stochBeforeHist d.nips false &&
  (!d.has nkExpand || (d.mkind == 1 && d.s0.kind != 3)) &&
  (match d.term with
   | none => true
   | some n =>
     if n.kind = nkReduce then d.aux.kind == 1 || (d.aux.kind == 2 && decide (n.sub ≤ 3))
     else if n.kind = nkCompress then d.out.kind == 1 && d.aux.kind == 1 && d.s0.kind != 3
     else decide (1 ≤ n.imm) && decide (n.imm ≤ d.cols) && d.out.kind == 1 && d.s0.kind != 3)

/-- An input format that the working type refuses (R151). -/
def refusedInput (w f : Nat) : Bool := if w = 0 then f == 3 else if w = 2 then !intFmt f else false

/-- The format in which a stream's elements are read or written: of a tile the deckle's. -/
def Stream.fmtOf (s : Stream) (deck : Nat) : Nat := if s.kind = 2 then fld deck 20 4 else s.fmt

/-- The format code of a couch stream's presented values (R134, R136). -/
def Stream.couchFmt (s : Stream) : Nat := if s.form = 1 then 3 else if s.form = 2 then (if s.ftest = 0 then 11 else 0) else 0

/-- Elements that a broadcast input reaches (R149). -/
def Stream.reach (s : Stream) (rows cols : Nat) : Nat × Nat :=
  if s.bcast = 0 then (rows, cols) else if s.bcast = 1 then (1, cols) else if s.bcast = 2 then (rows, 1) else (1, 1)

/-- An input stream breaks R147 to R149 or R151 without a code of its own. -/
def inputBad (d : CalDesc) (s : Stream) (first : Bool) : Bool :=
  s.resv || decide (5 ≤ s.kind) || (decide (s.kind = 3) && !first) ||
  (decide (s.kind = 3) && (s.bcast != 0 || s.form == 3 || s.ftest == 3 || d.rows != 128 || refusedInput d.wtype s.couchFmt)) ||
  (decide (s.kind = 1 ∨ s.kind = 4) && refusedInput d.wtype s.fmt) ||
  (decide (s.kind = 4) && (decide (12 ≤ s.fmt) ||
    (let (r, c) := if first && d.has nkExpand then (1, d.rows * d.cols) else s.reach d.rows d.cols
     decide (8192 * 8 / (Fmt.ofCode s.fmt).bits < r * c))))

/-- An output stream breaks R147 or R149. One of kind none is not looked at, whatever its BCAST and RND hold (DESIGN CHOICE, log 91). -/
def outputBad (s : Stream) : Bool := s.resv || decide (3 ≤ s.kind) || (decide (s.kind ≠ 0) && (s.bcast != 0 || s.rnd == 3))

/-- CAL_DESC (R145 to R170). -/
def CalDesc.bad (d : CalDesc) : Bool :=
  d.resv || decide (8 < d.nnip) || d.wtype == 3 || d.rows == 0 || decide (2 ^ 24 < d.rows) || d.cols == 0 || decide (2 ^ 24 < d.cols) ||
  inputBad d d.s0 true || inputBad d d.s1 false || outputBad d.out || outputBad d.aux || decide (2 ≤ d.mkind) || !d.chainOk

/-- CAL_CPX (R163). -/
def CalDesc.tooBig (d : CalDesc) : Bool :=
  ((d.has nkExpand || d.ends nkCompress) && decide (65536 < d.rows * d.cols)) || (d.ends nkTopk && decide (65536 < d.cols))

-- felt bytes

/-- Rows of bytes: base, pitch, number of rows, bytes per row. -/
abbrev Rect := Nat × Nat × Nat × Nat

/-- The interval of a rectangle of bytes. -/
def rectSpan (r : Rect) : Nat × Nat := let (b, p, n, k) := r; (b, if n = 0 ∨ k = 0 then b else b + (n - 1) * p + k)

/-- The lowest touched offset at or above 8 MiB. -/
def rectOver (r : Rect) : Option Nat :=
  let (b, p, n, k) := r
  if n = 0 ∨ k = 0 ∨ b + (n - 1) * p + k ≤ feltSize then none
  else
    -- the first row that ends above
    let i := if feltSize < b + k ∨ p = 0 then 0 else (feltSize - b - k) / p + 1
    some (Nat.max (b + i * p) feltSize)

/-- The rectangle touches a byte of [lo, hi). -/
def rectHits (r : Rect) (lo hi : Nat) : Bool :=
  let (b, p, n, k) := r
  -- the first row that ends above `lo`
  let i := if lo < b + k then 0 else if p = 0 then n else (lo - b - k) / p + 1
  decide (k ≠ 0) && decide (i < n) && decide (b + i * p < hi)

/-- A felt stream of `n` rows of `m` elements: its elements and its scale bytes (R148). -/
def Stream.rects (s : Stream) (n m bpr : Nat) : List Rect :=
  let f := Fmt.ofCode s.fmt
  (s.base, s.pitch, n, ceilDiv (m * f.bits) 8) :: (if f.scaled then [(s.scale, bpr, n, ceilDiv m 32)] else [])

/-- The felt bytes of S0 (and S1): elements, or the fields of the fused row results that are fused (R156) and the test tensor of a drain; what is written comes second. EXPAND, whose packed elements its bitmap decides, is taken to touch as many as the operation has, whatever BCAST says (DESIGN CHOICE, log 75). -/
def CalDesc.inRects (d : CalDesc) (s : Stream) (first : Bool) : List Rect × List Rect :=
  let bpr := ceilDiv d.cols 32
  if s.kind = 1 then
    if first && d.has nkExpand then (s.rects 1 (d.rows * d.cols) bpr, [])
    else let (r, c) := s.reach d.rows d.cols; (s.rects r c bpr, [])
  else if s.kind = 3 then
    ((if s.ftest ≠ 0 then [(s.tbase, s.tpitch, 128, d.cols * (if s.form = 1 then 8 else 4))] else []),
     (if s.fmax || s.fsum then [(s.frow + (if s.fmax then 0 else 8), 16, 128, if s.fmax && s.fsum then 16 else 8)] else []))
  else ([], [])

/-- The felt bytes of OUT. COMPRESS, whose length its data decide, is taken to touch as many elements as the operation has (log 75). -/
def CalDesc.outRects (d : CalDesc) : List Rect :=
  if d.out.kind ≠ 1 then []
  else match d.term with
    | some n =>
      if n.kind = nkTopk then [(d.out.base, d.out.pitch, d.rows, 8 * n.imm)]
      else if n.kind = nkCompress then d.out.rects 1 (d.rows * d.cols) (ceilDiv d.cols 32)
      else d.out.rects d.rows d.cols (ceilDiv d.cols 32)
    | none => d.out.rects d.rows d.cols (ceilDiv d.cols 32)

/-- Bytes of a mean-and-variance record (R167). -/
def CalDesc.recSize (d : CalDesc) : Nat := if d.wtype = 1 then 32 else 16

/-- The results that a REDUCE writes (R167). -/
def CalDesc.results (d : CalDesc) (n : Nip) : Nat := if bit n.fmt 0 then d.cols else d.rows

/-- The felt bytes of AUX. One of a chain that ends in no REDUCE, COMPRESS or TOPK is neither used nor checked (DESIGN CHOICE, log 91). -/
def CalDesc.auxRects (d : CalDesc) : List Rect :=
  if d.aux.kind ≠ 1 then []
  else match d.term with
    | none => []
    | some n =>
      if n.kind = nkReduce then
        if 4 ≤ n.sub then [(d.aux.base, d.aux.pitch, d.results n, d.recSize)]
        else if bit n.fmt 0 then d.aux.rects 1 d.cols (ceilDiv d.cols 32)
        else d.aux.rects d.rows 1 (ceilDiv d.cols 32)
      else if n.kind = nkCompress then [(d.aux.base, 0, 1, 4)]
      else d.aux.rects d.rows d.cols (ceilDiv d.cols 32)

/-- BASE and PITCH of a felt stream whose elements a format lays out are aligned; the first that is not (R148). -/
def alignBad (s : Stream) (usePitch : Bool) : Option Nat :=
  let k := Nat.max ((Fmt.ofCode s.fmt).bits / 8) 1
  if s.base % k ≠ 0 then some s.base else if usePitch && decide (s.pitch % k ≠ 0) then some s.pitch else none

/-- AUX holds elements of AUX.FMT. -/
def CalDesc.auxElems (d : CalDesc) : Bool :=
  match d.term with
  | some n => (n.kind == nkReduce && decide (n.sub ≤ 3)) || n.kind == nkTopk
  | none => false

/-- The offsets that break CAL_FELT, in the order of R181. A couch operation, whose rows its tokens decide, is taken to touch all of its 128 rows in OUT, S1, the mask and the test tensor, and inactive elements count as touched though merge does not write them (DESIGN CHOICE, log 60). -/
def CalDesc.feltBad (d : CalDesc) (tally : Option Nat) : List Nat :=
  let off := fun (l : List Rect) => match l.filterMap rectOver with | [] => [] | a :: t => [t.foldl Nat.min a]
  let al := fun (o : Option Nat) => match o with | some a => [a] | none => []
  let inp := fun (s : Stream) (first : Bool) =>
    (if s.kind = 1 then al (alignBad s true) else []) ++ off ((d.inRects s first).1 ++ (d.inRects s first).2)
  let rec1 := fun (o n : Nat) => if feltSize < o + n then [o] else []
  inp d.s0 true ++ inp d.s1 false ++
  (if d.out.kind = 1 ∧ d.ends nkTopk = false then al (alignBad d.out (!d.ends nkCompress)) else []) ++ off d.outRects ++
  (if d.aux.kind = 1 ∧ d.auxElems = true then al (alignBad d.aux true) else []) ++ off d.auxRects ++
  (if d.mkind = 1 then off [(d.mbase, d.mpitch, d.rows, ceilDiv d.cols 8)] else []) ++
  (match tally with | some o => rec1 o 32 | none => []) ++
  (if d.has nkScupd then rec1 (d.stab + 4 * d.layer) 4 else []) ++ (if d.has nkHist then rec1 d.hrec 64 else [])

/-- A stream that the operation uses has kind tile. -/
def CalDesc.tileIn (d : CalDesc) : Bool := d.s0.kind == 2 || d.s1.kind == 2

/-- A tile output is one that the operation uses. -/
def CalDesc.tileOut (d : CalDesc) : Bool :=
  d.out.kind == 2 || (d.aux.kind == 2 && (match d.term with | some n => n.kind == nkReduce || n.kind == nkTopk | none => false))

/-- The stored elements that a tile stream must hold, for each one of the operation (R149, R167, R170). -/
def CalDesc.tileCounts (d : CalDesc) : List Nat :=
  let n := fun (s : Stream) => let (r, c) := s.reach d.rows d.cols; r * c
  (if d.s0.kind = 2 then [if d.has nkExpand then d.rows * d.cols else n d.s0] else []) ++ (if d.s1.kind = 2 then [n d.s1] else []) ++
  (if d.out.kind = 2 then [d.rows * d.cols] else []) ++
  (if d.aux.kind = 2 then
    match d.term with
    | some t => if t.kind = nkReduce then (if 4 ≤ t.sub then [] else [d.results t]) else if t.kind = nkTopk then [d.rows * d.cols] else []
    | none => []
   else [])

/-- A drain with a fused test operation, which only a core in its self-test state may run (R136, R137). -/
def CalDesc.tests (d : CalDesc) : Bool := d.s0.kind == 3 && decide (d.s0.ftest = 1 ∨ d.s0.ftest = 2)

/-- Every fault of a C slot that its check finds when it leaves the headbox (R72, R137, R181). `stest`: the core is in its self-test state. -/
def cChecks (w : Word) (gv : List Word) (bs : List Byte) (stest : Bool) : List Found :=
  let off := (gv.headD 0).toNat
  if off % 64 ≠ 0 then [(0x50, 0)]
  else if feltSize < off + 256 then [(0x53, Nat.max off feltSize)]
  else
    let d := calDescOf bs
    let k := deckleOf (slotDeck w)
    let tile := d.tileIn || d.tileOut
    (if tile then spanFit k (slotTile w) else []) ++
    (if d.tileIn && refusedInput d.wtype (fld (slotDeck w) 20 4) then [(0x22, 0)] else []) ++
    (if d.tileCounts.any (fun n => n != k.rows * k.epr) then [(0x2B, 0)] else []) ++
    (if d.tests && !stest then [(0x38, 0)] else []) ++
    (if d.bad then [(0x50, 0)] else []) ++ (if d.tooBig then [(0x52, 0)] else []) ++
    (match d.feltBad (if cTally w = 0 then none else some (tallyOff (gv.getD 3 0))) with | a :: _ => [(0x53, a)] | [] => [])

/-- The felt intervals of a calender operation as (lowest, end, written) (R262, R263). -/
def CalDesc.feltSpans (d : CalDesc) (tally : Option Nat) : List (Nat × Nat × Bool) :=
  let rd := (d.inRects d.s0 true).1 ++ (d.inRects d.s1 false).1 ++ (if d.mkind = 1 then [(d.mbase, d.mpitch, d.rows, ceilDiv d.cols 8)] else [])
  let wr := (d.inRects d.s0 true).2 ++ d.outRects ++ d.auxRects ++ (match tally with | some o => [(o, 0, 1, 32)] | none => []) ++
    (if d.has nkScupd then [(d.stab + 4 * d.layer, 0, 1, 4)] else []) ++ (if d.has nkHist then [(d.hrec, 0, 1, 64)] else [])
  rd.map (fun r => ((rectSpan r).1, (rectSpan r).2, false)) ++ wr.map (fun r => ((rectSpan r).1, (rectSpan r).2, true))

end Sys2Proof.Machine
end

