-- ==== Sys2Proof/Machine/HolDesc.lean ====
section
/-! DEFINITION. Hollander descriptors (R265 to R270): their fields, the addresses of their elements, the checks made before any source byte is read (R277), and the felt bytes they touch. -/

namespace Sys2Proof.Machine

def hopCopy : Nat := 0
def hopFill : Nat := 1
def hopUadd : Nat := 2
def hopUmax : Nat := 3
def hopUmin : Nat := 4
def hopVfetch : Nat := 5

/-- One side of a descriptor (R266); `space`: 0 own felt, 1 virtual, 2 remote device. -/
structure Side where
  mode : Nat
  space : Nat
  base : Nat
  stride : Int
  pitch : Int
  param : Nat
deriving DecidableEq, Repr

/-- A hollander descriptor (R265). `esz`: base-2 logarithm of the element size. -/
structure HolDesc where
  op : Nat
  esz : Nat
  utype : Nat
  flag : Bool
  fence : Bool
  stream : Bool
  uperm : Bool
  resv : Bool
  count : Nat
  rows : Nat
  flagoff : Nat
  src : Side
  dst : Side
deriving DecidableEq, Repr

/-- The side at offset `o` (R266). -/
def sideOf (bs : List Byte) (o mode space : Nat) : Side :=
  ⟨mode, space, leAt bs o 8, sext 32 (leAt bs (o + 8) 4), sext 32 (leAt bs (o + 0xC) 4), leAt bs (o + 0x10) 8⟩

/-- The descriptor in 64 bytes (R265). -/
def holDescOf (bs : List Byte) : HolDesc :=
  let w := leAt bs 0 4
  { op := fld w 0 4, esz := fld w 4 3, utype := fld w 18 2, flag := bit w 20, fence := bit w 21, stream := bit w 22, uperm := bit w 23,
    resv := bit w 7 || decide (fld w 24 8 ≠ 0), count := leAt bs 4 4, rows := leAt bs 8 4, flagoff := leAt bs 0xC 4,
    src := sideOf bs 0x10 (fld w 8 3) (fld w 11 2), dst := sideOf bs 0x28 (fld w 13 3) (fld w 16 2) }

/-- Bytes of an element. -/
def HolDesc.size (d : HolDesc) : Nat := 2 ^ d.esz

/-- An update (R267). -/
def HolDesc.isUpd (d : HolDesc) : Bool := d.op == hopUadd || d.op == hopUmax || d.op == hopUmin

/-- The operation reads a source side; FILL's base is a value. -/
def HolDesc.hasSrc (d : HolDesc) : Bool := d.op != hopFill

/-- The operation writes a destination side. -/
def HolDesc.hasDst (d : HolDesc) : Bool := d.op != hopVfetch

/-- Elements of the descriptor (R270). -/
def HolDesc.total (d : HolDesc) : Nat := d.rows * d.count

/-- A side of its operation is accepted (R267 to R269). -/
def Side.ok (x : Side) (d : HolDesc) : Bool :=
  decide (x.mode ≤ 4) && decide (x.space ≤ 2) &&
  (x.space != 2 || (decide (x.mode ≤ 1) && decide (x.base < 2 ^ 60))) &&
  (if x.mode = 2 then decide (fld x.param 0 32 ≠ 0) && decide (fld x.param 0 32 % d.size = 0)
   else if x.mode = 3 then decide (x.param < 32) && decide (1 ≤ x.param) && decide (x.param ≤ 24) && decide (d.count = 2 ^ x.param)
   else if x.mode = 4 then decide (x.param < 2 ^ 32) && decide (x.param % 4 = 0)
   else true)

/-- HOL_DESC but for the descriptor's own offset (R265, R267 to R269, R277). -/
def HolDesc.bad (d : HolDesc) : Bool :=
  d.resv || decide (5 < d.op) || decide (d.esz = 7) || d.count == 0 || decide (2 ^ 24 < d.count) || d.rows == 0 || decide (2 ^ 24 < d.rows) ||
  (d.hasSrc && !d.src.ok d) || (d.hasDst && !d.dst.ok d) ||
  (d.hasSrc && d.hasDst && d.src.mode == 4 && d.dst.mode == 4) ||
  (d.op == hopFill && decide (3 < d.esz)) ||
  (d.isUpd && (d.utype == 3 || d.esz != (if d.utype = 2 then 3 else 2) || d.dst.space != 1 || (d.dst.mode != 0 && d.dst.mode != 4))) ||
  (d.op == hopVfetch && d.src.space != 1) || (d.flag && decide (d.flagoff % 8 ≠ 0))

/-- The address of element (r, i) of a side, modulo 2^64 (R268). `x`: the index array. -/
def Side.addr (x : Side) (d : HolDesc) (idx : Nat → Nat) (r i : Nat) : Nat :=
  let b : Int := x.base
  let row : Int := (r : Int) * x.pitch
  wrapN 64 (
    if x.mode = 0 then b + row + ((i * d.size : Nat) : Int)
    else if x.mode = 1 then b + row + (i : Int) * x.stride
    else if x.mode = 2 then b + (((fld x.param 32 32 : Nat) : Int) + row + (i : Int) * x.stride) % ((fld x.param 0 32 : Nat) : Int)
    else if x.mode = 3 then b + row + ((revBits (fld x.param 0 5) i : Nat) : Int) * x.stride
    else b + ((idx (r * d.count + i) : Nat) : Int) * x.stride)

/-- Index `n` of a side's index array, read from the felt. -/
def Side.index (x : Side) (felt : Mem) (n : Nat) : Nat := felt.readLE (fld x.param 0 32 + 4 * n) 4

/-- The address of element `n` in logical order. -/
def HolDesc.srcAddr (d : HolDesc) (felt : Mem) (n : Nat) : Nat := d.src.addr d (d.src.index felt) (n / d.count) (n % d.count)

def HolDesc.dstAddr (d : HolDesc) (felt : Mem) (n : Nat) : Nat := d.dst.addr d (d.dst.index felt) (n / d.count) (n % d.count)

/-- The first of `n` elements from `i` on for which `f` answers. -/
def firstElem {α : Type} (f : Nat → Option α) : Nat → Nat → Option α
  | 0, _ => none
  | n + 1, i => match f i with | some a => some a | none => firstElem f n (i + 1)

/-- The index array of a side reaches beyond the felt. -/
def Side.indexOver (x : Side) (d : HolDesc) : Option Nat := if x.mode = 4 then overFelt (fld x.param 0 32) (4 * d.total) else none

/-- Felt bytes as a memory of their own. -/
def feltPart (felt : Mem) (a n : Nat) : Mem := Mem.writeN [] a (felt.readN a n)

/-- The index array of a descriptor, of a GATHER side (R268). -/
def HolDesc.indices (d : HolDesc) (felt : Mem) : Mem :=
  let part := fun (x : Side) => feltPart felt (fld x.param 0 32) (4 * d.total)
  if d.hasSrc ∧ d.src.mode = 4 then part d.src else if d.hasDst ∧ d.dst.mode = 4 then part d.dst else []

/-- The first fault of codes 0x60 to 0x62 that a descriptor at felt offset `off` has, with its DETAIL (R277, R278). A descriptor with several has the lowest code (DEDUCED, log 97); a side whose indices reach beyond the felt has no addresses to check. -/
def holCheck (off : Nat) (felt : Mem) (d : HolDesc) : Option Found :=
  if off % 64 ≠ 0 then some (0x60, off)
  else if feltSize < off + 64 then some (0x62, Nat.max off feltSize)
  else if d.bad then some (0x60, off)
  else
    let so := if d.hasSrc then d.src.indexOver d else none
    let do_ := if d.hasDst then d.dst.indexOver d else none
    let al := firstElem (fun n =>
      if d.hasSrc ∧ so = none ∧ d.srcAddr felt n % d.size ≠ 0 then some (d.srcAddr felt n)
      else if d.hasDst ∧ do_ = none ∧ d.dstAddr felt n % d.size ≠ 0 then some (d.dstAddr felt n) else none) d.total 0
    match al with
    | some a => some (0x61, a)
    | none =>
      match so.or do_ with
      | some a => some (0x62, a)
      | none =>
        let ov := firstElem (fun n =>
          ((if d.hasSrc ∧ d.src.space = 0 then overFelt (d.srcAddr felt n) d.size else none).or
           (if d.hasDst ∧ d.dst.space = 0 then overFelt (d.dstAddr felt n) d.size else none))) d.total 0
        match ov.or (if d.flag then overFelt d.flagoff 8 else none) with
        | some a => some (0x62, a)
        | none => none

/-- The interval of a list of elements. -/
def elemSpan (f : Nat → Nat) (size n : Nat) : Nat × Nat :=
  (List.range n).foldl (fun (lo, hi) i => (Nat.min lo (f i), Nat.max hi (f i + size))) (f 0, f 0 + size)

/-- The whole felt. -/
def allFelt (write : Bool) : Nat × Nat × Bool := (0, feltSize, write)

/-- The felt intervals of a descriptor (R262, R263). -/
def HolDesc.feltSpans (d : HolDesc) (felt : Mem) : List (Nat × Nat × Bool) :=
  let side := fun (x : Side) (f : Nat → Nat) (write : Bool) =>
    (if x.space ≠ 0 then [] else if x.mode = 4 then [allFelt write] else let (a, b) := elemSpan f d.size d.total; [(a, b, write)]) ++
    (if x.mode = 4 then [(fld x.param 0 32, fld x.param 0 32 + 4 * d.total, false)] else [])
  (if d.hasSrc then side d.src (d.srcAddr felt) false else []) ++ (if d.hasDst then side d.dst (d.dstAddr felt) true else []) ++
  (if d.flag then [(d.flagoff, d.flagoff + 8, true)] else [])

/-- The bytes of a completion flag (R271). -/
def flagBytes (seq idx : Nat) : List Byte := leBytes 8 (2 ^ 63 + idx % 32 * 2 ^ 48 + seq % 2 ^ 48)

/-- A vat command's field word and its spaces (R304): 0 felt, 1 address, 2 none. -/
def vcIspace (bs : List Byte) : Nat := fld (leAt bs 0 4) 6 2
def vcOspace (bs : List Byte) : Nat := fld (leAt bs 0 4) 8 2
def vcOp (bs : List Byte) : Nat := fld (leAt bs 0 4) 0 4
def vcFlag (bs : List Byte) : Bool := bit (leAt bs 0 4) 4
def vcFence (bs : List Byte) : Bool := bit (leAt bs 0 4) 5
def vcHome (bs : List Byte) : Nat := leAt bs 8 8
def vcIn (bs : List Byte) : Nat := leAt bs 0x10 8
def vcOut (bs : List Byte) : Nat := leAt bs 0x18 8
def vcFlaga (bs : List Byte) : Nat := leAt bs 0x20 8
def vcP0 (bs : List Byte) : Nat := leAt bs 0x28 4
def vcP1 (bs : List Byte) : Nat := leAt bs 0x2C 4

/-- The felt intervals of a vat command (R317): each operand lies within 4 KiB. -/
def vcFeltSpans (bs : List Byte) : List (Nat × Nat × Bool) :=
  let blk := fun (a : Nat) (w : Bool) => (a, (a / 4096 + 1) * 4096, w)
  (if vcIspace bs = 0 then [blk (vcIn bs) false] else []) ++ (if vcOspace bs = 0 then [blk (vcOut bs) true] else []) ++
  (if vcFlag bs then [(vcFlaga bs, vcFlaga bs + 8, true)] else [])

/-- The felt intervals of what the hollander holds (R263): the whole felt until its bytes have been read. -/
def HolEntry.feltSpans (h : HolEntry) (felt : Mem) : List (Nat × Nat × Bool) :=
  if h.phase = .unread then [allFelt true] else if h.vcmd then vcFeltSpans h.bytes else (holDescOf h.bytes).feltSpans felt

/-- The felt intervals of an L slot (R70). -/
def lSpans (o : EngOp) : List (Nat × Nat × Bool) :=
  let d := deckleOf (slotDeck o.word)
  let g := fun i => (o.gv.getD i 0).toNat
  let w := decide (slotOp o.word = 1)
  (g 0, g 0 + (d.rows - 1) * g 1 + d.rowbytes, w) :: (if d.fmt.scaled then [(g 2, g 2 + d.scales, w)] else [])

/-- The felt intervals of a C slot. -/
def cSpans (o : EngOp) : List (Nat × Nat × Bool) :=
  (calDescOf o.desc).feltSpans (if cTally o.word = 0 then none else some (tallyOff (o.gv.getD 3 0)))

/-- Two intervals touch a common byte and one of them is written. -/
def spanHit (a b : Nat × Nat × Bool) : Bool := decide (a.1 < b.2.1) && decide (b.1 < a.2.1) && (a.2.2 || b.2.2)

/-- Felt intervals of every pending operation of a core that stands before (seq, pos, idx) (R262). -/
def Eng.earlierSpans (e : Eng) (seq pos idx : Nat) : List (Nat × Nat × Bool) :=
  let before := fun (q p i : Nat) => posBefore q p seq pos || (q == seq && p == pos && decide (i < idx))
  ((e.lq.filter (fun o => before o.seq o.pos 0)).flatMap lSpans) ++
  ((e.cq.filter (fun o => before o.seq o.pos 0)).flatMap cSpans) ++
  ((e.calDone.filter (fun o => before o.seq o.pos 0)).flatMap (fun o =>
    (if o.tally = 0 then [] else [(o.toff, o.toff + 32, true)]) ++ (match o.scup with | some (a, _) => [(a, a + 4, true)] | none => []) ++
    (match o.hist with | some (a, _) => [(a, a + 64, true)] | none => []))) ++
  ((e.yq.filter (fun o => (yOp o.word == 2 || yOp o.word == 3) && before o.seq o.pos 0)).map (fun _ => allFelt true)) ++
  ((e.hol.filter (fun h => before h.seq h.pos h.idx)).flatMap (fun h => h.feltSpans e.felt))

/-- An operation waits for an earlier one over felt bytes (R262). -/
def Eng.feltWaits (e : Eng) (seq pos idx : Nat) (mine : List (Nat × Nat × Bool)) : Bool :=
  let b := e.earlierSpans seq pos idx
  mine.any (fun a => b.any (spanHit a))

/-- A sheet waits for the sync unit: for the end of an earlier ESAVE or ERESTORE (R77, R78), or for an EWR that is in force for it (R243). -/
def Eng.syncWaits (e : Eng) (seq : Nat) : Bool :=
  e.yq.any (fun o =>
    ((yOp o.word == 2 || yOp o.word == 3) && seqBefore o.seq seq) ||
    (yOp o.word == 4 && !seqBefore seq ((o.seq + 4) % 2 ^ 48)))

end Sys2Proof.Machine
end

