-- ==== Sys2Proof/Machine/Headbox.lean ====
section
/-! DEFINITION. The headbox (R229 to R233, R191, R192): dispatch, run-ahead of wet sheets, drying with EBAR (R239), squash, and the release of slots to their unit queues with their checks and claims (R66, R72, R144). -/

namespace Sys2Proof.Machine

def yEnop : Nat := 0
def yEbar : Nat := 1
def yEsave : Nat := 2
def yErestore : Nat := 3
def yEwr : Nat := 4

/-- The slots hold an EBAR. -/
def hasEbar (slots : List Word) : Bool := slots.any (fun w => decide (slotUnit w = unitY ∧ yOp w = yEbar))

/-- A core's dispatch goes on: it runs, no debugger holds it, and the die has not tripped. -/
def State.dispatches (s : State) (k : Nat) : Bool :=
  decide ((s.core k).run = .running) && (!(s.core k).dbgHalt || (s.core k).dbgStep) && !s.tripped

/-- Fetch the words of a sheet (R188): the state after it, and the first fault's SUB and address; none where a word lies in a held window. -/
def State.fetchSheet (s : State) (k : Nat) (addr : Word) : Nat → Nat → Option (State × Option (Nat × Word))
  | 0, _ => some (s, none)
  | n + 1, i =>
    let va := addr + BitVec.ofNat 64 (4 * i)
    match s.fetch k va with
    | .later => none
    | .fault t sub => some (t, some (sub, va))
    | .ok t => t.fetchSheet k addr n (i + 1)

-- run-ahead

/-- What the check of a wet descriptor's source finds: its reads may start, a fault to hold, or that they wait until the sheet dries. -/
inductive WetRes where
  | ok
  | held (code : Nat) (va : Word)
  | no

/-- The engine fault code of a translation fault's SUB (R354). REGION is a fetch's alone. -/
def holCode (sub : Nat) : Nat :=
  let kd := sub % 16
  if kd = kindNomap ∨ kd = kindRsvd ∨ kd = kindRange then 0x63
  else if kd = kindWalkdev then 0x65
  else if kd = kindPoison then 0x68
  else 0x64

/-- A wet walk for an element (R231, R232): where it lies, a fault to hold, or that the reads wait: a table bit would have to be set, or it lies in a device region or a held window. -/
def State.wetPlace (s : State) (k va : Nat) (user : Bool) : State × WetRes × Nat :=
  match s.xlat k (BitVec.ofNat 64 va) .load user .wet true with
  | (s, .fault sub) => (s, .held (holCode sub) (BitVec.ofNat 64 va), 0)
  | (s, .later) => (s, .no, 0)
  | (s, .ok pa mt) =>
    let mem := match s.target pa with | .stack => true | .vat c off => (s.vat c).reaches off | _ => false
    (s, if mt = 2 ∨ mem = false ∨ s.waitsFor k (s.target pa) = true then .no else .ok, pa)

/-- The check of a wet descriptor's source, element by element, before any read of it starts (R232, R272). -/
def State.wetCheck (s : State) (k : Nat) (user : Bool) (f : Nat → Nat) : Nat → Nat → State × WetRes
  | 0, _ => (s, .ok)
  | n + 1, i =>
    match s.wetPlace k (f i) user with
    | (s, .ok, _) => s.wetCheck k user f n (i + 1)
    | (s, r, _) => (s, r)

/-- One wet read; a poisoned byte gives none. With STREAM its lines take the stream mark (R300). -/
def State.wetElem (s : State) (k va n : Nat) (user stream : Bool) : State × Option (List Byte) :=
  match s.wetPlace k va user with
  | (s, .ok, pa) =>
    let s := (if stream then s.streamMark k pa else s).strikeMem false k pa n
    let t := s.seenBy false k
    (s, if t.anyBad pa n then none else some (t.physRead pa n))
  | (s, _, _) => (s, none)

/-- The wet reads of a descriptor, element by element in logical order, as long as a free slot is left for each line of the next (R272): the data of the elements placed, with the lines they occupy; none where a read finds poison. Elements that follow in one line take one slot. `room`: slots left; `last`: the line before. -/
def State.wetElems (s : State) (k : Nat) (user stream : Bool) (f : Nat → Nat) (size : Nat) : Nat → Nat → Nat → Option Nat → State × Option (List (List Byte) × Nat)
  | 0, _, _, _ => (s, some ([], 0))
  | n + 1, i, room, last =>
    let lo := f i / 64
    let hi := (f i + size - 1) / 64
    let cost := if last = some lo then hi - lo else hi - lo + 1
    if room < cost then (s, some ([], 0))
    else
      match s.wetElem k (f i) size user stream with
      | (s, none) => (s, none)
      | (s, some bs) =>
        match s.wetElems k user stream f size n (i + 1) (room - cost) (some hi) with
        | (s, some (l, u)) => (s, some (bs :: l, u + cost))
        | r => r

/-- The lines that the wet reads of a core occupy, of 128 (R272). -/
def Eng.wetUse (e : Eng) : Nat := (((e.headbox.filter Sheet.wet).flatMap Sheet.reads).map WetRead.lines).sum

/-- The stage buffers that the data read ahead occupies (R12): that of wet sheets, of dry sheets whose H slot has not left the headbox, and of the hollander's descriptors, of which an element takes one buffer at most. -/
def Eng.stageUse (e : Eng) : Nat :=
  e.wetUse + (((e.headbox.filter (fun h => !h.wet && (h.slots.drop h.gone).any (fun x => slotUnit x.word == unitH))).flatMap Sheet.reads).map WetRead.lines).sum +
    (e.hol.map (fun h => match h.stage with | some w => Nat.min w.lines w.data.length | none => 0)).sum

/-- Prefetch hints for the lines that a wet descriptor could not place, `lines` of them at most, while they are cacheable (R273). -/
def State.wetHints (s : State) (k : Nat) (user : Bool) (f : Nat → Nat) : Nat → Nat → Nat → Option Nat → State
  | 0, _, _, _ => s
  | n + 1, i, lines, last =>
    let line := f i / 64
    if lines = 0 then s
    else if last = some line then s.wetHints k user f n (i + 1) lines last
    else
      match s.xlat k (BitVec.ofNat 64 (f i)) .load user .wet true with
      | (s, .ok pa mt) =>
        if mt ≠ 0 ∨ s.stackLineOk (pa / 64) = false then s
        else (s.fillLine (clusterOf k) (pa / 64) .hint .clean).wetHints k user f n (i + 1) (lines - 1) (some line)
      | (s, _) => s

/-- The remote reads that the core's hollander has outstanding or not yet used. -/
def State.farReads (s : State) (k : Nat) : Nat := (s.dln.reqs.filter (fun r => r.core == k && !r.write && r.desc.isSome)).length

/-- Run-ahead of the descriptor at felt offset `off`, with `room` read slots and stage buffers left for it (R272, R273). -/
def State.wetDesc (s : State) (k off : Nat) (user first : Bool) (room : Nat) : State × Option WetRead :=
  let e := s.eng k
  let bs := e.felt.readN off 64
  let d := holDescOf bs
  let fenceMet := !d.fence || (first && e.hol.isEmpty && !(e.headbox.any (fun h => h.slots.any (fun x => slotUnit x.word == unitH))))
  if feltSize < off + 64 ∨ (holCheck off e.felt d).isSome = true ∨ d.op ≠ hopCopy ∨ d.src.space ≠ 1 ∨ d.src.mode = 4 ∨ d.dst.mode = 4 ∨
      d.dst.space = 2 ∨ fenceMet = false then (s, none)
  else
    let u := user || d.uperm
    let f := d.srcAddr e.felt
    match s.wetCheck k u f d.total 0 with
    | (s, .no) => (s, none)
    | (s, .held c a) => (s, some ⟨off, bs, [], 0, some (c, a)⟩)
    | (s, .ok) =>
      match s.wetElems k u d.stream f d.size d.total 0 room none with
      | (s, none) => (s, none)
      | (s, some (l, n)) =>
        let m := l.length
        let s := if m < d.total ∧ ((s.core k).actReg HOL_CFG).getLsbD 1 = true then
            s.wetHints k u f (Nat.min (d.total - m) 16384) m 256 (if m = 0 then none else some ((f (m - 1) + d.size - 1) / 64)) else s
        (s, if l.isEmpty then none else some ⟨off, bs, l, n, none⟩)

/-- The read slots and stage buffers that are left for wet reads, `use` of them taken since (R12, R272): 128 for all wet descriptors, and never the last of the 256 buffers, so that dry reads go on (log 55). -/
def State.wetRoom (s : State) (k use : Nat) : Nat :=
  let e := s.eng k
  Nat.min (128 - (e.wetUse + use)) (255 - (e.stageUse + s.farReads k + use))

/-- Run-ahead of the descriptors of a wet HMV slot. -/
def State.wetDescs (s : State) (k off : Nat) (user : Bool) : Nat → Bool → List WetRead → State × List WetRead
  | 0, _, acc => (s, acc)
  | n + 1, first, acc =>
    match s.wetDesc k off user first (s.wetRoom k (acc.map WetRead.lines).sum) with
    | (s, some r) => s.wetDescs k (off + 64) user n false (acc ++ [r])
    | (s, none) => s.wetDescs k (off + 64) user n false acc

/-- The reads that a sheet starts while it is wet (R231, R232, R272): of its HMV slot, unless an EBAR before it has not completed. -/
def State.runAhead (s : State) (k : Nat) (slots : List Word) (hval : Word) : State × List WetRead :=
  let c := s.core k
  match slots.find? (fun w => decide (slotUnit w = unitH ∧ slotOp w = 0)) with
  | some w =>
    if !(c.actReg HOL_CFG).getLsbD 0 || c.eng.headbox.any (fun h => h.wet && hasEbar (h.slots.map Slot.word)) then (s, [])
    else s.wetDescs k hval.toNat (!c.sup) (hNdesc w) true []
  | none => (s, [])

-- dispatch, drying, squash

/-- A sheet enters the headbox wet (R229, R230). -/
def State.enterWet (s : State) (k : Nat) (addr : Word) (slots : List Word) (hval : Word) (ahead : Bool) : State :=
  let (s, reads) := if ahead then s.runAhead k slots hval else (s, [])
  s.updEng k (fun e =>
    { e with
      headbox := e.headbox ++ [⟨e.nextSeq, addr, true, slots.length, 0, slots.map (fun w => ⟨w, []⟩), hval, !(s.core k).sup, [], reads⟩],
      nextSeq := (e.nextSeq + 1) % 2 ^ 48 })

/-- SHEET_DISPATCH (R188 to R190, R229, R230). A sheet that cannot be fetched or decoded raises its exception once everything before it has retired; on a service core, which has no engines, an engine slot is an encoding error (R397). -/
def State.dispatchSheet (s : State) (k : Nat) (addr : Word) (slots : List Word) (hval : Word) (ahead : Bool) : State :=
  let e := s.eng k
  let oldest := decide (addr = (s.core k).pc) && !e.headbox.any Sheet.wet && s.canRun k
  if !s.dispatches k || !sheetForm slots || addr.getLsbD 0 || addr.getLsbD 1 then s
  else
    match s.fetchSheet k addr (2 * slots.length) 0 with
    | none => s
    | some (t, some (sub, va)) => if oldest then t.takeException k excIfetch sub false va addr none else s
    | some (s, none) =>
      if 36 ≤ k ∨ sheetBad slots = true then (if oldest then s.takeException k excIllegal 0 false 0 addr none else s)
      else if 256 ≤ e.headbox.length ∨ 64 ≤ (e.headbox.filter Sheet.wet).length then s
      else s.enterWet k addr slots hval ahead

def execSheetDispatch (k : Nat) (addr : Word) (slots : List Word) (hval : Word) (runAhead : Bool) (s : State) : Out :=
  if k < 40 then .next (s.dispatchSheet k addr slots hval runAhead) else .fault .noSuchUnit

/-- Every engine operation that has left the headbox has completed (R239). -/
def Eng.drained (e : Eng) : Bool :=
  e.lq.isEmpty && e.mq.isEmpty && e.cq.isEmpty && e.yq.isEmpty && e.hol.isEmpty && e.calDone.isEmpty

/-- What an EBAR waits for (R239): the engine work of earlier sheets, of which slots held by a fault record do not count, and every earlier store. -/
def State.ebarReady (s : State) (k : Nat) : Bool :=
  let c := s.core k
  c.eng.drained && (c.frecValid || !c.eng.headbox.any (fun h => !h.wet)) && !s.storesOpen k

/-- A slot captures its registers at drying; an H slot's capture was made at its place in program order, which gives the same value (R194). -/
def dryRegs (c : Core) (x : Slot) : Slot := { x with gv := (slotRegs x.word).map c.greg }

/-- The oldest wet sheet dries and retires (R194, R218, R230): its slots capture their registers, and a C slot the V registers. One that DISCARD has emptied leaves at once (R238). -/
def State.dry (s : State) (k : Nat) (h : Sheet) : State :=
  let c := s.core k
  let hasC := h.slots.any (fun x => slotUnit x.word == unitC)
  let h' : Sheet := { h with wet := false, slots := h.slots.map (dryRegs c), user := !c.sup, vcap := if hasC then c.v else [] }
  let f := fun (e : Eng) =>
    { e with headbox := if h.slots.isEmpty then e.headbox.filter (fun x => x.seq != h.seq) else e.headbox.map (fun x => if x.seq = h.seq then h' else x),
             nextDry := (h.seq + 1) % 2 ^ 48 }
  let s := s.updCore k (fun c => { c with pc := c.pc + BitVec.ofNat 64 (8 * h.nslots), dbgStep := false, eng := f c.eng })
  (s.event k 0x02 1).event k 0x03 1

/-- SHEET_DRY (R230, R239): the sheet at the pc retires; one that holds an EBAR waits, and raises ENGINE while a fault is recorded, but in supervisor mode with EE at 0. -/
def State.drySheet (s : State) (k : Nat) : State :=
  let c := s.core k
  match c.eng.headbox.find? Sheet.wet with
  | none => s
  | some h =>
    if !s.canRun k || h.addr != c.pc then s
    else if hasEbar (h.slots.map Slot.word) then
      if !s.ebarReady k then s
      else if c.frecValid && !(c.sup && !c.ee) then s.takeException k excEngine 0 false 0 h.addr none
      else s.dry k h
    else s.dry k h

def execSheetDry (k : Nat) (s : State) : Out := guardUnit (isSlot k) (s.drySheet k)

/-- SHEET_SQUASH (R233): a control transfer proves wrong; every wet sheet goes. -/
def execSheetSquash (k : Nat) (s : State) : Out := guardUnit (isSlot k) (s.squash k)

-- release

/-- Put a slot into its unit queue. -/
def Eng.enqueue (e : Eng) (o : EngOp) : Eng :=
  let u := slotUnit o.word
  if u = unitL then { e with lq := e.lq ++ [o] }
  else if u = unitM then { e with mq := e.mq ++ [o] }
  else if u = unitC then { e with cq := e.cq ++ [o] }
  else { e with yq := e.yq ++ [o] }

/-- The entries that an H slot gives the hollander (R195, R265, R304), with the run-ahead data of their descriptors. -/
def holEntries (h : Sheet) (pos : Nat) (x : Slot) : List HolEntry :=
  let g := (x.gv.headD 0).toNat
  (List.range (hNdesc x.word)).map (fun i =>
    { seq := h.seq, pos := pos, idx := i, off := (g + 64 * i) % 2 ^ 64, vcmd := decide (slotOp x.word = 1), user := h.user, bytes := [],
      phase := .unread, outstanding := 0, written := 0, stage := h.reads.find? (fun r => r.off == (g + 64 * i) % 2 ^ 64) })

/-- The unit queue of a slot has room (R12). -/
def Eng.queueRoom (e : Eng) (w : Word) : Bool :=
  let u := slotUnit w
  if u = unitH then decide (e.hol.length + hNdesc w ≤ 32)
  else if u = unitL then decide (e.lq.length < 16)
  else if u = unitM then decide (e.mq.length < 8)
  else if u = unitC then decide (e.cq.length < 16)
  else decide (e.yq.length < 4)

/-- The tile claims of a slot (R66, R150). -/
def slotClaims (o : EngOp) : List Claim :=
  let u := slotUnit o.word
  let k := deckleOf (slotDeck o.word)
  let t := slotTile o.word
  if u = unitL then tileClaims o k t (decide (slotOp o.word = 0))
  else if u = unitM ∧ slotOp o.word ≤ 1 then tileClaims o k t false
  else if u = unitC then
    let d := calDescOf o.desc
    (if d.tileIn then tileClaims o k t false else []) ++ (if d.tileOut then tileClaims o k t true else [])
  else []

/-- The faults that a slot's check finds when it leaves the headbox (R72, R181). -/
def State.slotChecks (s : State) (k : Nat) (o : EngOp) : List Found :=
  let u := slotUnit o.word
  let g := fun i => (o.gv.getD i 0).toNat
  if u = unitL then lChecks o.word (g 0) (g 1) (g 2)
  else if u = unitM then mChecks o.word o.gv
  else if u = unitC then cChecks o.word o.gv o.desc ((s.millReg MILL_STEST).getLsbD k)
  else if u = unitY then yChecks o.word o.gv
  else []

/-- The descriptor of a C slot can be read: no earlier operation still writes its bytes, and every earlier C operation whose outputs overlap them has completed (R144, R262). -/
def Eng.descReady (e : Eng) (seq pos off : Nat) : Bool :=
  let d := (off, off + 256, false)
  !e.feltWaits seq pos 0 [d] && !(e.calDone.filter (fun o => posBefore o.seq o.pos seq pos)).any (fun o => o.spans.any (spanHit d))

/-- The oldest slot of the front sheet has left. -/
def Eng.slotGone (e : Eng) : Eng :=
  match e.headbox with
  | [] => e
  | h :: t => { e with headbox := if h.gone + 1 = h.slots.length then t else { h with gone := h.gone + 1 } :: t }

/-- SLOT_RELEASE (R192, R236): the next slot in order leaves the headbox. A slot whose check fails takes no place and no claim (R73); one without room, or without room for its claims, stays. -/
def State.releaseSlot (s : State) (k : Nat) : State :=
  let c := s.core k
  let e := c.eng
  match e.headbox with
  | [] => s
  | h :: _ =>
    match h.slots[h.gone]? with
    | none => s
    | some x =>
      let u := slotUnit x.word
      let off := (x.gv.headD 0).toNat
      if h.wet || c.frecHold then s
      else if u = unitC ∧ e.descReady h.seq h.gone off = false then s
      else
        let readable := decide (u = unitC ∧ off % 64 = 0 ∧ off + 256 ≤ feltSize)
        let s := if readable then s.strike (fun l => match l with | .felt j u => j == k && decide (off / 8 ≤ u) && decide (u < off / 8 + 32) | _ => false) else s
        let e := s.eng k
        let desc := if readable then e.felt.readN off 256 else []
        let o : EngOp := { bad := if readable then badUnit e.feltBad off 256 else none, seq := h.seq, pos := h.gone, word := x.word, gv := x.gv, user := h.user, vcap := if u = unitC then h.vcap else [], desc := desc }
        match lowest (s.slotChecks k o) with
        | some (code, detail) => (s.updEng k Eng.slotGone).engFault k ⟨o.seq, o.pos, 0, u, code, 0, detail⟩
        | none =>
          let cl := slotClaims o
          if !e.queueRoom x.word || !e.claimRoom cl then s
          else if u = unitH then s.updEng k (fun e => { e.slotGone with hol := e.hol ++ holEntries h h.gone x })
          else s.updEng k (fun e => ({ e.slotGone with claims := e.claims ++ cl }).enqueue o)

def execSlotRelease (k : Nat) (s : State) : Out := guardUnit (isSlot k) (s.releaseSlot k)

-- producers that wait

/-- The first store that waits for room and can go on now (R12, R13, R379): the stores that wait for a slice queue stay in their order, and so do those that wait for a bucket; one that waits for a held window goes when that is free (R440). -/
def State.resumeFrom (s : State) : List Waiter → List Waiter → Option State
  | _, [] => none
  | done, w :: ws =>
    let rest := { s with waiters := done ++ ws }
    match w with
    | .window ag c sl _ m t =>
      if s.windowRoom ag c sl t && !done.any (Waiter.atSlice c sl) then some (rest.vatPut c sl m) else s.resumeFrom (done ++ [w]) ws
    | .bucket _ b true => if rest.bktHeld b then s.resumeFrom (done ++ [w]) ws else some (rest.bktPostRet b)
    | .bucket _ b false =>
      if done.any Waiter.atBucket then s.resumeFrom (done ++ [w]) ws
      else match rest.bktPost b with
        | some t => some t
        | none => s.resumeFrom (done ++ [w]) ws

/-- QUEUE_RESUME (R13). -/
def execQueueResume (s : State) : Out := .next ((s.resumeFrom [] s.waiters).getD s)

/-- The felt bytes of the descriptors that a slot reads. -/
def descSpans (x : Slot) : List (Nat × Nat × Bool) :=
  let u := slotUnit x.word
  let g := (x.gv.headD 0).toNat
  if u = unitH then (List.range (hNdesc x.word)).map (fun i => (g + 64 * i, g + 64 * i + 64, false))
  else if u = unitC then [(g, g + 256, false)]
  else []

/-- The felt bytes that a slot in the headbox names; all of them where something before it has still to write its descriptors (`w`: what that writes). -/
def Eng.slotSpans (e : Eng) (w : List (Nat × Nat × Bool)) (x : Slot) : List (Nat × Nat × Bool) :=
  let u := slotUnit x.word
  let g := (x.gv.headD 0).toNat
  if (descSpans x).any (fun a => w.any (spanHit a)) then [allFelt true]
  else if u = unitH then
    (List.range (hNdesc x.word)).flatMap (fun i =>
      let bs := e.felt.readN (g + 64 * i) 64
      if slotOp x.word = 1 then vcFeltSpans bs else (holDescOf bs).feltSpans e.felt)
  else if u = unitL then lSpans ⟨0, 0, x.word, x.gv, false, [], [], none, none⟩
  else if u = unitC then cSpans ⟨0, 0, x.word, x.gv, false, [], e.felt.readN g 256, none, none⟩
  else if u = unitY ∧ yOp x.word = yEsave then [allFelt true]
  else []

/-- Some of the slots, in order, may post a summary: a C slot whose descriptor says so, or whose first word something before it has still to write (R172). `w`: the felt bytes that what stands before them names. -/
def Eng.slotsSum (e : Eng) : List (Nat × Nat × Bool) → List Slot → Bool
  | _, [] => false
  | w, x :: xs =>
    let off := (x.gv.headD 0).toNat
    (slotUnit x.word == unitC && (bit (e.felt.readLE off 4) 6 || w.any (spanHit (off, off + 4, false)))) || e.slotsSum (w ++ e.slotSpans w x) xs

/-- The slots that dry sheets still have in the headbox, in order. -/
def Eng.drySlots (e : Eng) : List Slot := (e.headbox.filter (fun h => !h.wet)).flatMap (fun h => h.slots.drop h.gone)

/-- An earlier sheet that has dried holds an operation with SUMQ = 1 that has not posted (R172): it waits to complete, waits to run, or is still in the headbox. -/
def Eng.sumPending (e : Eng) : Bool :=
  e.calDone.any (fun d => d.sum.isSome) || e.cq.any (fun o => bit (leAt o.desc 0 4) 6) ||
  (match e.headbox with
  | h :: _ => e.slotsSum (e.earlierSpans h.seq h.gone 0 ++ e.calDone.flatMap CalDone.spans) e.drySlots
  | [] => false)

/-- CSUM (R172). -/
def bodyCsum (k : Nat) (d : Reg) (s : State) : Res (Option Word) :=
  let e := s.eng k
  if 28 < d.toNat ∨ isSlot k = false then raise s excIllegal
  else
    match e.sums with
    | m :: ms =>
      let w0 : Word := BitVec.ofNat 64 (m.seq % 2 ^ 48 + b2n m.anyNan * 2 ^ 62)
      .ok (s.updCore k (fun c =>
        let c := { c with eng := { c.eng with sums := ms } }
        (((c.setG d.toNat w0).setG (d.toNat + 1) (BitVec.ofNat 64 m.count)).setG (d.toNat + 2) m.sum).setG (d.toNat + 3) m.max)) none
    | [] => if e.sumPending then .wait else .ok (s.setG k d 0x8000000000000000) none

def execCsum (k : Nat) (d : Reg) (s : State) : Out := s.instr k (bodyCsum k d)

end Sys2Proof.Machine
end

