-- ==== Sys2Proof/Machine/Matrix.lean ====
section
/-! DEFINITION. The L and M units: TLD and TST (R69, R70), B preloads (R82, R83), MMAs with their exact arithmetic (R86 to R96, R111 to R127), and split-K chains (R103 to R110). -/

namespace Sys2Proof.Machine

-- tile load and store

/-- The first slot of the L queue can run: its tile claims and felt bytes are free, and the sync unit does not hold its sheet (R65, R77, R262). -/
def State.lReady (s : State) (k op : Nat) : Option EngOp :=
  let e := s.eng k
  match e.lq with
  | o :: _ =>
    if slotOp o.word ≠ op ∨ e.claimed o.seq o.pos = true ∨ e.syncWaits o.seq = true ∨ e.feltWaits o.seq o.pos 0 (lSpans o) = true then none
    else some o
  | [] => none

/-- The first slot of the L queue ends. -/
def Eng.lDone (e : Eng) (o : EngOp) : Eng := { e with lq := e.lq.drop 1 }.unclaim o.seq o.pos

/-- The felt bytes of row `r` and of the scale array of an L slot (R70): (felt offset, tile offset, bytes). -/
def lMoves (o : EngOp) : List (Nat × Nat × Nat) :=
  let d := deckleOf (slotDeck o.word)
  let g := fun i => (o.gv.getD i 0).toNat
  let t := slotTile o.word * 32768
  (List.range d.rows).map (fun r => (g 0 + r * g 1, t + r * d.rowbytes, d.rowbytes)) ++ (if d.fmt.scaled then [(g 2, t + d.body, d.scales)] else [])

/-- TLD (R69, R70): felt bytes go to the footprint, rows in ascending order. -/
def State.tileLoad (s : State) (k : Nat) : State :=
  match s.lReady k 0 with
  | none => s
  | some o =>
    let s := s.strikeFelt k ((lMoves o).map (fun (f, _, n) => (f, n)))
    let e := s.eng k
    let bad := (lMoves o).flatMap (fun (f, _, n) => e.feltPoison f n)
    let s := s.updEng k (fun e => ((lMoves o).foldl (fun e (f, t, n) => e.writeTile t (e.felt.readN f n)) e).lDone o)
    s.opFault k o.seq o.pos unitL 0 0 (bad.take 1)

/-- TST (R69, R70): the footprint goes to the felt, rows in ascending order. -/
def State.tileStore (s : State) (k : Nat) : State :=
  match s.lReady k 1 with
  | none => s
  | some o =>
    let s := s.strike (ownReads k [] ((lMoves o).map (fun (_, t, n) => (t, n))) [] [])
    let e := s.eng k
    let bad := (lMoves o).flatMap (fun (_, t, n) => e.tilePoison t n)
    let s := s.updEng k (fun e => ((lMoves o).foldl (fun e (f, t, n) => e.writeFelt f (e.tiles.readN t n)) e).lDone o)
    s.opFault k o.seq o.pos unitL 0 0 (bad.take 1)

def execTld (k : Nat) (s : State) : Out := guardUnit (isSlot k) (s.tileLoad k)
def execTst (k : Nat) (s : State) : Out := guardUnit (isSlot k) (s.tileStore k)

-- B buffers

/-- A B buffer by its index. -/
def Eng.buf (e : Eng) (i : Bool) : BBuf := if i then e.b1 else e.b0

def Eng.setBuf (e : Eng) (i : Bool) (b : BBuf) : Eng := if i then { e with b1 := b } else { e with b0 := b }

/-- Bytes [a, a + n) of a memory, moved to offset 0. -/
def Mem.cut (m : Mem) (a n : Nat) : Mem := (m.filter (fun p => decide (a ≤ p.1) && decide (p.1 < a + n))).map (fun p => (p.1 - a, p.2))

/-- Units of a B buffer in the mark table. -/
def bUnit (i : Bool) : Nat := if i then 65536 else 0

/-- Blocks that a CHOUT sends (R104): none outside rows 0 to 127. -/
def choutTotal (w : Word) : Nat := Nat.min (mNblk w) (4 - mBlk0 w)

/-- The slots of the M queue that stand before the first one of an operation, and that one (R100). -/
def splitAtOp (op : Nat) : List EngOp → Option (List EngOp × EngOp)
  | [] => none
  | o :: os =>
    if slotOp o.word = op then some ([], o)
    else match splitAtOp op os with
      | some (b, x) => some (o :: b, x)
      | none => none

/-- Take an operation out of the M queue and release its claims. -/
def Eng.mDone (e : Eng) (o : EngOp) : Eng := { e with mq := e.mq.filter (fun x => !(x.seq == o.seq && x.pos == o.pos)) }.unclaim o.seq o.pos

/-- An MMA that stands before a BLD has started (R83): only the first one of the queue can have. -/
def mmasStarted (e : Eng) (before : List EngOp) : Bool :=
  let n := (before.filter (fun o => slotOp o.word == 1)).length
  n == 0 || (n == 1 && e.mrun.isSome)

/-- BLD (R82, R83): the footprint goes to the buffer that is not active, which then holds a waiting operand; the rest of the buffer is empty, and ESAVE saves it as zero (log 79). -/
def State.preload (s : State) (k : Nat) : State :=
  let e := s.eng k
  match splitAtOp 0 e.mq with
  | none => s
  | some (before, o) =>
    if mmasStarted e before = false ∨ e.claimed o.seq o.pos = true ∨ e.syncWaits o.seq = true ∨ s.tripped = true then s
    else
      let d := deckleOf (slotDeck o.word)
      let t := slotTile o.word * 32768
      let s := s.strike (ownReads k [] [(t, d.size)] [] [])
      let e := s.eng k
      let i := !e.bActive
      let f := fun (e : Eng) =>
        ({ e.setBuf i ⟨true, slotDeck o.word, Mem.cut e.tiles t d.size⟩ with
           bWait := true, bBad := e.bBad.filter (fun p => !(decide (bUnit i ≤ p.1) && decide (p.1 < bUnit i + 65536))) }).mDone o
      (s.updEng k f).opFault k o.seq o.pos unitM 0 0 (e.tilePoison t d.size)

def execBld (k : Nat) (s : State) : Out := guardUnit (isSlot k) (s.preload k)

-- the arithmetic of a pass

/-- The kind of a pass (R86). -/
inductive PassKind where
  | floating
  | fp64
  | integer
deriving DecidableEq, Repr

/-- A format of an integer pass. -/
def passInt (f : Fmt) : Bool := f == .i4 || f == .i8 || f == .u8 || f == .i16

/-- The kind of a pair of formats, none when it is rejected (R86). -/
def passKind (a b : Fmt) : Option PassKind :=
  if passInt a ∧ passInt b then some .integer
  else if a = .fp64 ∧ b = .fp64 then some .fp64
  else if a = .fp64 ∨ b = .fp64 ∨ a = .i32 ∨ b = .i32 then none
  else some .floating

/-- The flags that an MMA may set, of those that a rounding reports (R38). -/
def mmaFlags (f : Flags) : Flags := { inv := f.inv, ovf := f.ovf, flushed := f.flushed, unf := f.flushed }

/-- One rounding to nearest even, with FTZ of R94. -/
def flRound (f : Fmt) (ftz : Bool) (v : FV) : FV × Flags :=
  let c := convF f .nearest ftz v
  (if c.nan then FV.dnan else decodeF f.info c.bits, mmaFlags c.flags)

/-- One addition of R91 and R115: the exact sum rounded once. -/
def flAdd (f : Fmt) (ftz : Bool) (x y : FV) : FV × Flags :=
  let (v, fl) := addFV .nearest x y
  let (r, fl2) := flRound f ftz v
  (r, (mmaFlags fl).or fl2)

/-- A product, of which a NaN or 0 × ∞ is NaN (R88). -/
def product (a b : FV) : FV × Flags := let (v, f) := mulFV a b; (v, mmaFlags f)

/-- The magnitude of a product in units of 2^u, and whether bits below are lost (R89). -/
def windowed (u : Int) : FV → Int × Bool
  | .fin n m e =>
    let (a, st) : Nat × Bool := if u ≤ e then (m * 2 ^ (e - u).toNat, false) else (m >>> (u - e).toNat, decide (m % 2 ^ (u - e).toNat ≠ 0))
    (if n then -(a : Int) else a, st)
  | _ => (0, false)

/-- The greatest exponent of the non-zero products. -/
def topExp : List FV → Option Int
  | [] => none
  | .fin _ m e :: ps =>
    if m = 0 then topExp ps
    else match topExp ps with
      | some x => some (Max.max (Nat.log2 m + e) x)
      | none => some (Nat.log2 m + e)
  | _ :: ps => topExp ps

/-- The quire sum of R89 with round_fp32 or round_fp64 of R90: the window is 48 or 112 bits. The sticky bit stands far below the window, so that it decides a tie and nothing else. -/
def quireSum (f : Fmt) (ftz : Bool) (ps : List FV) : FV × Flags :=
  let win : Int := if f = .fp64 then 112 else 48
  let pInf := ps.any (fun p => p.isInf && !p.neg)
  let nInf := ps.any (fun p => p.isInf && p.neg)
  if ps.any FV.isNan then (FV.dnan, { inv := pInf && nInf })
  else if pInf && nInf then (FV.dnan, { inv := true })
  else if pInf then (.inf false, {})
  else if nInf then (.inf true, {})
  else
    match topExp ps with
    | none => (.fin (ps.all FV.neg) 0 0, {})
    | some top =>
      let u := top - (win - 1)
      let (sum, st) := ps.foldl (fun (a, b) p => let (x, t) := windowed u p; (a + x, b || t)) ((0 : Int), false)
      if sum = 0 then (FV.zero, {})
      else flRound f ftz (.fin (decide (sum < 0)) (sum.natAbs * 2 ^ 200 + b2n st) (u - 200))

/-- The balanced pairwise tree of R91. `fuel`: levels. -/
def pairTree (f : Fmt) (ftz : Bool) : Nat → List FV → Flags → FV × Flags
  | 0, l, fl => (l.headD FV.zero, fl)
  | n + 1, l, fl =>
    let rec up : List FV → Flags → List FV × Flags
      | a :: b :: t, g => let (v, h) := flAdd f ftz a b; let (r, g) := up t (g.or h); (v :: r, g)
      | r, g => (r, g)
    let (m, fl) := up l fl
    pairTree f ftz n m fl

/-- The pass result T of one row of A and one column of B (R88 to R95). -/
def passResult (f : Fmt) (ftz : Bool) (a b : List FV) : FV × Flags :=
  let ps := (a.zip b).map (fun (x, y) => product x y)
  let fl := ps.foldl (fun g p => g.or p.2) ({} : Flags)
  let qs := (List.range 8).map (fun q => quireSum f ftz (((ps.drop (16 * q)).take 16).map Prod.fst))
  let fl := qs.foldl (fun g p => g.or p.2) fl
  pairTree f ftz 3 (qs.map Prod.fst) fl

/-- The exact sum of an integer pass (R96). -/
def intResult (a b : List Int) : Int := (a.zip b).foldl (fun s (x, y) => s + x * y) 0

-- ream elements

/-- A ream's elements: key of element (r, c). -/
def reamKey (ream r c : Nat) : Nat := ream * 65536 + r * 512 + c

def Eng.reamElem (e : Eng) (ream r c : Nat) : Nat × Nat := ((Tab.get 0 e.reamW (reamKey ream r c)).toNat, (Tab.get 0 e.reamC (reamKey ream r c)).toNat)

def Eng.setReam (e : Eng) (ream r c : Nat) (w x : Nat) : Eng :=
  { e with reamW := Tab.set 0 e.reamW (reamKey ream r c) (BitVec.ofNat 32 w), reamC := Tab.set 0 e.reamC (reamKey ream r c) (BitVec.ofNat 32 x) }

/-- The encoding of a value that is exact in the format; NaN is the default NaN (R52, R125). -/
def bitsOf (f : Fmt) (v : FV) : Nat := if v.isNan then f.info.nanBits else (convF f .nearest false v).bits

/-- An FP32 encoding as a value. -/
def f32 (b : Nat) : FV := decodeF Fmt.fp32.info b

/-- two_sum of R116. -/
def twoSum (ftz : Bool) (x y : FV) : FV × FV × Flags :=
  let (t, _) := addFV .nearest x y
  let (s, fl) := flAdd .fp32 ftz x y
  if s.isNan || s.isInf then (s, FV.zero, fl)
  else
    let (d, _) := subFV .nearest t s
    let (e, fl2) := flRound .fp32 ftz d
    (s, if e.isZero then FV.zero else e, fl.or fl2)

/-- What one element becomes: its two planes, the flags raised, and whether it saturated. -/
structure ElemOut where
  w : Nat
  c : Nat
  flags : Flags
  sat : Bool
deriving DecidableEq, Repr

/-- Plain mode (R115). -/
def plainElem (ftz add : Bool) (w c : Nat) (t : FV) (fl : Flags) : ElemOut :=
  if !add then ⟨bitsOf .fp32 t, 0, fl, false⟩
  else
    let (v, f1) := if (f32 c).isZero then (f32 w, ({} : Flags)) else flAdd .fp32 ftz (f32 w) (f32 c)
    let (r, f2) := flAdd .fp32 ftz v t
    ⟨bitsOf .fp32 r, 0, (fl.or f1).or f2, false⟩

/-- Total mode (R117). -/
def totalElem (ftz add endRun : Bool) (w c : Nat) (t : FV) (fl : Flags) : ElemOut :=
  let (wv, cv, fl) : FV × FV × Flags :=
    if !add then (t, FV.zero, fl)
    else
      let (s, e, f1) := twoSum ftz (f32 w) t
      if s.isNan || s.isInf then (s, FV.zero, fl.or f1)
      else let (x, f2) := flAdd .fp32 ftz (f32 c) e; (s, x, (fl.or f1).or f2)
  if endRun then
    let (s, e, f3) := twoSum ftz wv cv
    ⟨bitsOf .fp32 s, bitsOf .fp32 e, fl.or f3, false⟩
  else ⟨bitsOf .fp32 wv, bitsOf .fp32 cv, fl, false⟩

/-- An FP64 pass (R113, R123). -/
def wideElem (ftz add : Bool) (w c : Nat) (t : FV) (fl : Flags) : ElemOut :=
  let (r, f1) := if add then flAdd .fp64 ftz (decodeF Fmt.fp64.info (w * 2 ^ 32 + c)) t else (t, ({} : Flags))
  let b := bitsOf .fp64 r
  ⟨b / 2 ^ 32, b % 2 ^ 32, fl.or f1, false⟩

/-- An integer pass (R96, R124). -/
def intElem (saturate add : Bool) (w : Nat) (t : Int) : ElemOut :=
  let r := narrowI .i32 saturate (if add then sext 32 w + t else t)
  ⟨r.bits, 0, { satc := r.sat }, r.sat⟩

/-- Count one written element (R126). -/
def Counts.addReam (n : Counts) (kind : PassKind) (o : ElemOut) : Counts :=
  let v := match kind with
    | .fp64 => decodeF Fmt.fp64.info (o.w * 2 ^ 32 + o.c)
    | .floating => f32 o.w
    | .integer => FV.ofInt (sext 32 o.w)
  let zero := match kind with | .floating => (f32 o.w).isZero && (f32 o.c).isZero | _ => v.isZero
  { n with sat := n.sat + b2n o.sat, flush := n.flush + b2n o.flags.flushed, nan := n.nan + b2n v.isNan, inf := n.inf + b2n v.isInf,
           zero := n.zero + b2n zero, elems := n.elems + 1 }

-- an MMA

/-- The index and operand that an MMA uses, its swap made or not (R84). -/
def Eng.mmaBuf (e : Eng) (w : Word) : Bool := if mSwap w && e.bWait then !e.bActive else e.bActive

/-- The faults that an MMA's start finds (R72, R73): SHP_PAIR, SHP_KMATCH, SHP_NOB, SHP_SROW. -/
def Core.mmaStartFaults (c : Core) (o : EngOp) : List Found :=
  let e := c.eng
  let a := deckleOf (slotDeck o.word)
  let b := e.buf (e.mmaBuf o.word)
  let d := deckleOf b.deckle
  let sr := (c.modeReg rselSrow o.seq).toNat
  (if !b.loaded then [(0x29, 0)]
   else (if (passKind a.fmt d.fmt).isNone then [(0x23, 0)] else []) ++ (if a.epr ≠ d.rows then [(0x28, 0)] else [])) ++
  (if mSrow o.word && bit sr 15 && decide (a.rows ≤ fld sr 0 7) then [(0x2A, 0)] else [])

/-- An MMA starts (R75, R84, R119): it swaps, takes its start row, and fixes end_of_run. The ream's run counter changes when it completes (R120). -/
def Core.mmaStart (c : Core) (o : EngOp) : Core :=
  let c := if mSrow o.word then c.settle rselSrow o.seq else c
  let sr := (c.reg ENG_SROW).toNat
  let row := if mSrow o.word && bit sr 15 then fld sr 0 7 else 0
  let c := if mSrow o.word then c.setReg ENG_SROW (c.reg ENG_SROW &&& ~~~0x8000) else c
  let e := c.eng
  let n := if mAcc o.word then Tab.get 0 e.runs (mReam o.word) + 1 else 1
  let swap := mSwap o.word && e.bWait
  { c with eng := { e with
      bActive := if swap then !e.bActive else e.bActive, bWait := if swap then false else e.bWait,
      mrun := some ⟨row, n, decide (mRun o.word ≤ n), {}, 0, none⟩ } }

/-- What fixes the values of an MMA's elements: the slot, its numeric mode, its operands, and where its old values come from. -/
structure MmaCtx where
  kind : PassKind
  ftz : Bool
  dsat : Bool
  slot : Word
  a : Deckle
  b : Deckle
  endRun : Bool
  old : Option ChainBlock
deriving DecidableEq, Repr

/-- The working format of a pass. -/
def PassKind.fmt : PassKind → Fmt
  | .fp64 => .fp64
  | _ => .fp32

/-- The saturation choice of an MMA (R97, R29). -/
def MmaCtx.saturates (m : MmaCtx) : Bool := if mSat m.slot = 0 then m.dsat else decide (2 ≤ mSat m.slot)

/-- One element (i, n) of a pass: the new planes (R81, R115 to R117, R123, R124). -/
def MmaCtx.elem (m : MmaCtx) (e : Eng) (bytes : Mem) (i n : Nat) : ElemOut :=
  let t := slotTile m.slot * 32768
  let (w, c) := match m.old with
    | some x => ((Tab.get 0 x.w ((i % 32) * 512 + n)).toNat, (Tab.get 0 x.c ((i % 32) * 512 + n)).toNat)
    | none => e.reamElem (mReam m.slot) i n
  let add := mAcc m.slot || m.old.isSome
  match m.kind with
  | .integer =>
    let av := (List.range m.a.epr).map (fun k => decodeI m.a.fmt (m.a.raw e.tiles t i k))
    let bv := (List.range m.a.epr).map (fun k => decodeI m.b.fmt (m.b.raw bytes 0 k n))
    intElem m.saturates add w (intResult av bv)
  | kind =>
    let av := (List.range m.a.epr).map (fun k => m.a.value m.ftz e.tiles t i k)
    let bv := (List.range m.a.epr).map (fun k => m.b.value m.ftz bytes 0 k n)
    let fl := (av ++ bv).foldl (fun g p => g.or p.2) ({} : Flags)
    let (r, fr) := passResult kind.fmt m.ftz (av.map Prod.fst) (bv.map Prod.fst)
    let fl := fl.or fr
    if kind = .fp64 then wideElem m.ftz add w c r fl
    else if mTotal m.slot then totalElem m.ftz add m.endRun w c r fl
    else plainElem m.ftz add w c r fl

/-- Write rows of elements, counting them and uniting their flags. `fuel`: rows. -/
def MmaCtx.rows (m : MmaCtx) (bytes : Mem) : Nat → Nat → Eng → Counts → Nat → Eng × Counts × Nat
  | 0, _, e, cn, fl => (e, cn, fl)
  | k + 1, i, e, cn, fl =>
    let (e, cn, fl) := (List.range m.b.epr).foldl (fun (e, cn, fl) n =>
      let o := m.elem e bytes i n
      (e.setReam (mReam m.slot) i n o.w o.c, cn.addReam m.kind o, fl ||| o.flags.nstat)) (e, cn, fl)
    m.rows bytes k (i + 1) e cn fl

/-- REAM_POISON of rows [i, i + n) of a ream, `cols` columns (R463). -/
def Eng.reamPoison (e : Eng) (ream i n cols : Nat) : List Found :=
  if e.reamBad.isEmpty then []
  else ([0, 0x40000].flatMap (fun pl => (List.range n).filterMap (fun j =>
    badUnit e.reamBad (ream * 0x100000 + pl + (i + j) * 2048) (4 * cols)))).take 1 |>.map (fun u => (0x6B, u))

/-- REAM_POISON of one element, in either of its planes (R463). -/
def Eng.reamCellPoison (e : Eng) (ream r c : Nat) : List Found :=
  ([0, 0x40000].filterMap (fun pl => badUnit e.reamBad (ream * 0x100000 + pl + r * 2048 + 4 * c) 4)).map (fun u => (0x6B, u))

/-- Units of a ream that a write of rows covers are good again. -/
def Eng.reamGood (e : Eng) (ream i n cols : Nat) : Eng :=
  if e.reamBad.isEmpty then e
  else { e with reamBad := (List.range n).foldl (fun t j =>
    feltClean (feltClean t (ream * 0x100000 + (i + j) * 2048) (4 * cols)) (ream * 0x100000 + 0x40000 + (i + j) * 2048) (4 * cols)) e.reamBad }

/-- The CHOUTs of a ream that stand before an operation keep N - 1 and the pass-run state as they are now, unless they have them: what comes later does not change what they send (R107, R141; log 78). -/
def Eng.keepChain (e : Eng) (o : EngOp) : Eng :=
  let ream := mReam o.word
  { e with mq := e.mq.map (fun x =>
      if slotOp x.word = 2 ∧ mReam x.word = ream ∧ posBefore x.seq x.pos o.seq o.pos = true ∧ x.chain.isNone = true then
        { x with chain := some (Tab.get 511 e.latestN ream, Tab.get 0 e.runs ream) } else x) }

/-- How the running MMA goes on at its next block: it waits, fails its chain check, or has written rows. -/
inductive BlockRes where
  | wait
  | mismatch (e : Eng)
  | wrote (e : Eng)

/-- A CHOUT that stands before an MMA has still to read block `b` of its ream (R100, R110). -/
def Eng.choutReads (e : Eng) (o : EngOp) (b : Nat) : Bool :=
  let unsent := fun (x : EngOp) (n : Nat) => mReam x.word == mReam o.word && decide (mBlk0 x.word + n ≤ b) && decide (b < mBlk0 x.word + choutTotal x.word)
  match e.mq.filter (fun x => slotOp x.word == 2 && posBefore x.seq x.pos o.seq o.pos) with
  | [] => false
  | x :: xs => unsent x e.chSent || xs.any (fun y => unsent y 0)

/-- The running MMA waits at its next block (R99, R100, R106): for the credit of the block, room in the couch queue for its token, the reads of earlier CHOUTs, or with CHIN a chain block. -/
def Eng.mmaWaits (e : Eng) (o : EngOp) (r : MRun) : Bool :=
  let w := o.word
  let b := r.row / 32
  e.couch.any (fun t => t.ream == mReam w && t.block == b) || (mTok w && decide (8 ≤ e.couch.length)) || e.choutReads o b ||
  (mChin w && e.chainIn.isEmpty)

/-- The planes of rows [i, i + n) of a ream, `cols` columns, as byte ranges (R77, R463). -/
def reamRanges (ream i n cols : Nat) : List (Nat × Nat) :=
  [0, 0x40000].flatMap (fun pl => (List.range n).map (fun j => (ream * 0x100000 + pl + (i + j) * 2048, 4 * cols)))

/-- The tile bytes of rows [i, i + n) of an MMA's A: its elements, and the scales of a scaled format (R77, R463). -/
def mmaRanges (base : Nat) (a : Deckle) (i n : Nat) : List (Nat × Nat) :=
  (base + i * a.rowbytes, n * a.rowbytes) :: (if a.fmt.scaled then [(base + a.body + i * a.bpr, n * a.bpr)] else [])

/-- What the next block of the running MMA reads: rows of A with their scales, the B operand, and rows that it adds to (R254, R463). -/
def Eng.mmaReads (e : Eng) (k : Nat) (o : EngOp) (r : MRun) (stop : Nat) : Loc → Bool :=
  let a := deckleOf (slotDeck o.word)
  let d := deckleOf (e.buf e.bActive).deckle
  let n := Nat.min stop (Nat.min a.rows (32 * (r.row / 32) + 32)) - r.row
  ownReads k [] (mmaRanges (slotTile o.word * 32768) a r.row n) [(8 * bUnit e.bActive, d.size)]
    (if mAcc o.word && !mChin o.word then reamRanges (mReam o.word) r.row n d.epr else [])

/-- The running MMA writes the rows of its next 32-row block below `stop` (R99, R100, R106, R122), unless it waits. Tiles that it has wholly read are released (R67). -/
def Core.mmaBlock (c : Core) (o : EngOp) (r : MRun) (stop : Nat) : BlockRes :=
  let e := c.eng
  let w := o.word
  let b := r.row / 32
  let nm := c.nmode o.seq
  let buf := e.buf e.bActive
  let a := deckleOf (slotDeck w)
  let d := deckleOf buf.deckle
  let last := Nat.min stop (Nat.min a.rows (32 * b + 32))
  if e.mmaWaits o r then .wait
  else
    let blk := if mChin w then e.chainIn.head? else none
    let e := if mChin w then { e with chainIn := e.chainIn.drop 1 } else e
    if blk.any (fun x => x.block != b || x.n1 + 1 != d.epr) then .mismatch e
    else
      let kind := (passKind a.fmt d.fmt).getD .floating
      let n' := match blk with | some x => x.run + 1 | none => r.n
      let endRun := decide (mRun w ≤ n')
      let m : MmaCtx := ⟨kind, bit nm 0, bit nm 4, w, a, d, endRun, blk⟩
      let rows := last - r.row
      let bad := r.bad.or (lowest ((mmaRanges (slotTile w * 32768) a r.row rows).flatMap (fun (t, n) => e.tilePoison t n) ++
        (if mAcc w && blk.isNone then e.reamPoison (mReam w) r.row rows d.epr else []) ++
        (match badUnit e.bBad (8 * bUnit e.bActive) d.size with | some u => [(0x6A, 0x80000000 + u % 0x80000)] | none => [])))
      let (e, cn, fl) := m.rows buf.bytes rows r.row e r.counts r.flags
      let e := e.reamGood (mReam w) r.row rows d.epr
      let base := slotTile w * 32768
      let e := (e.keepChain o).claimsLeft o (base + last * a.rowbytes) (base + a.body) (base + a.body + last * a.bpr) (base + a.size)
      let tok := mTok w && decide (last = Nat.min a.rows (32 * b + 32))
      .wrote { e with
        latestN := Tab.set 511 e.latestN (mReam w) (d.epr - 1),
        couch := if tok then e.couch ++ [⟨mReam w, b, d.epr - 1⟩] else e.couch,
        mrun := some ⟨last, n', endRun, cn, fl, bad⟩ }

/-- The running MMA writes block after block until it waits, fails, or has reached row `stop`. Answers the state, and whether it ended by a mismatch. `fuel`: blocks. -/
def State.mmaRun (k : Nat) (o : EngOp) (stop : Nat) : Nat → State → State × Bool
  | 0, s => (s, false)
  | n + 1, s =>
    match (s.eng k).mrun with
    | none => (s, false)
    | some r =>
      if Nat.min stop (deckleOf (slotDeck o.word)).rows ≤ r.row ∨ (s.eng k).mmaWaits o r = true then (s, false)
      else
        let s := s.strike ((s.eng k).mmaReads k o r stop)
        match (s.core k).mmaBlock o r stop with
        | .wait => (s, false)
        | .mismatch e => (s.updEng k (fun _ => e), true)
        | .wrote e => State.mmaRun k o stop n (s.updEng k (fun _ => e))

/-- The ream's run counter after an MMA (R119). -/
def runAfter (kind : PassKind) (w : Word) (r : MRun) : Nat := if kind = .floating ∧ mTotal w = true then (if r.endRun then 0 else r.n % 64) else 0

/-- The kind of the running MMA. -/
def Eng.runKind (e : Eng) (o : EngOp) : PassKind := (passKind (deckleOf (slotDeck o.word)).fmt (deckleOf (e.buf e.bActive).deckle).fmt).getD .floating

/-- An MMA ends: flags, tally record and faults (R37, R39, R56, R126), its claims and its place. -/
def State.mmaReport (s : State) (k : Nat) (o : EngOp) (r : MRun) : State :=
  let off := tallyOff (o.gv.headD 0)
  let s := s.tallyRead k (mTally o.word) off
  let bad := (match r.bad with | some b => [b] | none => []) ++ (s.eng k).tallyPoison (mTally o.word) off
  let s := (s.setNstat k r.flags).tallyTo k (mTally o.word) off r.counts
  let s := s.updEng k (fun e => { e.mDone o with mrun := none })
  s.opFault k o.seq o.pos unitM ((s.core k).nmode o.seq) r.flags bad

/-- An MMA that has written its last row completes (R119). -/
def State.mmaComplete (s : State) (k : Nat) (o : EngOp) (r : MRun) : State :=
  let kind := (s.eng k).runKind o
  (s.updEng k (fun e => { e with runs := Tab.set 0 e.runs (mReam o.word) (runAfter kind o.word r) })).mmaReport k o r

/-- The first MMA of the queue can start, or has started (R65, R77, R84, R100): claims, the sync unit, and BLDs it waits for. -/
def State.mmaReady (s : State) (k : Nat) : Option EngOp :=
  let e := s.eng k
  match splitAtOp 1 e.mq with
  | none => none
  | some (before, o) =>
    if e.mrun.isSome then some o
    else if e.claimed o.seq o.pos = true ∨ e.syncWaits o.seq = true ∨ (mSwap o.word = true ∧ before.any (fun x => slotOp x.word == 0) = true) then none
    else some o

/-- The ready MMA starts unless it has, or raises what its start finds; it then writes rows below `stop` as far as it can. Answers whether it is running still. -/
def State.mmaGo (s : State) (k : Nat) (o : EngOp) (stop : Nat) : State :=
  let c := s.core k
  let found := if c.eng.mrun.isSome then none else lowest (c.mmaStartFaults o)
  match found with
  | some (code, _) => (s.updEng k (fun e => e.mDone o)).engFault k ⟨o.seq, o.pos, 0, unitM, code, 0, 0⟩
  | none =>
    let s := if c.eng.mrun.isSome then s else s.setCore k (c.mmaStart o)
    let (s, mism) := State.mmaRun k o stop 5 s
    if mism then (s.updEng k (fun e => { e.mDone o with mrun := none })).engFault k ⟨o.seq, o.pos, 0, unitM, 0x32, 0, 0⟩
    else match (s.eng k).mrun with
      | some r => if (deckleOf (slotDeck o.word)).rows ≤ r.row then s.mmaComplete k o r else s
      | none => s

/-- MMA. -/
def State.mma (s : State) (k : Nat) : State :=
  if s.tripped then s
  else match s.mmaReady k with
    | some o => s.mmaGo k o 128
    | none => s

def execMma (k : Nat) (s : State) : Out := guardUnit (isSlot k) (s.mma k)

-- chains

/-- The block `b` of its ream that a CHOUT sends (R104, R122). -/
def Eng.chainBlock (e : Eng) (src dst : Nat) (o : EngOp) (b : Nat) : ChainBlock :=
  let ream := mReam o.word
  let (n1, run) := o.chain.getD (Tab.get 511 e.latestN ream, Tab.get 0 e.runs ream)
  let pick := fun (t : Tab Half) => (t.filter (fun p =>
    decide (reamKey ream (32 * b) 0 ≤ p.1) && decide (p.1 < reamKey ream (32 * b + 32) 0) && decide (p.1 % 512 ≤ n1))).map
      (fun p => (p.1 - reamKey ream (32 * b) 0, p.2))
  ⟨src, dst, b, n1, run, pick e.reamW, pick e.reamC⟩

/-- Blocks of a sender that no receiver has consumed, wherever they are: the credits that it does not hold (R105). -/
def State.chainOut (s : State) (k : Nat) : Nat :=
  (s.transit.filter (fun x => x.src == k)).length + (s.cores.map (fun p => (p.2.eng.chainIn.filter (fun x => x.src == k)).length)).sum

/-- An MMA into its ream that stands before a CHOUT has not ended (R100, R104): its blocks carry the pass-run state that the MMA leaves, which must not depend on when it is read (R107, R141; log 78). -/
def Eng.mmaBefore (e : Eng) (o : EngOp) : Bool :=
  e.mq.any (fun x => slotOp x.word == 1 && mReam x.word == mReam o.word && posBefore x.seq x.pos o.seq o.pos)

/-- Send the blocks that the credits and the MMAs before allow (R100, R105). `fuel`: blocks. -/
def State.sendBlocks (s : State) (k dst : Nat) (o : EngOp) : Nat → State
  | 0 => s
  | n + 1 =>
    let e := s.eng k
    let w := o.word
    if choutTotal w ≤ e.chSent ∨ 2 ≤ s.chainOut k ∨ e.mmaBefore o = true then s
    else
      let s := s.strike (ownReads k [] [] [] (reamRanges (mReam w) (32 * (mBlk0 w + e.chSent)) 32 512))
      let b := e.chainBlock k dst o (mBlk0 w + e.chSent)
      State.sendBlocks ({ s with transit := s.transit ++ [b] }.updEng k (fun e => { e with chSent := e.chSent + 1 })) k dst o n

/-- CHOUT (R103 to R108): the first CHOUT of the queue sends blocks while it holds credits, once every earlier MMA into its ream has ended. It ends when its last block has been accepted. NVALID and NEXT's slot are judged before the first block; a later one follows a block that is still on its way, else the NEXT that is active when it is sent (log 78). -/
def State.chout (s : State) (k : Nat) : State :=
  let c := s.core k
  let e := c.eng
  match splitAtOp 2 e.mq with
  | none => s
  | some (_, o) =>
    let r := c.actReg ENG_CHAIN
    let dst := wfld r 24 6
    if e.syncWaits o.seq = true ∨ s.tripped = true then s
    else if e.chSent = 0 ∧ (r.getLsbD 31 = false ∨ s.slotEnabled dst = false) then
      (s.updEng k (fun e => e.mDone o)).engFault k ⟨o.seq, o.pos, 0, unitM, 0x30, 0, dst⟩
    else
      let dest := match s.transit.find? (fun x => x.src == k) with | some x => x.dst | none => dst
      s.sendBlocks k dest o 4

def execChout (k : Nat) (s : State) : Out := guardUnit (isSlot k) (s.chout k)

/-- The running CHOUT of a sender ends. -/
def State.choutEnd (s : State) (k : Nat) (o : EngOp) : State := s.updEng k (fun e => { e.mDone o with chSent := 0 })

/-- CHAIN_BLOCK_ARRIVAL (R105, R108): the oldest block on its way to core slot `k` is accepted when the active ENG_CHAIN names its sender; a refused one ends its CHOUT, of which nothing more arrives, and its credit is the sender's again, for which the spec states no rule (log 78). One that finds two blocks in the chain-in buffer, which only a change of PREV can bring about, stays on its way (log 78), and so does one to a held core (R442). -/
def State.blockArrives (s : State) (k : Nat) : State :=
  match s.transit.find? (fun x => x.dst == k) with
  | none => s
  | some b =>
    let r := (s.core k).actReg ENG_CHAIN
    let out := (splitAtOp 2 (s.eng b.src).mq).map Prod.snd
    if s.held (clusterOf k) then s
    else if r.getLsbD 23 && wfld r 16 6 == b.src then
      if 2 ≤ (s.eng k).chainIn.length then s else
      let s := { s with transit := s.transit.erase b }.updEng k (fun e => { e with chainIn := e.chainIn ++ [b] })
      match out with
      | some o =>
        if choutTotal o.word ≤ (s.eng b.src).chSent ∧ s.transit.any (fun x => x.src == b.src) = false then
          (s.choutEnd b.src o).opFault b.src o.seq o.pos unitM 0 0
            ((s.eng b.src).reamPoison (mReam o.word) (32 * mBlk0 o.word) (32 * choutTotal o.word) 512)
        else s
      | none => s
    else
      let s := { s with transit := s.transit.filter (fun x => x.src != b.src) }
      match out with
      | some o => (s.choutEnd b.src o).engFault b.src ⟨o.seq, o.pos, 0, unitM, 0x31, 0, k⟩
      | none => s

def execChainBlockArrival (k : Nat) (s : State) : Out := guardUnit (isSlot k) (s.blockArrives k)

end Sys2Proof.Machine
end

