-- ==== Sys2Proof/Machine/MemInstr.lean ====
section
/-! DEFINITION. Scalar loads and stores (R202 to R204, R208): addressing mode, access, register, update. -/

namespace Sys2Proof.Machine

/-- The core accesses as user (R352): in user mode, or by LDUD and STUD. -/
def asUser (s : State) (k : Nat) (forced : Bool) : Bool := forced || !(s.core k).sup

/-- A load of `z` bytes: `put` writes the value; a G destination wins over the update of the same register (R204). -/
def bodyLoad (k z : Nat) (forced : Bool) (m : MOp) (put : Core → Nat → Core) (s : State) : Res (Option Word) :=
  if mopBad m || (forced && decide (m.am.toNat ≠ 0)) then raise s excIllegal
  else
    let c := s.core k
    let u := mopUpdate m c z
    (s.coreLoad k (mopAddr m c z) z (asUser s k forced) m.ecc).bind (fun t bs =>
      .ok (t.updCore k (fun c => put (c.applyUpdate u) (leNat bs))) none)

/-- A store of `z` bytes of a value (R202). -/
def bodyStore (k z : Nat) (forced : Bool) (m : MOp) (v : Core → Nat) (s : State) : Res (Option Word) :=
  if mopBad m || (forced && decide (m.am.toNat ≠ 0)) then raise s excIllegal
  else
    let c := s.core k
    let u := mopUpdate m c z
    (s.coreStore k (mopAddr m c z) (leBytes z (v c)) (asUser s k forced) m.ecc).bind (fun t _ =>
      .ok (t.updCore k (fun c => c.applyUpdate u)) none)

/-- Write Gt, zero-extended. -/
def putG (t : Reg) (c : Core) (v : Nat) : Core := c.setG t.toNat (BitVec.ofNat 64 v)

/-- Write Gt, sign-extended from `b` bits. -/
def putGs (b : Nat) (t : Reg) (c : Core) (v : Nat) : Core := c.setG t.toNat (BitVec.ofInt 64 (sext b v))

/-- Write a floating value of `w` bits into Ft (R210). -/
def putF (w : Nat) (t : Reg) (c : Core) (v : Nat) : Core := c.setFlow w t.toNat v

/-- The value of Gt. -/
def getG (t : Reg) (c : Core) : Nat := (c.greg t.toNat).toNat

/-- The value of Ft. -/
def getF (t : Reg) (c : Core) : Nat := (c.freg t.toNat).toNat

def execLdb (k : Nat) (m : MOp) (s : State) : Out := s.instr k (bodyLoad k 1 false m (putGs 8 m.t))
def execLdbu (k : Nat) (m : MOp) (s : State) : Out := s.instr k (bodyLoad k 1 false m (putG m.t))
def execLdh (k : Nat) (m : MOp) (s : State) : Out := s.instr k (bodyLoad k 2 false m (putGs 16 m.t))
def execLdhu (k : Nat) (m : MOp) (s : State) : Out := s.instr k (bodyLoad k 2 false m (putG m.t))
def execLdw (k : Nat) (m : MOp) (s : State) : Out := s.instr k (bodyLoad k 4 false m (putGs 32 m.t))
def execLdwu (k : Nat) (m : MOp) (s : State) : Out := s.instr k (bodyLoad k 4 false m (putG m.t))
def execLdd (k : Nat) (m : MOp) (s : State) : Out := s.instr k (bodyLoad k 8 false m (putG m.t))
def execStb (k : Nat) (m : MOp) (s : State) : Out := s.instr k (bodyStore k 1 false m (getG m.t))
def execSth (k : Nat) (m : MOp) (s : State) : Out := s.instr k (bodyStore k 2 false m (getG m.t))
def execStw (k : Nat) (m : MOp) (s : State) : Out := s.instr k (bodyStore k 4 false m (getG m.t))
def execStd (k : Nat) (m : MOp) (s : State) : Out := s.instr k (bodyStore k 8 false m (getG m.t))
def execFldw (k : Nat) (m : MOp) (s : State) : Out := s.instr k (bodyLoad k 4 false m (putF 32 m.t))
def execFldd (k : Nat) (m : MOp) (s : State) : Out := s.instr k (bodyLoad k 8 false m (putF 64 m.t))
def execFstw (k : Nat) (m : MOp) (s : State) : Out := s.instr k (bodyStore k 4 false m (getF m.t))
def execFstd (k : Nat) (m : MOp) (s : State) : Out := s.instr k (bodyStore k 8 false m (getF m.t))
def execLdud (k : Nat) (m : MOp) (s : State) : Out := s.instr k (bodyLoad k 8 true m (putG m.t))
def execStud (k : Nat) (m : MOp) (s : State) : Out := s.instr k (bodyStore k 8 true m (getG m.t))

-- long vectors

/-- Bytes of a V register. -/
def vsize : Nat := 8192

/-- The core's V register `r` begins at this byte of its V file. -/
def vbase (r : Nat) : Nat := r * 8192

/-- VLD and VST use AM 0 or 1, and name V0 to V15 (R6, R208). -/
def vBad (m : MOp) : Bool := decide (2 ≤ m.am.toNat) || decide (16 ≤ m.t.toNat)

/-- VLD (R208): an address that is not a multiple of 64 raises ALIGN. -/
def bodyVld (k : Nat) (m : MOp) (s : State) : Res (Option Word) :=
  let a := mopAddr m (s.core k) vsize
  if vBad m then raise s excIllegal
  else if a % 64 ≠ 0 then .exc s excAlign 0 (BitVec.ofNat 64 a)
  else (s.coreLoad k a vsize (asUser s k false) m.ecc).bind (fun t bs =>
    .ok (t.updCore k (fun c => { c with v := c.v.writeN (vbase m.t.toNat) bs })) none)

/-- VST (R208). -/
def bodyVst (k : Nat) (m : MOp) (s : State) : Res (Option Word) :=
  let a := mopAddr m (s.core k) vsize
  if vBad m then raise s excIllegal
  else if a % 64 ≠ 0 then .exc s excAlign 0 (BitVec.ofNat 64 a)
  else (s.coreStore k a ((s.core k).v.readN (vbase m.t.toNat) vsize) (asUser s k false) m.ecc).bind (fun t _ => .ok t none)

def execVld (k : Nat) (m : MOp) (s : State) : Out := s.instr k (bodyVld k m)
def execVst (k : Nat) (m : MOp) (s : State) : Out := s.instr k (bodyVst k m)

end Sys2Proof.Machine
end

