-- ==== Sys2Proof/Machine/CalOps.lean ====
section
/-! DEFINITION. The calender (R143 to R185): streams, drains, nips, masks, reductions, compress and expand, top-k, scaled update, delayed scaling and summaries; CAL and CAL_COMPLETE. -/

namespace Sys2Proof.Machine

/-- What an operation computes with: its descriptor, deckle and tile base, numeric mode, scalars, SCUPD exponent, captured V registers, the number of its first free choice, and the engines as it found them. -/
structure CalCtx where
  d : CalDesc
  deck : Deckle
  tile : Nat
  nm : Nat
  sc0 : Word
  sc1 : Word
  scE : Int
  vcap : Mem
  free : Nat
  eng : Eng
deriving DecidableEq, Repr

/-- The working format of a floating chain. -/
def wFmt (w : Nat) : Fmt := if w = 1 then .fp64 else .fp32

def CalCtx.wf (x : CalCtx) : Fmt := wFmt x.d.wtype
def CalCtx.ftz (x : CalCtx) : Bool := bit x.nm 0
def CalCtx.rmode (x : CalCtx) : RMode := RMode.ofCode (fld x.nm 2 2)
def CalCtx.bpr (x : CalCtx) : Nat := ceilDiv x.d.cols 32

/-- A saturation choice of R29: 0 ENG_NMODE.DSAT, 1 wrap, others saturate. -/
def CalCtx.saturates (x : CalCtx) (sat : Nat) : Bool := if sat = 0 then bit x.nm 4 else decide (sat ≠ 1)

/-- The integer that a value of the I32 working type is. -/
def FV.int (v : FV) : Int := v.scaledInt 0

/-- Round an exact result to a floating format, as a value. -/
def roundTo (f : Fmt) (rm : RMode) (ftz : Bool) (r : FV × Flags) : FV × Flags :=
  let c := convF f rm ftz r.1
  (decodeF f.info c.bits, r.2.or c.flags)

/-- A read element enters the working type (R151): exactly, but I32 into FP32 to nearest even (R48), a scaled element beyond FP32 to infinity with OVF and INX (R33, log 73), and a signalling NaN of another format quieted (R40). -/
def CalCtx.toWork (x : CalCtx) (f : Fmt) (r : FV × Flags) : FV × Flags :=
  if x.d.wtype = 2 then r
  else match r.1 with
    | .nan .. => if f = x.wf then r else (r.1.quiet, r.2.or { inv := r.1.isSig })
    | .inf _ => r
    | v => if f = x.wf then r else roundTo x.wf .nearest false (v, r.2)

/-- The encoding of a value of working type `w`; I32 as 32 bits. -/
def encW (w : Nat) (v : FV) : Nat := if w = 2 then wrapN 32 v.int else (convF (wFmt w) .nearest false v).bits

-- streams

/-- The stored element that BCAST maps (r, c) onto, and its flat index (R149). -/
def Stream.stored (s : Stream) (r c flat : Nat) : Nat × Nat × Nat :=
  if s.bcast = 0 then (r, c, flat) else if s.bcast = 1 then (0, c, c) else if s.bcast = 2 then (r, 0, r) else (0, 0, 0)

/-- A stored element of a stream, the felt's from `felt` (R148). -/
def CalCtx.elem (x : CalCtx) (felt : Mem) (s : Stream) (r c flat : Nat) : FV × Flags :=
  let f := Fmt.ofCode s.fmt
  if s.kind = 1 then
    elemValue x.ftz f (if f.scaled then some (felt.read (s.scale + r * x.bpr + c / 32)).toNat else none) (elemBits felt (s.base + r * s.pitch) f.bits c)
  else if s.kind = 2 then x.deck.value x.ftz x.eng.tiles x.tile (flat / x.deck.epr) (flat % x.deck.epr)
  else if s.kind = 4 then elemValue x.ftz f none (elemBits x.vcap (vbase s.vreg) f.bits flat)
  else (FV.zero, {})

/-- Two felt streams have the same BASE, PITCH, FMT and SCALE (R153). -/
def Stream.same (s t : Stream) : Bool := t.kind == 1 && s.base == t.base && s.pitch == t.pitch && s.fmt == t.fmt && s.scale == t.scale

/-- The felt as an element is read: its bytes, and the output bytes still to be written (R153). -/
structure FeltView where
  mem : Mem
  due : List Rect
deriving DecidableEq, Repr

/-- A felt before the operation has written anything: an input read there takes its old value. -/
def FeltView.old (m : Mem) : FeltView := ⟨m, []⟩

/-- The felt bytes of an element: its own and its block's scale (R148). -/
def CalCtx.elemSpan (x : CalCtx) (s : Stream) (r c : Nat) : List (Nat × Nat) :=
  let f := Fmt.ofCode s.fmt
  (s.base + r * s.pitch + c * f.bits / 8, Nat.max (f.bits / 8) 1) :: (if f.scaled then [(s.scale + r * x.bpr + c / 32, 1)] else [])

/-- An input element in the working type. One that the operation's output has overwritten when it is read, and that is not in place, takes its old value or the one that the operation leaves there, and the old one while some of its bytes are still to be written (R153, log 12, log 72); `which` tells the streams apart. -/
def CalCtx.input (x : CalCtx) (view : FeltView) (s : Stream) (which r c flat : Nat) : FV × Flags :=
  let (r, c, i) := s.stored r c flat
  let a := x.elem x.eng.felt s r c i
  let v :=
    if s.kind = 1 ∧ s.same x.d.out = false ∧ s.same x.d.aux = false ∧
        (x.elemSpan s r c).any (fun q => view.due.any (fun d => rectHits d q.1 (q.1 + q.2))) = false then
      let b := x.elem view.mem s r c i
      if a ≠ b ∧ Config.choose (x.free + 2 * i + which) = true then b else a
    else a
  x.toWork (if s.kind = 2 then x.deck.fmt else Fmt.ofCode s.fmt) v

/-- Mask bits of a row (R164). -/
def CalCtx.maskRow (x : CalCtx) (r : Nat) : List Bool :=
  (List.range x.d.cols).map (fun c => if x.d.mkind = 0 then true else bit (x.eng.felt.read (x.d.mbase + r * x.d.mpitch + c / 8)).toNat (c % 8))

/-- A row of S0 under EXPAND: packed elements at the set bits, zero elsewhere; and the next packed element (R170). -/
def expandRow (f : Nat → FV × Flags) : List Bool → Nat → List (FV × Flags) × Nat
  | [], k => ([], k)
  | b :: bs, k =>
    let (l, k') := expandRow f bs (if b then k + 1 else k)
    ((if b then f k else (FV.zero, {})) :: l, k')

-- reductions

/-- The tree of R138. `fuel`: levels at most. -/
def treeReduce {α : Type} (comb : α → α → α) (d : α) : Nat → List α → α
  | 0, l => l.headD d
  | n + 1, l =>
    match l with
    | [] => d
    | [v] => v
    | l =>
      let m := 2 ^ Nat.log2 (l.length - 1)
      comb (treeReduce comb d n (l.take m)) (treeReduce comb d n (l.drop m))

/-- Enough levels for any tensor of R145. -/
def treeFuel : Nat := 64

/-- fl(x + y), fl(x − y), fl(x × y), fl(x ÷ y) of R139 and R140: rounded to nearest even, flushed under FTZ. The mark of a flush is that of this last rounding alone (R53). -/
def flOp (op : FV → FV → FV × Flags) (f : Fmt) (ftz : Bool) (x y : FV × Flags) : FV × Flags :=
  let (u, h) := roundTo f .nearest ftz (op x.1 y.1)
  (u, { (x.2.or y.2).or h with zeroed := h.zeroed })

def flSum (f : Fmt) (ftz : Bool) := flOp (addFV .nearest) f ftz
def flDiff (f : Fmt) (ftz : Bool) := flOp (subFV .nearest) f ftz
def flProd (f : Fmt) (ftz : Bool) := flOp mulFV f ftz
def flQuot (f : Fmt) (ftz : Bool) := flOp divFV f ftz

/-- A subnormal value of a format reads as zero under FTZ (R49). -/
def flushIn (f : Fmt) (ftz : Bool) (v : FV) : FV × Flags :=
  match v with
  | .fin n m e => if ftz ∧ m ≠ 0 ∧ (Nat.log2 m : Int) + e < f.info.emin then (.fin n 0 0, { flushed := true }) else (v, {})
  | v => (v, {})

/-- Reductions 0 to 3 of R166 over the values in their logical order: the result, its flags, and whether it saturated (R139, R168). -/
def reduceVals (w : Nat) (ftz : Bool) (sub : Nat) (vs : List FV) : FV × Flags × Bool :=
  if w = 2 then
    let xs := vs.map FV.int
    if sub = 1 then (.ofInt (xs.foldl Max.max (-(2 ^ 31))), {}, false)
    else if sub = 2 then (.ofInt (xs.foldl Min.min (2 ^ 31 - 1)), {}, false)
    else
      let t := xs.foldl (fun a y => a + (if sub = 3 then y * y else y)) 0
      let c := narrowI .i32 true t
      (.ofInt (sext 32 c.bits), c.flags, c.sat)
  else
    let f := wFmt w
    let ls := vs.map (flushIn f ftz)
    let (v, g) :=
      if sub = 0 then treeReduce (flSum f ftz) (FV.zero, {}) treeFuel ls
      else if sub = 3 then treeReduce (flSum f ftz) (FV.zero, {}) treeFuel (ls.map (fun l => flProd f ftz l l))
      else treeReduce (fun a b => let (v, g) := minmaxFV (sub == 1) a.1 b.1; (v, (a.2.or b.2).or g)) (.inf (sub == 1), {}) treeFuel ls
    (v, g, false)

/-- A triple of R140: n, μ, M2, with the flags raised so far. -/
structure Moments where
  n : Nat
  mean : FV
  m2 : FV
  flags : Flags
deriving DecidableEq, Repr

/-- The comb of R140. -/
def Moments.comb (f : Fmt) (ftz : Bool) (a b : Moments) : Moments :=
  let num := fun (k : Nat) => roundTo f .nearest ftz (FV.ofInt k, {})
  let n := a.n + b.n
  let d := flDiff f ftz (b.mean, {}) (a.mean, {})
  let mu := flSum f ftz (a.mean, {}) (flProd f ftz d (flQuot f ftz (num b.n) (num n)))
  let m2 := flSum f ftz (flSum f ftz (a.m2, {}) (b.m2, {})) (flProd f ftz (flProd f ftz d d) (flQuot f ftz (flProd f ftz (num a.n) (num b.n)) (num n)))
  ⟨n, mu.1, m2.1, ((a.flags.or b.flags).or mu.2).or m2.2⟩

/-- Mean and variance of R140 and R168: n, μ, M2, the selected variance, and the flags, of which the mark of a flush is the variance's (R53, R55). -/
def meanVar (w : Nat) (ftz sample : Bool) (vs : List FV) : Nat × FV × FV × FV × Flags :=
  let f := wFmt w
  if vs.isEmpty then (0, FV.zero, FV.zero, FV.dnan, { inv := true })
  else
    let t := treeReduce (Moments.comb f ftz) ⟨0, FV.zero, FV.zero, {}⟩ treeFuel (vs.map (fun v => let (u, g) := flushIn f ftz v; ⟨1, u, FV.zero, g⟩))
    let (v, g) := flQuot f ftz (t.m2, {}) (roundTo f .nearest ftz (FV.ofInt (if sample then t.n - 1 else t.n), {}))
    (t.n, t.mean, t.m2, v, { t.flags.or g with zeroed := g.zeroed })

-- drains

/-- The working type code of the values that a drain gives its fused reductions and its chain: that of its form, but FP32 after a fused test on the I32 form (R136). -/
def Stream.drainType (s : Stream) : Nat := if s.form = 2 ∧ s.ftest ≠ 0 then 0 else s.form

/-- The presented value of a ream element (R134); a NaN in W or C keeps its sign and payload (R51). -/
def CalCtx.present (x : CalCtx) (r c : Nat) : FV × Flags :=
  let s := x.d.s0
  let (w, k) := x.eng.reamElem s.ream r c
  if s.form = 1 then readElem x.ftz .fp64 (w * 2 ^ 32 + k)
  else if s.form = 2 then (FV.ofInt (sext 32 w), {})
  else if (f32 k).isZero then readElem x.ftz .fp32 w
  else
    let (v, g) := addFV .nearest (f32 w) (f32 k)
    if v.isNan then (v, g)
    else
      let (u, h) := flRound .fp32 x.ftz v
      let c := convF .fp32 .nearest false v
      (u, (g.or h).or { inx := c.flags.inx })

/-- The value of a drain after its fused test operation (R136): one rounding of the exact sum or product, of the I32 form of the exact integer (log 74). -/
def CalCtx.drained (x : CalCtx) (r c : Nat) : FV × Flags :=
  let s := x.d.s0
  let (v, g) := x.present r c
  if s.ftest = 0 then (v, g)
  else
    let f := if s.form = 1 then Fmt.fp64 else .fp32
    let (t, h) := readElem x.ftz f (x.eng.felt.readLE (s.tbase + r * s.tpitch + c * (f.bits / 8)) (f.bits / 8))
    let (u, i) := if s.ftest = 1 then addFV .nearest v t else mulFV v t
    roundTo f .nearest x.ftz (u, (g.or h).or i)

/-- A fused row result as its 8 bytes (R156). -/
def fusedBytes (w : Nat) (v : FV) : List Byte := leBytes 8 (encW w v)

-- nips

/-- One element on its way through the chain: its S0 and S1 elements, chain value, predicate, flags raised, and whether the mask leaves it active. -/
structure Lane where
  s0 : FV
  s1 : FV
  v : FV
  p : Bool
  flags : Flags
  act : Bool
deriving DecidableEq, Repr

/-- A scalar in the working type (R158). -/
def scalarOf (w : Nat) (g : Nat) : FV := if w = 2 then .ofInt (sext 32 g) else if w = 1 then decodeF Fmt.fp64.info g else decodeF Fmt.fp32.info (g % 2 ^ 32)

/-- The operand that a selector names (R158). -/
def CalCtx.operand (x : CalCtx) (n : Nip) (l : Lane) (sel : Nat) : FV :=
  match sel with
  | 0 => l.v
  | 1 => l.s0
  | 2 => l.s1
  | 3 => scalarOf x.d.wtype x.sc0.toNat
  | 4 => scalarOf x.d.wtype x.sc1.toNat
  | 5 => if x.d.wtype = 2 then .ofInt (sext 32 n.imm) else decodeF Fmt.fp32.info n.imm
  | 6 => FV.zero
  | _ => FV.ofInt 1

/-- Where an operand stands in the operand order of R51: stream 0 and the chain value, stream 1, V registers, scalars, constants. -/
def CalCtx.rank (x : CalCtx) (sel : Nat) : Nat :=
  match sel with
  | 0 => 0
  | 1 => if x.d.s0.kind = 4 then 2 else 0
  | 2 => if x.d.s1.kind = 4 then 2 else 1
  | 3 => 3
  | 4 => 3
  | _ => 4

/-- The first NaN among operands in the order of R51: the least rank, and of equals the first named. -/
def nanBy : List (Nat × FV) → Option (Nat × FV)
  | [] => none
  | (r, v) :: t =>
    if v.isNan then
      match nanBy t with
      | some (q, u) => if q < r then some (q, u) else some (r, v)
      | none => some (r, v)
    else nanBy t

/-- The rounding of a CVT nip (R157). -/
def CalCtx.cvtRound (x : CalCtx) (n : Nip) (draw : Nat) : RMode :=
  match n.rnd with
  | 0 => x.rmode
  | 1 => .nearest
  | 2 => .zero
  | _ => .stoch draw

/-- A CVT in a floating working type: rounded to FMT, then widened back (R160). `scale`: the block's scale byte. -/
def CalCtx.cvt (x : CalCtx) (n : Nip) (a : FV) (draw : Nat) (scale : Option Nat) : FV × Flags :=
  let f := Fmt.ofCode n.fmt
  let rm := x.cvtRound n draw
  match scale with
  | some sc =>
    if sc = 255 then (FV.dnan, { inv := a.isSig })
    else
      let c := convScaled f.elem rm x.ftz sc a
      x.toWork f (applyScale sc (decodeElem f.elem c.bits), c.flags)
  | none =>
    let c := convElem f rm x.ftz a
    x.toWork f (decodeElem f c.bits, c.flags)

/-- Scaling by a power of two: exact, or rounded under RMODE where it leaves the normal range (R176, R179). -/
def CalCtx.scaleBy (x : CalCtx) (a : FV) (e : Int) : FV × Flags :=
  match a with
  | .fin n m ex => roundTo x.wf x.rmode x.ftz (.fin n m (ex + e), {})
  | .nan .. => (a.quiet, { inv := a.isSig })
  | v => (v, {})

/-- A nip of a floating chain on one element (R159, R160, R162, R176, R179). `hs`: HIST's exponent s. Under FTZ, SEL reads and flushes only the operand that it selects (DESIGN CHOICE, log 33). -/
def CalCtx.floatNip (x : CalCtx) (n : Nip) (hs : Int) (draw : Nat) (scale : Option Nat) (l : Lane) : Lane :=
  let f := x.wf
  let k := n.kind
  let (a, fa) := flushIn f x.ftz (if k = nkExpand then l.s0 else x.operand n l n.opa)
  let (b, fb) := flushIn f x.ftz (x.operand n l n.opb)
  let (c, fc) := flushIn f x.ftz (x.operand n l n.opc)
  let out := fun (r : FV × Flags) (g : Flags) => { l with v := r.1, flags := (l.flags.or r.2).or g }
  -- a NaN result among NaN operands carries the payload of the first in operand order
  let pay := fun (ops : List (Nat × FV)) (r : FV × Flags) => match nanBy ops with | some (_, v) => if r.1.isNan then (v.quiet, r.2) else r | none => r
  let two := [(x.rank n.opa, a), (x.rank n.opb, b)]
  let arith := fun (r : FV × Flags) => out (roundTo f x.rmode x.ftz (pay two r)) (fa.or fb)
  match k with
  | 0x01 => arith (addFV x.rmode a b)
  | 0x02 => arith (subFV x.rmode a b)
  | 0x03 => arith (mulFV a b)
  | 0x04 => out (roundTo f x.rmode x.ftz (pay (two ++ [(x.rank n.opc, c)]) (fmaFV x.rmode a b c))) ((fa.or fb).or fc)
  | 0x05 => out (pay two (minmaxFV false a b)) (fa.or fb)
  | 0x06 => out (pay two (minmaxFV true a b)) (fa.or fb)
  | 0x07 => out (a.withSign false, {}) fa
  | 0x08 => out (a.withSign (!a.neg), {}) fa
  | 0x09 => let (p, g) := cmpFV n.sub a b; { out (if p then FV.ofInt 1 else FV.zero, g) (fa.or fb) with p := p }
  | 0x0A => if l.p then out (a, {}) fa else out (b, {}) fb
  | 0x0B => out (x.cvt n a draw scale) fa
  | 0x20 => out (roundTo f .nearest x.ftz (exp2FV a)) fa
  | 0x21 => out (roundTo f .nearest x.ftz (log2FV a)) fa
  | 0x22 => out (roundTo f x.rmode x.ftz (divFV (FV.ofInt 1) a)) fa
  | 0x23 => out (roundTo f .nearest x.ftz (rsqrtFV a)) fa
  | 0x34 => out (x.scaleBy a x.scE) fa
  | 0x35 => out (x.scaleBy a (-hs)) fa
  | _ => out (a, {}) fa

/-- A nip of an I32 chain on one element (R159 to R161). -/
def CalCtx.intNip (x : CalCtx) (n : Nip) (l : Lane) : Lane :=
  let k := n.kind
  let a := (if k = nkExpand then l.s0 else x.operand n l n.opa).int
  let b := (x.operand n l n.opb).int
  let ua := wrapN 32 a
  let ub := wrapN 32 b
  let sh := ub % 32
  let out := fun (v : Int) => { l with v := FV.ofInt v }
  let bits := fun (v : Nat) => out (sext 32 v)
  let exact := fun (f : Fmt) (v : Int) =>
    let c := narrowI f (x.saturates n.sat) v
    { l with v := FV.ofInt (decodeI f c.bits), flags := l.flags.or c.flags }
  match k with
  | 0x01 => exact .i32 (a + b)
  | 0x02 => exact .i32 (a - b)
  | 0x03 => exact .i32 (a * b)
  | 0x05 => out (Min.min a b)
  | 0x06 => out (Max.max a b)
  | 0x07 => exact .i32 a.natAbs
  | 0x08 => exact .i32 (-a)
  | 0x09 => let p := cmpInt n.sub a b; { out (b2n p) with p := p }
  | 0x0A => out (if l.p then a else b)
  | 0x0B => exact (Fmt.ofCode n.fmt) a
  | 0x10 => bits (ua * 2 ^ sh)
  | 0x11 => bits (ua / 2 ^ sh)
  | 0x12 => out (a / (2 ^ sh : Nat))
  | 0x13 => bits (ua &&& ub)
  | 0x14 => bits (ua ||| ub)
  | 0x15 => bits (ua ^^^ ub)
  | 0x16 => bits (2 ^ 32 - 1 - ua)
  | _ => out a

def CalCtx.nip (x : CalCtx) (n : Nip) (hs : Int) (draw : Nat) (scale : Option Nat) (l : Lane) : Lane :=
  if x.d.wtype = 2 then x.intNip n l else x.floatNip n hs draw scale l

/-- A list in pieces of `n`, the last one shorter. `fuel`: pieces. -/
def pieces {α : Type} (n : Nat) : Nat → List α → List (List α)
  | 0, _ => []
  | k + 1, l => if l.isEmpty then [] else l.take n :: pieces n k (l.drop n)

/-- A nip on a row; a CVT to a scaled format takes one scale per 32 columns (R160). -/
def CalCtx.stage (x : CalCtx) (n : Nip) (hs : Int) (draws : List Nat) (ls : List Lane) : List Lane :=
  let f := Fmt.ofCode n.fmt
  if n.kind = nkCvt ∧ f.scaled = true ∧ x.d.wtype ≠ 2 then
    (pieces 32 ls.length (ls.zip draws)).flatMap (fun blk =>
      let sc := scaleFor f.elem (blk.map (fun p => (flushIn x.wf x.ftz (x.operand n p.1 n.opa)).1))
      blk.map (fun p => x.nip n hs p.2 (some sc) p.1))
  else (ls.zip draws).map (fun p => x.nip n hs p.2 none p.1)

/-- A nip draws (R45). -/
def Nip.draws (n : Nip) : Bool := n.kind == nkCvt && n.rnd == 3

/-- Every `m`-th number of a list, `n` of them. -/
def everyNth (m : Nat) : Nat → List Nat → List Nat
  | 0, _ => []
  | n + 1, l => l.headD 0 :: everyNth m n (l.drop m)

/-- A row through nips. `ds`: the row's draws, element by element; `m` of them for each, of which the nips before took `j` (R45). -/
def CalCtx.chain (x : CalCtx) (hs : Int) (m : Nat) (ds : List Nat) : List Nip → Nat → List Lane → List Lane
  | [], _, ls => ls
  | n :: ns, j, ls =>
    let mine := if n.draws then everyNth m ls.length (ds.drop j) else ls.map (fun _ => 0)
    x.chain hs m ds ns (if n.draws then j + 1 else j) (x.stage n hs mine ls)

/-- One draw: the new state and its top 16 bits (R44). -/
def rngNext (x : Word) : Word × Nat :=
  let x := x ^^^ (x <<< 13)
  let x := x ^^^ (x >>> 7)
  let x := x ^^^ (x <<< 17)
  (x, (x >>> 48).toNat)

/-- `n` draws and the state after them. -/
def rngDraws : Nat → Word → List Nat × Word
  | 0, x => ([], x)
  | n + 1, x =>
    let (y, r) := rngNext x
    let (l, z) := rngDraws n y
    (r :: l, z)

-- outputs

/-- What an operation has written and counted so far. -/
structure CalAcc where
  felt : Mem
  tiles : Mem
  counts : Counts
  flags : Flags
deriving DecidableEq, Repr

/-- An element to be written: logical place, flat index, value or none for an inactive one under MODE zero (R165), and the flags and marks of its way through the chain, or of its reduction (R53, R139). -/
structure Item where
  r : Nat
  c : Nat
  flat : Nat
  v : Option FV
  marks : Flags := {}
deriving DecidableEq, Repr

/-- The memory that a stream writes. -/
def CalAcc.mem (a : CalAcc) (s : Stream) : Mem := if s.kind = 2 then a.tiles else a.felt

def CalAcc.withMem (a : CalAcc) (s : Stream) (m : Mem) : CalAcc := if s.kind = 2 then { a with tiles := m } else { a with felt := m }

/-- Where an element of an output lies: row base, index in the row, scale byte (R148). -/
def CalCtx.loc (x : CalCtx) (s : Stream) (i : Item) : Nat × Nat × Nat :=
  if s.kind = 2 then
    let r := i.flat / x.deck.epr
    let e := i.flat % x.deck.epr
    (x.tile + r * x.deck.rowbytes, e, x.tile + x.deck.body + r * x.deck.bpr + e / 32)
  else (s.base + i.r * s.pitch, i.c, s.scale + i.r * x.bpr + i.c / 32)

def CalCtx.outFmt (x : CalCtx) (s : Stream) : Fmt := if s.kind = 2 then x.deck.fmt else Fmt.ofCode s.fmt

/-- The rounding of an output (R152). -/
def CalCtx.outRound (x : CalCtx) (s : Stream) : RMode := if s.rnd = 0 then x.rmode else if s.rnd = 1 then .nearest else .zero

/-- An output element converts (R152). -/
def CalCtx.convOut (x : CalCtx) (s : Stream) (v : FV) : Conv :=
  let f := x.outFmt s
  if x.d.wtype = 2 ∧ f.isInt = true then narrowI f (x.saturates s.sat) v.int else convElem f (x.outRound s) x.ftz v

/-- A converted element with what its way through the chain adds to its counts: saturated (SATC), flushed to zero, or a NaN that became zero (R29, R34, R40, R43, R47, R49, R53; log 60). -/
def Conv.after (c : Conv) (marks : Flags) : Conv :=
  { c with sat := c.sat || marks.satc, flush := c.flush || marks.zeroed, nan := c.nan || marks.nanZero, zero := c.zero || marks.zeroed }

/-- Count and write one encoding. -/
def CalCtx.put (x : CalCtx) (s : Stream) (count : Bool) (i : Item) (c : Option Conv) (a : CalAcc) : CalAcc :=
  let (base, j, _) := x.loc s i
  let a := a.withMem s (setElem (a.mem s) base (x.outFmt s).bits j (match c with | some c => c.bits | none => 0))
  match c with
  | some c => { a with counts := if count then a.counts.add (c.after i.marks) else a.counts, flags := a.flags.or c.flags }
  | none => a

/-- Write the items of an unscaled output. -/
def CalCtx.emitPlain (x : CalCtx) (s : Stream) (count : Bool) (is : List Item) (a : CalAcc) : CalAcc :=
  is.foldl (fun a i => x.put s count i (i.v.map (x.convOut s)) a) a

/-- Neighbouring items of one block together. -/
def CalCtx.blocks (x : CalCtx) (s : Stream) : List Item → List (Nat × List Item)
  | [] => []
  | i :: is =>
    let k := (x.loc s i).2.2
    match x.blocks s is with
    | (q, l) :: t => if q = k then (k, i :: l) :: t else (k, [i]) :: (q, l) :: t
    | [] => [(k, [i])]

/-- Write the items of a scaled output block by block (R34, R152). The elements of a block with scale 255 count in NAN and ELEMS alone. Of a block that a mask cuts, the active elements alone give the scale, and the block's scale byte is written whenever one of its elements is (log 76). -/
def CalCtx.emitScaled (x : CalCtx) (s : Stream) (count : Bool) (is : List Item) (a : CalAcc) : CalAcc :=
  let f := (x.outFmt s).elem
  (x.blocks s is).foldl (fun a (at_, l) =>
    let live := l.filterMap Item.v
    let sc := scaleFor f live
    let conv := fun (v : FV) => if sc = 255 then { bits := 0, flags := { inv := v.isSig }, nan := true } else convScaled f (x.outRound s) x.ftz sc v
    let a := l.foldl (fun a i => x.put s count (if sc = 255 then { i with marks := {} } else i) (i.v.map conv) a) a
    a.withMem s ((a.mem s).write at_ (BitVec.ofNat 8 sc))) a

/-- Bits [7:4] of the last byte of a four-bit felt row with an odd length are zero (R22). `n`: the row's length. -/
def CalCtx.padRow (x : CalCtx) (s : Stream) (n : Nat) (is : List Item) (a : CalAcc) : CalAcc :=
  if s.kind = 1 ∧ (x.outFmt s).bits = 4 ∧ n % 2 = 1 then
    is.foldl (fun a i => if i.c + 1 = n then let (b, j, _) := x.loc s i; a.withMem s (setElem (a.mem s) b 4 (j + 1) 0) else a) a
  else a

/-- Write items to an output stream, in rows of `n`. -/
def CalCtx.emit (x : CalCtx) (s : Stream) (count : Bool) (n : Nat) (is : List Item) (a : CalAcc) : CalAcc :=
  x.padRow s n is (if (x.outFmt s).scaled then x.emitScaled s count is a else x.emitPlain s count is a)

-- whole operations

/-- A row that has passed the chain. -/
structure RowDone where
  r : Nat
  lanes : List Lane
deriving DecidableEq, Repr

/-- Columns `c0` to `c0 + n - 1` of row `r` as they enter the chain, and the next packed element of EXPAND, which reads S0 flat whatever BCAST says (DESIGN CHOICE, log 75). `views`: what the elements of each BCAST code see of the felt. -/
def CalCtx.enter (x : CalCtx) (views : Nat → FeltView) (k r c0 n : Nat) : List Lane × Nat :=
  let m := ((x.maskRow r).drop c0).take n
  let cs := (List.range n).map (c0 + ·)
  let (s0, k') : List (FV × Flags) × Nat :=
    if x.d.s0.kind = 3 then (cs.map (fun c => x.toWork (if x.d.s0.drainType = 1 then .fp64 else if x.d.s0.drainType = 2 then .i32 else .fp32) (x.drained r c)), k)
    else if x.d.has nkExpand then expandRow (fun j => x.input (views 0) { x.d.s0 with bcast := 0 } 0 0 j j) m k
    else (cs.map (fun c => x.input (views x.d.s0.bcast) x.d.s0 0 r c (r * x.d.cols + c)), k)
  let s1 := cs.map (fun c => x.input (views x.d.s1.bcast) x.d.s1 1 r c (r * x.d.cols + c))
  (((s0.zip s1).zip m).map (fun ((a, b), t) => ⟨a.1, b.1, a.1, true, a.2.or b.2, t || x.d.has nkExpand⟩), k')

/-- The items of an elementwise output of a row: active elements, and inactive ones under MODE zero (R165). -/
def CalCtx.rowItems (x : CalCtx) (r c0 : Nat) (ls : List Lane) : List Item :=
  (ls.zip (List.range ls.length)).filterMap (fun (l, j) =>
    if l.act then some ⟨r, c0 + j, r * x.d.cols + c0 + j, some l.v, l.flags⟩
    else if x.d.mzero then some ⟨r, c0 + j, r * x.d.cols + c0 + j, none, {}⟩ else none)

/-- `a` has the greater magnitude, with NaN above ∞ (R174). -/
def magGt (a b : FV) : Bool :=
  if a.isNan then !b.isNan else if b.isNan then false else (b.withSign false).lt (a.withSign false)

/-- Which elements of a row TOPK selects (R174). -/
def topkSel (k : Nat) (vs : List (FV × Bool)) : List Bool :=
  let ix := vs.zip (List.range vs.length)
  ix.map (fun ((v, act), i) =>
    act && decide ((ix.filter (fun ((u, b), j) => b && (magGt u v || (!magGt v u && decide (j < i))))).length < k))

/-- The residual of a row: +0 for the selected elements (R175). -/
def residual (ls : List Lane) (sel : List Bool) : List Lane := (ls.zip sel).map (fun (l, t) => if t then { l with v := FV.zero } else l)

/-- TOPK's records and residual of a row (R174, R175). -/
def CalCtx.topkRow (x : CalCtx) (n : Nip) (r : Nat) (ls : List Lane) (a : CalAcc) : CalAcc :=
  let vs := ls.map (fun l => (l.v, l.act))
  let sel := topkSel n.imm vs
  let chosen := ((vs.zip sel).zip (List.range vs.length)).filterMap (fun ((p, t), c) => if t then some (c, p.1) else none)
  let marks := fun (c : Nat) => match ls[c]? with | some l => l.flags | none => {}
  let base := x.d.out.base + r * x.d.out.pitch
  let a := (List.range n.imm).foldl (fun (a : CalAcc) j =>
    match chosen[j]? with
    | some (c, v) =>
      let cv := convF .fp32 .nearest false v
      { a with felt := a.felt.writeLE (base + 8 * j) 8 (cv.bits * 2 ^ 32 + c), counts := a.counts.add (cv.after (marks c)), flags := a.flags.or cv.flags }
    | none => { a with felt := a.felt.writeLE (base + 8 * j) 8 0xFFFFFFFF }) a
  if x.d.aux.kind = 1 then
    x.emit x.d.aux false x.d.cols (x.rowItems r 0 (residual ls sel)) a
  else a

/-- What TOPK leaves in a tile AUX, all rows at once. -/
def CalCtx.topkTile (x : CalCtx) (n : Nip) (rows : List RowDone) (a : CalAcc) : CalAcc :=
  if x.d.aux.kind = 2 then
    x.emit x.d.aux false 0 (rows.flatMap (fun w =>
      x.rowItems w.r 0 (residual w.lanes (topkSel n.imm (w.lanes.map (fun l => (l.v, l.act))))))) a
  else a

/-- A row is drained (R135, R156): its fused results go to the felt. -/
def CalCtx.fuseRow (x : CalCtx) (r : Nat) (a : CalAcc) : CalAcc :=
  let s := x.d.s0
  if s.kind ≠ 3 ∨ (s.fmax = false ∧ s.fsum = false) then a
  else
    let w := s.drainType
    let vs := (List.range x.d.cols).map (fun c => (x.drained r c).1)
    let one := fun (sub off : Nat) (a : CalAcc) =>
      let (v, g, sat) := reduceVals w x.ftz sub vs
      { a with felt := a.felt.writeN (s.frow + 16 * r + off) (fusedBytes w v), flags := a.flags.or g,
               counts := { a.counts with sat := a.counts.sat + b2n sat } }
    let a := if s.fmax then one 1 0 a else a
    if s.fsum then one 0 8 a else a

/-- The OUT stream takes every element of the chain. -/
def CalDesc.outEach (d : CalDesc) : Bool := decide (d.out.kind ≠ 0) && !d.ends nkCompress && !d.ends nkTopk

/-- How far an operation is: what it has written, EXPAND's next element, the generator, and the felt as each group of the first row found it. -/
structure CalRun where
  acc : CalAcc
  packed : Nat
  rng : Word
  firsts : List Mem

/-- Columns that pass the chain together, the largest group of R184. It is a multiple of 32, so that no block is cut. -/
def groupCols : Nat := 256

/-- The rows of a rectangle from row `i` on. -/
def rowsFrom (q : Rect) (i : Nat) : Rect := (q.1 + i * q.2.1, q.2.1, q.2.2.1 - i, q.2.2.2)

/-- The output bytes still to be written when column `c` of row `r` is read: of an OUT that takes every element those from that column on; of rows written at their end those of this row and the later ones; and all of what follows the last row. COMPRESS and REDUCE write after the last row, so that an input element which they overlap reads its old value, one of the two that R153 allows (DESIGN CHOICE, log 92). -/
def CalCtx.due (x : CalCtx) (r c : Nat) : List Rect :=
  let d := x.d
  let bits := (Fmt.ofCode d.out.fmt).bits
  let rest := fun (q : Rect) (n : Nat) => [(q.1 + r * q.2.1 + n, 0, 1, q.2.2.2 - n), rowsFrom q (r + 1)]
  let frow := (d.inRects d.s0 true).2.map (fun q => rowsFrom q r)
  let outs :=
    if d.outEach then (d.outRects.zip [c * bits / 8, c / 32]).flatMap (fun p => rest p.1 p.2)
    else if d.ends nkTopk then d.outRects.map (fun q => rowsFrom q r) else d.outRects
  let aux := if d.ends nkTopk then d.auxRects.map (fun q => rowsFrom q r) else d.auxRects
  frow ++ outs ++ aux

/-- One group of a row (R146, R185): its elements pass the chain, its draws are taken, and an OUT in the felt that takes every element is written. `start` is the felt as the row found it. A broadcast element is read once, where it is first used (R149). -/
def CalCtx.group (x : CalCtx) (hs : Int) (first r : Nat) (start : Mem) (j : Nat) (st : CalRun × List Lane) : CalRun × List Lane :=
  let (st, done) := st
  let c0 := j * groupCols
  let n := Nat.min groupCols (x.d.cols - c0)
  let now := st.acc.felt
  let firsts := if r = first then st.firsts ++ [now] else st.firsts
  let views : Nat → FeltView := fun b =>
    if b = 0 then ⟨now, x.due r c0⟩ else if b = 1 then ⟨firsts.getD j now, x.due first c0⟩ else if b = 2 then ⟨start, x.due r 0⟩ else FeltView.old x.eng.felt
  let (ls, k) := x.enter views st.packed r c0 n
  let m := (x.d.nips.filter Nip.draws).length
  let (ds, rng) := rngDraws (ls.length * m) st.rng
  let ls := x.chain hs m ds x.d.nips 0 ls
  let a := { st.acc with flags := ls.foldl (fun g l => if l.act then g.or l.flags else g) st.acc.flags }
  let a := if x.d.outEach && x.d.out.kind == 1 then x.emit x.d.out true x.d.cols (x.rowItems r c0 ls) a else a
  (⟨a, k, rng, firsts⟩, done ++ ls)

/-- One row of the operation (R146): its groups in order, then what the row as a whole writes. -/
def CalCtx.row (x : CalCtx) (hs : Int) (first r : Nat) (st : CalRun) : CalRun × RowDone :=
  let start := st.acc.felt
  let st := { st with acc := x.fuseRow r st.acc }
  let (st, ls) := (List.range (ceilDiv x.d.cols groupCols)).foldl (fun p j => x.group hs first r start j p) (st, [])
  let a := match x.d.term with | some n => if n.kind = nkTopk then x.topkRow n r ls st.acc else st.acc | none => st.acc
  ({ st with acc := a }, ⟨r, ls⟩)

/-- The rows of the operation in order. -/
def CalCtx.rows (x : CalCtx) (hs : Int) (first : Nat) : List Nat → CalRun → CalRun × List RowDone
  | [], st => (st, [])
  | r :: rs, st =>
    let (st, w) := x.row hs first r st
    let (st, ws) := x.rows hs first rs st
    (st, w :: ws)

/-- The values that reach HIST in rows without draws, active ones only (R179); `a` is operand a of the nip. -/
def CalCtx.beforeHist (x : CalCtx) (lanes : List Lane) (draws : List Nat) (m : Nat) : List FV :=
  match x.d.nips.find? (fun n => n.kind == nkHist) with
  | some h =>
    (x.chain 0 m draws (x.d.nips.takeWhile (fun n => n.kind != nkHist)) 0 lanes).filterMap (fun l =>
      if l.act then some (flushIn x.wf x.ftz (x.operand h l h.opa)).1 else none)
  | none => []

/-- The largest magnitude among the finite values (R179). -/
def amaxOf (vs : List FV) : Option FV :=
  vs.foldl (fun (o : Option FV) v =>
    match v with
    | .fin _ m e => match o with | some b => if b.lt (.fin false m e) then some (.fin false m e) else some b | none => some (.fin false m e)
    | _ => o) none

/-- The amax of pass 1 (R179): R163 leaves no draw before HIST. -/
def CalCtx.histAmax (x : CalCtx) (rows : List Nat) : Option FV :=
  let step := fun (p : Option FV × Nat) (r : Nat) =>
    let (ls, k) := x.enter (fun _ => FeltView.old x.eng.felt) p.2 r 0 x.d.cols
    (amaxOf ((match p.1 with | some v => [v] | none => []) ++ x.beforeHist ls [] 0), k)
  (rows.foldl step (none, 0)).1

/-- The effective length of a history record (R178). -/
def histLen (rec : List Byte) : Nat := Nat.min (Nat.max (leAt rec 1 1) 1) 12

/-- The record is empty (R179). -/
def histEmpty (rec : List Byte) : Bool := bit (leAt rec 0 1) 0 || leAt rec 2 1 == 0

/-- The maximum of the valid entries; none where it is not finite, or there is none (R179). -/
def histMax (rec : List Byte) : Option FV :=
  let h := histLen rec
  let es := (List.range (Nat.min (leAt rec 2 1) h)).map (fun j => decodeF Fmt.fp32.info (leAt rec (8 + 4 * ((leAt rec 3 1 + 255 * h - 1 - j) % h)) 4))
  match es with
  | [] => none
  | v :: vs => let m := vs.foldl (fun a b => (minmaxFV true a b).1) v; if m.isNan || m.isInf then none else some m

/-- The scale exponent s of R179 for m; every s fits a negative m, which only a record that software wrote can give. A MARGIN above 7 is used whole: R178 gives it no clamp (DESIGN CHOICE, log 91). -/
def histScale (rec : List Byte) (m : Option FV) : Int :=
  match m with
  | some (.fin n a e) =>
    if a = 0 then 0
    else if n then -127
    else
      let f := (Fmt.ofCode (leAt rec 5 1)).elem
      let l : FV := if f.isInt then FV.ofInt f.range.2 else decodeF f.info f.info.maxBits
      let fits := fun (s : Int) => !l.lt (.fin false a (e + (leAt rec 6 1 : Nat) - s))
      ((List.range 255).find? (fun (i : Nat) => fits ((i : Int) - 127))).elim 127 (fun i => (i : Int) - 127)
  | _ => 0

/-- The record after the operation (R179). -/
def histNext (rec : List Byte) (m : Option FV) (s : Int) : List Byte :=
  let h := histLen rec
  let next := leAt rec 3 1 % h
  let b := match m with | some v => (convF .fp32 .up false v).bits | none => 0
  let b := if b = 0x7F800000 then 0x7F7FFFFF else b
  let put := fun (l : List Byte) (o n v : Nat) => l.take o ++ leBytes n v ++ l.drop (o + n)
  let r := put rec (8 + 4 * next) 4 b
  let r := put r 3 1 ((next + 1) % h)
  let r := put r 2 1 (Nat.min (Nat.min (leAt rec 2 1) h + 1) h)
  let r := put r 4 1 (wrapN 8 s)
  put r 0 1 (leAt rec 0 1 - leAt rec 0 1 % 2)

/-- The scale-table entry after the operation (R177). -/
def scupdNext (entry bad : Nat) : Nat :=
  let e := sext 8 entry
  let good := fld entry 8 8
  let grow := fld entry 16 8
  let (e, good) : Int × Nat :=
    if 0 < bad then (Max.max (e - 1) (-128), 0)
    else
      let g := Nat.min (good + 1) 255
      if grow ≠ 0 ∧ grow ≤ g then (Min.min (e + 1) 127, 0) else (e, g)
  setFld (setFld entry 0 8 (wrapN 8 e)) 8 8 good

/-- The active values of a reduced row or column, by index (R166). -/
def CalCtx.groups (x : CalCtx) (n : Nip) (rows : List RowDone) : List (Nat × List FV) :=
  if bit n.fmt 0 then
    (List.range x.d.cols).map (fun c => (c, rows.filterMap (fun w => match w.lanes[c]? with | some l => if l.act then some l.v else none | none => none)))
  else rows.map (fun w => (w.r, (w.lanes.filter Lane.act).map Lane.v))

/-- The record of a mean and variance (R167). -/
def CalCtx.record (x : CalCtx) (n : Nip) (i : Nat) (vs : List FV) (a : CalAcc) : CalAcc :=
  let b := if x.d.wtype = 1 then 8 else 4
  let (k, mu, m2, var, g) := meanVar x.d.wtype x.ftz (n.sub == 5) vs
  let o := x.d.aux.base + i * x.d.aux.pitch
  { a with
    felt := a.felt.writeN o (leBytes b k ++ leBytes b (encW x.d.wtype mu) ++ leBytes b (encW x.d.wtype m2) ++ leBytes b (encW x.d.wtype var))
    flags := a.flags.or g
    counts := a.counts.add { bits := 0, flush := g.zeroed, nan := var.isNan, inf := var.isInf, zero := var.isZero } }

/-- What REDUCE writes to AUX (R166 to R168). -/
def CalCtx.reduceOut (x : CalCtx) (n : Nip) (rows : List RowDone) (a : CalAcc) : CalAcc :=
  let gs := x.groups n rows
  if 4 ≤ n.sub then gs.foldl (fun a (i, vs) => x.record n i vs a) a
  else
    let rs := gs.map (fun (i, vs) => (i, reduceVals x.d.wtype x.ftz n.sub vs))
    let a := { a with flags := rs.foldl (fun g (_, _, h, _) => g.or h) a.flags }
    let item := fun (i : Nat) (v : FV) (marks : Flags) => if bit n.fmt 0 then (⟨0, i, i, some v, marks⟩ : Item) else ⟨i, 0, i, some v, marks⟩
    x.emit x.d.aux true (if bit n.fmt 0 then x.d.cols else 1) (rs.map (fun (i, v, g, sat) => item i v { satc := sat, zeroed := g.zeroed })) a

/-- What COMPRESS writes (R169). -/
def CalCtx.compressOut (x : CalCtx) (rows : List RowDone) (a : CalAcc) : CalAcc :=
  let vs := (rows.flatMap RowDone.lanes).filter (fun l => l.act && l.p)
  let a := x.emit x.d.out true vs.length ((vs.zip (List.range vs.length)).map (fun (l, j) => ⟨0, j, j, some l.v, l.flags⟩)) a
  { a with felt := a.felt.writeLE x.d.aux.base 4 vs.length }

/-- The summary of R171, and the flags of its sum and maximum. A saturated I32 SUM counts in no tally, which counts output elements (DEDUCED, log 93). -/
def CalCtx.summary (x : CalCtx) (seq : Nat) (rows : List RowDone) : Summary × Flags :=
  let w := x.d.wtype
  let vs := (rows.flatMap RowDone.lanes).filterMap (fun l => if l.act && l.p then some l.v else none)
  let (sum, g, _) := reduceVals w x.ftz 0 vs
  let (top, h, _) := reduceVals w x.ftz 1 vs
  let enc := fun (v : FV) => if w = 2 then BitVec.ofInt 64 v.int else BitVec.ofNat 64 (encW w v)
  (⟨seq, vs.any FV.isNan, vs.length, enc sum, enc top⟩, g.or h)

/-- Everything that follows the last row: tile outputs, reductions, compress. -/
def CalCtx.finish (x : CalCtx) (rows : List RowDone) (a : CalAcc) : CalAcc :=
  let a := if x.d.outEach && x.d.out.kind == 2 then
      x.emit x.d.out true 0 (rows.flatMap (fun w => x.rowItems w.r 0 w.lanes)) a
    else a
  match x.d.term with
  | some n =>
    if n.kind = nkReduce then x.reduceOut n rows a
    else if n.kind = nkCompress then x.compressOut rows a
    else x.topkTile n rows a
  | none => a

/-- The rows that an operation processes: of a drain those of its blocks, in ascending order (R154). -/
def CalDesc.rowList (d : CalDesc) (toks : List Token) : List Nat :=
  if d.s0.kind = 3 then (List.range 128).filter (fun r => toks.any (fun t => t.block == r / 32)) else List.range d.rows

/-- What reading one element of a felt or tile stream finds (R254, R463). -/
def CalCtx.elemPoison (x : CalCtx) (s : Stream) (r c flat : Nat) : List Found :=
  let (r, c, i) := s.stored r c flat
  if s.kind = 1 then (x.elemSpan s r c).flatMap (fun q => x.eng.feltPoison q.1 q.2)
  else if s.kind = 2 then
    let w := x.deck.fmt.bits
    let (y, e) := (i / x.deck.epr, i % x.deck.epr)
    x.eng.tilePoison (x.tile + y * x.deck.rowbytes + e * w / 8) (Nat.max (w / 8) 1) ++
      (if x.deck.fmt.scaled then x.eng.tilePoison (x.tile + x.deck.body + y * x.deck.bpr + e / 32) 1 else [])
  else []

/-- What reading element (r, c) of a drain finds: in the ream, and in the test tensor (R136, R463). -/
def CalCtx.drainPoison (x : CalCtx) (r c : Nat) : List Found :=
  let s := x.d.s0
  let b := if s.form = 1 then 8 else 4
  x.eng.reamCellPoison s.ream r c ++ (if s.ftest = 0 then [] else x.eng.feltPoison (s.tbase + r * s.tpitch + c * b) b)

/-- The elements of rows that raise faults: the active ones (R165); EXPAND's bitmap masks nothing. -/
def CalCtx.live (x : CalCtx) (rows : List Nat) : List (Nat × Nat) :=
  rows.flatMap (fun r => ((x.maskRow r).zip (List.range x.d.cols)).filterMap (fun (t, c) => if t || x.d.has nkExpand then some (r, c) else none))

/-- The first read error of each of an operation's inputs (R254, R463): S0, S1, the mask of its rows, the scale-table entry and the history record. A masked element raises no fault (R165), but fused row results read every column (R156); EXPAND reads as many packed elements as its bitmap has 1 bits (R170). Of bad units in several inputs the one of the input named first here is the first unit of DETAIL, whatever the row (DESIGN CHOICE, log 94). -/
def CalCtx.poison (x : CalCtx) (rows : List Nat) : List Found :=
  let d := x.d
  let e := x.eng
  if e.feltBad.isEmpty && e.tileBad.isEmpty && e.reamBad.isEmpty then []
  else
    let live := x.live rows
    let every := rows.flatMap (fun r => (List.range d.cols).map (fun c => (r, c)))
    let ones := (rows.map (fun r => ((x.maskRow r).filter id).length)).sum
    let s0 :=
      if d.s0.kind = 3 then (if d.s0.fmax || d.s0.fsum then every else live).flatMap (fun p => x.drainPoison p.1 p.2)
      else if d.has nkExpand then (List.range ones).flatMap (fun j => x.elemPoison { d.s0 with bcast := 0 } 0 j j)
      else live.flatMap (fun p => x.elemPoison d.s0 p.1 p.2 (p.1 * d.cols + p.2))
    let s1 := live.flatMap (fun p => x.elemPoison d.s1 p.1 p.2 (p.1 * d.cols + p.2))
    s0.take 1 ++ s1.take 1 ++ (if d.mkind = 1 then rows.flatMap (fun r => e.feltPoison (d.mbase + r * d.mpitch) (ceilDiv d.cols 8)) else []).take 1 ++
      (if d.has nkScupd then e.feltPoison (d.stab + 4 * d.layer) 4 else []) ++ (if d.has nkHist then e.feltPoison d.hrec 64 else [])

/-- The felt units that unmasked outputs cover are good again. -/
def cleanRects (bad : Tab Bool) (rs : List Rect) : Tab Bool :=
  if bad.isEmpty then bad else rs.foldl (fun t r => (List.range r.2.2.1).foldl (fun t i => feltClean t (r.1 + i * r.2.1) r.2.2.2) t) bad

/-- The generator as an operation of sheet `q` finds it (R45, R46): as the last operation that has not completed left it, unless an EWR took effect for a sheet between the two. -/
def Core.rngFor (c : Core) (q : Nat) : Word :=
  match c.eng.calDone.getLast? with
  | none => c.modeReg rselRng q
  | some x => match c.eng.ewrAfter rselRng x.seq q with | some v => v | none => x.rng

/-- An operation reads a unit of its core's storage: a bad one there would raise its read error (R254, R463). -/
def CalCtx.readsUnit (x : CalCtx) (k : Nat) (rows : List Nat) (l : Loc) : Bool :=
  let would := fun (e : Eng) => !({ x with eng := e }.poison rows).isEmpty
  let e := { x.eng with feltBad := [], tileBad := [], reamBad := [] }
  match l with
  | .felt j u => j == k && would { e with feltBad := [(u, true)] }
  | .tile j a => j == k && would { e with tileBad := [(a / 8, true)] }
  | .ream j a => j == k && would { e with reamBad := [(a / 8, true)] }
  | _ => false

/-- What fixes the values of a C operation, as the state has it. -/
def State.calCtx (s : State) (k : Nat) (o : EngOp) (d : CalDesc) : CalCtx :=
  let c := s.core k
  let entry := c.eng.felt.readLE (d.stab + 4 * d.layer) 4
  ⟨d, deckleOf (slotDeck o.word), slotTile o.word * 32768, c.nmode o.seq, o.gv.getD 1 0, o.gv.getD 2 0, sext 8 entry, o.vcap, s.free, c.eng⟩

/-- S0 is no broadcast: EXPAND reads it flat, whatever BCAST says (log 75). -/
def CalDesc.fullS0 (d : CalDesc) : Bool := d.s0.bcast == 0 || d.has nkExpand

/-- The full-tensor streams of an operation that move through the felt, as bits per element and whether they are scaled (R184). COMPRESS's packed OUT, EXPAND's packed S0 and a fused test tensor count among them (DESIGN CHOICE, log 95). -/
def CalDesc.feltStreams (d : CalDesc) : List (Nat × Bool) :=
  let f := fun (s : Stream) => ((Fmt.ofCode s.fmt).bits, (Fmt.ofCode s.fmt).scaled)
  let full := fun (s : Stream) => s.kind == 1 && s.bcast == 0
  (if d.s0.kind == 1 && d.fullS0 then [f d.s0] else []) ++ (if full d.s1 then [f d.s1] else []) ++ (if d.out.kind == 1 && !d.ends nkTopk then [f d.out] else []) ++
  (if d.aux.kind == 1 && d.ends nkTopk then [f d.aux] else []) ++
  (if d.s0.kind = 3 ∧ d.s0.ftest ≠ 0 then [(if d.s0.form = 1 then 64 else 32, false)] else [])

/-- A tile stream of the operation that is no broadcast. An AUX of REDUCE counts with all elements (R184; DESIGN CHOICE, log 95). -/
def CalDesc.tileFull (d : CalDesc) : Bool := (d.s0.kind == 2 && d.fullS0) || (d.s1.kind == 2 && d.s1.bcast == 0) || d.tileOut

/-- The groups in which an operation processes `n` elements (R184): the most that one of its limits makes of them, each given as elements of so many 32nds of a byte against bytes per ACLK. `tile`: bits of a tile element. -/
def CalDesc.groupsOf (d : CalDesc) (n tile : Nat) : Nat :=
  let felt := (d.feltStreams.map (fun (b, sc) => 4 * b + b2n sc)).sum + (if d.mkind = 1 then 4 else 0)
  let slow := d.nips.any (fun x => decide (0x20 ≤ x.kind) && decide (x.kind ≤ 0x23))
  let tiles := (if d.tileFull then ceilDiv (n * tile) 8192 else 0)
  Nat.max (Nat.max (ceilDiv n (if slow then 128 else 256)) (ceilDiv (n * felt) 65536)) (Nat.max tiles (if d.s0.kind = 3 ∧ d.s0.form = 1 then ceilDiv n 128 else 0))

/-- CAL runs on the tokens it consumes (R146 to R179), in two passes over its groups when its history record is empty (R481). What R185 leaves for its completion waits in `calDone`. -/
def State.calRun (s : State) (k : Nat) (o : EngOp) (d : CalDesc) (toks : List Token) : State :=
  let rows := d.rowList toks
  let s := s.strike ((s.calCtx k o d).readsUnit k rows)
  let c := s.core k
  let e := c.eng
  let nm := c.nmode o.seq
  let entry := e.felt.readLE (d.stab + 4 * d.layer) 4
  let x := s.calCtx k o d
  let hist := d.has nkHist
  let rec_ := e.felt.readN d.hrec 64
  let hs := if hist then histScale rec_ (if histEmpty rec_ then x.histAmax rows else histMax rec_) else 0
  let (run, done) := x.rows hs (rows.headD 0) rows ⟨⟨e.felt, e.tiles, {}, {}⟩, 0, c.rngFor o.seq, []⟩
  let a := x.finish done run.acc
  let am := amaxOf (done.flatMap (fun w => x.beforeHist (w.lanes.map (fun l => { l with v := l.s0, p := true })) [] 0))
  let (sm, sf) := x.summary o.seq done
  let fl := if d.sumq then a.flags.or sf else a.flags
  let n := a.counts
  let fin : CalDone :=
    { seq := o.seq, pos := o.pos, nmode := nm, tally := cTally o.word, toff := tallyOff (o.gv.getD 3 0), counts := n, flags := fl.nstat,
      scup := if d.has nkScupd && bit entry 24 then some (d.stab + 4 * d.layer, scupdNext entry (n.sat + n.inf + n.nan)) else none,
      hist := if hist then some (d.hrec, histNext rec_ am hs) else none,
      sum := if d.sumq then some sm else none,
      bad := lowest ((match o.bad with | some u => [(0x69, u)] | none => []) ++ x.poison rows)
      rng := run.rng
      spans := cSpans o
      drain := if d.s0.kind = 3 then some d.s0.ream else none }
  let whole := d.mkind == 0 || d.has nkExpand || d.mzero
  let e' := { e with
    felt := a.felt, tiles := a.tiles, cq := e.cq.drop 1, couch := e.couch.drop toks.length, calDone := e.calDone ++ [fin],
    feltBad := if whole && decide (d.s0.kind ≠ 3) && !d.ends nkCompress then cleanRects e.feltBad (d.outRects ++ d.auxRects) else e.feltBad,
    tileBad := if whole && d.tileOut then feltClean e.tileBad (slotTile o.word * 32768) x.deck.size else e.tileBad }
  let s := { s.setCore k { c with eng := e'.unclaim o.seq o.pos } with free := s.free + 2 * (d.rows * d.cols) }
  s.event k 0x13 ((if hist && histEmpty rec_ then 2 else 1) * d.groupsOf (rows.length * d.cols) x.deck.fmt.bits)

/-- An operation waits to complete since the summary queue is full (R171): every later C operation waits behind it (R173). -/
def Eng.sumsFull (e : Eng) : Bool := decide (16 ≤ e.sums.length) && e.calDone.any (fun x => x.sum.isSome)

/-- CAL (R143, R183): the first C operation runs once its tile bytes and felt bytes are free and the one before it, or the last but one, has completed; a drain also waits for all of its tokens before it reads a block, and fails when one of them does not match (R154, R181, R182; log 60). -/
def State.cal (s : State) (k : Nat) : State :=
  let e := s.eng k
  match e.cq with
  | [] => s
  | o :: _ =>
    let d := calDescOf o.desc
    if s.tripped = true ∨ 2 ≤ e.calDone.length ∨ e.sumsFull = true ∨ e.claimed o.seq o.pos = true ∨ e.syncWaits o.seq = true ∨
        e.feltWaits o.seq o.pos 0 (cSpans o) = true then s
    else if d.s0.kind ≠ 3 then s.calRun k o d []
    else
      let toks := e.couch.take d.s0.ntok
      if toks.any (fun t => t.ream != d.s0.ream || t.n1 + 1 != d.cols) then
        (s.updEng k (fun e => { e with cq := e.cq.drop 1 }.unclaim o.seq o.pos)).engFault k ⟨o.seq, o.pos, 0, unitC, 0x51, 0, 0⟩
      else if toks.length < d.s0.ntok then s
      else s.calRun k o d toks

def execCal (k : Nat) (s : State) : Out := guardUnit (isSlot k) (s.cal k)

/-- CAL_COMPLETE (R37, R39, R171, R185): in sheet order, the generator (R46), the tally record, scale-table entry, history record, summary, flags and faults; it waits while the queue holds 16 summaries. -/
def State.calEnd (s : State) (k : Nat) : State :=
  let e := s.eng k
  match e.calDone with
  | [] => s
  | x :: rest =>
    if s.tripped = true ∨ (x.sum.isSome = true ∧ 16 ≤ e.sums.length) then s
    else
      let s := s.tallyRead k x.tally x.toff
      let bad := (match x.bad with | some b => [b] | none => []) ++ (s.eng k).tallyPoison x.tally x.toff
      let s := s.updCore k (fun c => (c.settle rselRng x.seq).setReg ENG_RNG x.rng)
      let s := (s.setNstat k x.flags).tallyTo k x.tally x.toff x.counts
      let s := s.updEng k (fun e =>
        let e := match x.scup with | some (a, v) => e.writeFelt a (leBytes 4 v) | none => e
        let e := match x.hist with | some (a, bs) => e.writeFelt a bs | none => e
        { e with calDone := rest, sums := e.sums ++ x.sum.toList })
      s.opFault k x.seq x.pos unitC x.nmode x.flags bad

def execCalComplete (k : Nat) (s : State) : Out := guardUnit (isSlot k) (s.calEnd k)

end Sys2Proof.Machine
end

