-- ==== Sys2Proof/Machine/Hollander.lean ====
section
/-! DEFINITION. The hollander (R265 to R281): HMV reads descriptors, COPY, FILL, the updates and VFETCH run them, DESCRIPTOR_COMPLETE ends them; and the update requests at the memory controllers (R336 to R338). -/

namespace Sys2Proof.Machine

/-- Change the entries of an H slot's descriptor. -/
def Eng.updHol (e : Eng) (h : HolEntry) (f : HolEntry → HolEntry) : Eng :=
  { e with hol := e.hol.map (fun x => if x.seq = h.seq ∧ x.pos = h.pos ∧ x.idx = h.idx then f x else x) }

/-- The remote requests of a descriptor. -/
def State.holReqs (s : State) (k : Nat) (h : HolEntry) : List RemReq :=
  s.dln.reqs.filter (fun r => r.core == k && decide (r.desc = some (h.seq, h.pos, h.idx)))

-- HMV

/-- The felt bytes that a descriptor's check reads: the descriptor and its index arrays. -/
def holCheckSpans (off : Nat) (d : HolDesc) : List (Nat × Nat × Bool) :=
  let ix := fun (has : Bool) (x : Side) => if has && x.mode == 4 then [(fld x.param 0 32, fld x.param 0 32 + 4 * d.total, false)] else []
  (off, off + 64, false) :: (ix d.hasSrc d.src ++ ix d.hasDst d.dst)

/-- HMV (R265, R274, R277): the hollander reads the 64 bytes of its next descriptor, keeps or drops what it read ahead, and checks it. A held fault is raised when the bytes are equal. -/
def State.holRead (s : State) (k : Nat) : State :=
  let e := s.eng k
  match e.hol.find? (fun h => decide (h.phase = .unread)) with
  | none => s
  | some h =>
    let inside := decide (h.off % 64 = 0 ∧ h.off + 64 ≤ feltSize)
    let bs := if inside then e.felt.readN h.off 64 else []
    let d := holDescOf bs
    if h.vcmd = true ∨ e.syncWaits h.seq = true ∨
        (inside = true ∧ e.feltWaits h.seq h.pos h.idx (if d.bad then [(h.off, h.off + 64, false)] else holCheckSpans h.off d) = true) then s
    else
      let same := match h.stage with | some w => decide (w.bytes = bs) | none => false
      let had := match h.stage with | some w => !w.data.isEmpty | none => false
      let s := if had then s.bumpHol k (if same then 1 else 2) 1 else s
      let s := if inside then s.strikeFelt k [(h.off, 64)] else s
      match (if inside then (s.eng k).feltPoison h.off 64 else []) with
      | (_, a) :: _ => s.holFail k h.seq h.pos h.idx 0x68 a
      | [] =>
        match holCheck h.off e.felt d with
        | some (c, a) => s.holFail k h.seq h.pos h.idx c a
        | none =>
          let spans := (holCheckSpans h.off d).map (fun (a, b, _) => (a, b - a))
          let s := s.strikeFelt k spans
          match spans.flatMap (fun (a, n) => (s.eng k).feltPoison a n) with
          | (_, a) :: _ => s.holFail k h.seq h.pos h.idx 0x68 a
          | [] =>
            match (if same then h.stage.bind WetRead.held else none) with
            | some (c, va) => s.holFail k h.seq h.pos h.idx c va.toNat
            | none => s.updEng k (fun e => e.updHol h (fun x => { x with phase := .ready, bytes := bs, stage := if same then h.stage else none, ix := d.indices e.felt }))

def execHmv (k : Nat) (s : State) : Out := guardUnit (isSlot k) (s.holRead k)

-- elements

/-- Where an element lies: own felt, a physical address with its memory type, or a device (R266). -/
inductive HLoc where
  | felt (off : Nat)
  | phys (va pa mt : Nat)
  | remote (dev addr : Nat)
deriving DecidableEq, Repr

/-- How the location of an element is found: there, with a fault, or not yet, because a table or the element lies in a held window (R440, R442). -/
inductive LRes where
  | at (l : HLoc)
  | fault (f : Found)
  | later
deriving DecidableEq, Repr

/-- Locate an element: a virtual side is translated (R275), and an aperture address names another device (R374). -/
def State.locate (s : State) (k : Nat) (x : Side) (a : Nat) (kind : AccKind) (user : Bool) (mode : XMode) : State × LRes :=
  if x.space = 0 then (s, .at (.felt a))
  else if x.space = 2 then (s, .at (.remote (fld a 48 12) (a % 2 ^ 48)))
  else
    match s.xlat k (BitVec.ofNat 64 a) kind user mode true with
    | (s, .ok pa mt) =>
      if s.waitsFor k (s.target pa) then (s, .later)
      else (s, .at (if s.target pa = .remote then .remote (s.aperture pa).1 (s.aperture pa).2 else .phys a pa mt))
    | (s, .fault sub) => (s, .fault (holCode sub, a))
    | (s, .later) => (s, .later)

/-- Read an element: its bytes, none for one that lies on a device, or the poison fault (R254, R277, R334). -/
def State.readLoc (s : State) (k n : Nat) : HLoc → State × Except Found (Option (List Byte))
  | .felt off =>
    let s := s.strikeFelt k [(off, n)]
    match (s.eng k).feltPoison off n with
    | (_, a) :: _ => (s, .error (0x68, a))
    | [] => (s, .ok (some ((s.eng k).felt.readN off n)))
  | .phys va pa _ =>
    match s.target pa with
    | .ctl off => let (s, bs) := s.ctlReadN k off n; (s, .ok (some bs))
    | _ =>
      let s := s.strikeMem false k pa n
      let t := s.seenBy false k
      match t.firstBad pa 0 n with
      | some i => (s, .error (0x68, va + i))
      | none => (s.logHole k 0 pa n, .ok (some (t.physRead pa n)))
  | .remote _ _ => (s, .ok none)

/-- The element's bytes as they stand now, where reading them again changes nothing. -/
def State.freshLoc (s : State) (k n : Nat) : HLoc → Option (List Byte)
  | .felt off => some ((s.eng k).felt.readN off n)
  | .phys _ pa _ => match s.target pa with | .stack => some ((s.seenBy false k).physRead pa n) | .vat _ _ => some (s.physRead pa n) | .felt _ _ => some (s.physRead pa n) | _ => none
  | .remote _ _ => none

/-- A write of an element to control space has to wait (R440). -/
def State.locStalls (s : State) (bs : List Byte) : HLoc → Bool
  | .phys _ pa _ =>
    match s.target pa with
    | .ctl off => (chunks 8 off bs.length).any (fun (a, m) => s.ctlStalls a m (leNat ((bs.drop (a - off)).take m)))
    | _ => false
  | _ => false

/-- The stream hint of an access to a location (R265, R300). -/
def State.streamLoc (s : State) (k : Nat) (stream : Bool) : Option HLoc → State
  | some (.phys _ pa _) => if stream then s.streamMark k pa else s
  | _ => s

/-- Write an element. -/
def State.writeLoc (s : State) (k : Nat) (bs : List Byte) (h : HolEntry) : HLoc → State
  | .felt off => s.updEng k (fun e => e.writeFelt off bs)
  | .phys _ pa _ =>
    match s.target pa with
    | .ctl off => s.ctlWriteN k off bs
    | _ => (s.logHole k 1 pa bs.length).physWriteLine k pa bs
  | .remote dev addr => s.sendRemote k true dev addr bs.length bs (some (h.seq, h.pos, h.idx))

/-- An element of a descriptor that has been located and read. `src`: none for data that needs no source now; `at_`: its destination's address. -/
structure HElem where
  at_ : Nat
  src : Option HLoc
  dst : HLoc
  data : List Byte
deriving DecidableEq, Repr

/-- What the source of element `n` comes to: its location, and its bytes unless they come from another die; none while it must wait. `staged`: its run-ahead data. -/
def State.takeSrc (s : State) (k : Nat) (d : HolDesc) (ix : Mem) (user : Bool) (n : Nat) (staged : Option (List Byte)) :
    State × Option (Except Found (Option HLoc × Option (List Byte))) :=
  if !d.hasSrc then (s, some (.ok (none, some (leBytes d.size d.src.base))))
  else
    match staged with
    | some bs => (s, some (.ok (none, some bs)))
    | none =>
      match s.locate k d.src (d.srcAddr ix n) .load user .act with
      | (s, .later) => (s, none)
      | (s, .fault f) => (s, some (.error f))
      | (s, .at l) =>
        match s.readLoc k d.size l with
        | (s, .error f) => (s, some (.error f))
        | (s, .ok bs) => (s, some (.ok (some l, bs)))

/-- Where element `n` goes; none while it must wait. An update goes to stack memory alone (R277). The D bit of its page waits for the write (R349). -/
def State.takeDst (s : State) (k : Nat) (d : HolDesc) (ix : Mem) (user : Bool) (n : Nat) : State × Option (Except Found HLoc) :=
  match s.locate k d.dst (d.dstAddr ix n) .store user .read with
  | (s, .later) => (s, none)
  | (s, .fault f) => (s, some (.error f))
  | (s, .at l) =>
    let stack := match l with | .phys _ pa _ => decide (s.target pa = .stack) | _ => false
    if d.isUpd && !stack then (s, some (.error (0x66, d.dstAddr ix n))) else (s, some (.ok l))

/-- Located and read elements `n` and on, `m` of them at most, in logical order, up to a fault or to an element that must wait. `stage`: run-ahead data; `rem`: what remote reads brought, with their poison mark (R334); `ix`: the index array. -/
def State.gather (s : State) (k : Nat) (d : HolDesc) (ix : Mem) (user : Bool) :
    Nat → Nat → List (List Byte) → List (List Byte × Bool) → State × List HElem × Option Found × Bool
  | 0, _, _, _ => (s, [], none, false)
  | m + 1, n, stage, rem =>
    match s.takeSrc k d ix user n stage.head? with
    | (s, none) => (s, [], none, true)
    | (s, some (.error f)) => (s, [], some f, false)
    | (s, some (.ok (src, got))) =>
      if got.isNone && rem.head?.any Prod.snd then (s, [], some (0x68, d.srcAddr ix n), false)
      else
        match s.takeDst k d ix user n with
        | (s, none) => (s, [], none, true)
        | (s, some (.error f)) => (s, [], some f, false)
        | (s, some (.ok dst)) =>
          let data := got.getD ((rem.head?.map Prod.fst).getD [])
          if s.locStalls data dst then (s, [], none, true)
          else
            let (s, es, f, w) := s.gather k d ix user m (n + 1) (stage.drop 1) (match got with | some _ => rem | none => rem.drop 1)
            (s, ⟨d.dstAddr ix n, src, dst, data⟩ :: es, f, w)

/-- The element is read from another die. -/
def HElem.farSrc (e : HElem) : Bool := match e.src with | some (.remote _ _) => true | _ => false

/-- The element is written on another die. -/
def HElem.farDst (e : HElem) : Bool := match e.dst with | .remote _ _ => true | _ => false

/-- The remote reads that the elements need: device, address. -/
def remoteSrcs (es : List HElem) : List (Nat × Nat) := es.filterMap (fun e => match e.src with | some (.remote d a) => some (d, a) | _ => none)

/-- How many of the elements go next, with `r` reads and `w` unacknowledged lines left for them (R12, R280). -/
def holFit (r w : Nat) : List HElem → Nat
  | [] => 0
  | e :: es => if (e.farSrc && r == 0) || (e.farDst && w == 0) then 0 else holFit (r - b2n e.farSrc) (w - b2n e.farDst) es + 1

/-- The D bit of the page to which an element is written is set (R349). -/
def State.markPage (s : State) (k : Nat) (d : HolDesc) (user : Bool) (e : HElem) : State :=
  if d.dst.space = 1 then (s.xlat k (BitVec.ofNat 64 e.at_) .store user .set true).1 else s

/-- Write the elements of a COPY or FILL in logical order. Where an earlier element has overwritten a source since, the element takes the old or the new bytes (R270); with a fault behind it, it is written or not (R278). `n`: the element's number. -/
def State.scatter (s : State) (k : Nat) (h : HolEntry) (d : HolDesc) (free : Nat) (faulted : Bool) : Nat → List HElem → State
  | _, [] => s
  | n, e :: es =>
    let fresh := e.src.bind (s.freshLoc k d.size)
    let bs := match fresh with | some b => if b ≠ e.data ∧ Config.choose (free + 2 * n + 1) = true then b else e.data | none => e.data
    let s := if faulted && !Config.choose (free + 2 * n) then s else ((s.markPage k d (h.user || d.uperm) e).streamLoc k d.stream (some e.dst)).writeLoc k bs h e.dst
    (s.streamLoc k d.stream e.src).scatter k h d free faulted (n + 1) es

/-- The elements that may go at once: none behind one that is written on another die, so that those keep their old value when it fails (R278, DEDUCED, log 87). -/
def farCut (es : List HElem) (m : Nat) : Nat := match (es.take m).findIdx? HElem.farDst with | some i => i + 1 | none => m

-- updates

/-- Put an element into the newest request when it stands in the same granule at a new position, else begin a request (R336). Requests are held newest first. -/
def addUpdate (acc : List (Nat × Nat × List (Nat × Nat))) (va pa v : Nat) : List (Nat × Nat × List (Nat × Nat)) :=
  let g := pa / 64
  match acc with
  | (g', a, l) :: t => if g' = g ∧ l.any (fun p => p.1 == pa % 64) = false then (g', a, l ++ [(pa % 64, v)]) :: t else (g, va, [(pa % 64, v)]) :: acc
  | [] => [(g, va, [(pa % 64, v)])]

/-- Requests enter the queue of a port, 192 at most, in the order in which they reached it; the others wait in the mesh (R12, R14). -/
def Port.fill (q : Port) : Port := let n := 192 - q.upd.length; { q with upd := q.upd ++ q.mesh.take n, mesh := q.mesh.drop n }

/-- A request reaches its port. -/
def State.postUpdate (s : State) (u : UpdReq) : State :=
  let p := (s.portOf u.granule).1
  s.setPort p { s.port p with mesh := (s.port p).mesh ++ [u] }.fill

/-- The requests that elements make, in logical order of their first elements, as (granule, virtual address, elements) (R336). -/
def updRuns (es : List HElem) : List (Nat × Nat × List (Nat × Nat)) :=
  (es.foldl (fun acc e => match e.dst with | .phys va pa _ => addUpdate acc va pa (leNat e.data) | _ => acc) []).reverse

/-- Send the update requests of a descriptor's elements to their ports (R336). `n`: the elements moved before. -/
def State.sendUpdates (s : State) (k : Nat) (h : HolEntry) (d : HolDesc) (n : Nat) (es : List HElem) : State :=
  let rs := updRuns es
  let ftz := bit ((s.core k).nmode h.seq) 0
  let s := es.foldl (fun s e => ((s.markPage k d (h.user || d.uperm) e).streamLoc k d.stream e.src).streamLoc k d.stream (some e.dst)) s
  (rs.zip (List.range rs.length)).foldl (fun s ((g, va, l), i) =>
    s.postUpdate ⟨k, h.seq, h.pos, h.idx, n + i, BitVec.ofNat 64 va, g * 64, d.op - 2, d.utype, ftz, l⟩) s

/-- The first `m` of the elements without the run that the next element may still join (R336). -/
def updCut (es : List HElem) (m : Nat) : Nat := if m < es.length then m - ((updRuns (es.take m)).getLast?.map (fun r => r.2.2.length)).getD 0 else m

-- running a descriptor

/-- Entry `i` of the hollander runs now (R262, R265, R278, R279): it has been read and has this operation; every entry before it has started, those of its H slot have completed all but their end; its FENCE and its felt bytes are free. -/
def State.holReady (s : State) (k i op : Nat) : Option (HolEntry × HolDesc) :=
  let e := s.eng k
  match e.hol[i]? with
  | none => none
  | some h =>
    let d := holDescOf h.bytes
    let before := e.hol.take i
    let started := fun (x : HolEntry) => decide (x.phase = .issued) || decide (0 < x.written) || !(s.holReqs k x).isEmpty
    let sure := fun (x : HolEntry) => !(x.seq == h.seq && x.pos == h.pos) || (decide (x.phase = .issued) && x.outstanding == 0 && (s.holReqs k x).isEmpty)
    if h.vcmd || decide (h.phase ≠ .ready) || d.op != op || !before.all (fun x => started x && sure x) || (d.fence && i != 0) ||
        e.syncWaits h.seq || e.feltWaits h.seq h.pos h.idx (d.feltSpans e.felt) then none
    else some (h, d)

/-- An entry has moved `m` elements more, and its writes and requests to be acknowledged are `n` more; with the last element all its writes have been issued. -/
def State.holMoved (s : State) (k : Nat) (h : HolEntry) (d : HolDesc) (m n : Nat) : State :=
  s.updEng k (fun e => e.updHol h (fun x =>
    let w := x.written + m * d.size
    let all := decide (w = d.total * d.size)
    { x with phase := if all then .issued else x.phase, outstanding := x.outstanding + n, written := w,
             stage := if all then none else x.stage.map (fun y => { y with data := y.data.drop m }) }))

/-- The remote reads and writes that other descriptors of the hollander have outstanding. -/
def State.farOthers (s : State) (k : Nat) (h : HolEntry) (write : Bool) : Nat :=
  (s.dln.reqs.filter (fun r => r.core == k && (s.eng k).holds r && r.write == write && decide (r.desc ≠ some (h.seq, h.pos, h.idx)))).length

/-- The next elements of a COPY, FILL or update move: from other dies at most 256 at a time, less the stage buffers that data read ahead occupies, and to other dies at most 128 unacknowledged lines of the hollander, of one descriptor one element (R12, R278, R280). -/
def State.moveOn (s : State) (k : Nat) (h : HolEntry) (d : HolDesc) (es : List HElem) (stage : List (List Byte)) : State :=
  let user := h.user || d.uperm
  let n := h.written / d.size
  let reads := (s.holReqs k h).filter (fun r => !r.write)
  let own := ((s.holReqs k h).filter RemReq.write).length
  let m := holFit (256 - (s.eng k).stageUse - s.farOthers k h false) (128 - s.farOthers k h true - own) es
  let m := if d.isUpd then updCut es m else if 0 < own then 0 else farCut es m
  let rem := remoteSrcs (es.take m)
  if reads.length < rem.length then
    (rem.drop reads.length).foldl (fun s (dev, a) => s.sendRemote k false dev a d.size [] (some (h.seq, h.pos, h.idx))) s
  else if m = 0 ∨ reads.any RemReq.open = true then s
  else
    let (t, es, _, _) := s.gather k d h.ix user m n stage (reads.map (fun r => (r.data.getD [], r.bad)))
    let t := (reads.take rem.length).foldl (fun t r => t.dropReq r.tag) t
    let (t, w) := if d.isUpd then (t.sendUpdates k h d n es, (updRuns es).length)
      else (t.scatter k h d s.free false 0 es, (es.filter HElem.farDst).length)
    { t with free := s.free + 2 * m }.holMoved k h d m w

/-- Run a COPY, FILL or update (R267, R270, R277, R278, R336). A source on a device is read first; the command goes on when its data is there. Elements that go to another device before one that faults are written and acknowledged first, so that a refusal among them is the fault. -/
def State.holMove (s : State) (k i op : Nat) : State :=
  match s.holReady k i op with
  | none => s
  | some (h, d) =>
    let n := h.written / d.size
    let reads := (s.holReqs k h).filter (fun r => !r.write)
    let stage := match h.stage with | some w => w.data | none => []
    match s.gather k d h.ix (h.user || d.uperm) (d.total - n) n stage (reads.map (fun r => (r.data.getD [], r.bad))) with
    | (_, _, _, true) => s
    | (t, es, some (c, a), false) =>
      if !d.isUpd && es.any HElem.farDst then s.moveOn k h d es stage
      else if (s.holReqs k h).any (fun r => r.open || r.write) then s
      else
        let es := if (remoteSrcs es).isEmpty then es else []
        let t := if d.isUpd then t.sendUpdates k h d n ((es.zip (List.range es.length)).filterMap (fun (e, j) => if Config.choose (s.free + 2 * j) then some e else none))
          else t.scatter k h d s.free true 0 es
        { t with free := s.free + 2 * d.total }.holFail k h.seq h.pos h.idx c a
    | (_, es, none, false) => s.moveOn k h d es stage

def execCopy (k i : Nat) (s : State) : Out := guardUnit (isSlot k) (s.holMove k i hopCopy)
def execFill (k i : Nat) (s : State) : Out := guardUnit (isSlot k) (s.holMove k i hopFill)
def execHolUadd (k i : Nat) (s : State) : Out := guardUnit (isSlot k) (s.holMove k i hopUadd)
def execHolUmax (k i : Nat) (s : State) : Out := guardUnit (isSlot k) (s.holMove k i hopUmax)
def execHolUmin (k i : Nat) (s : State) : Out := guardUnit (isSlot k) (s.holMove k i hopUmin)

/-- Bring the cacheable lines of a VFETCH into the vat, up to a fault (R267, R300); none while one must wait for a held window. `last`: the line before. -/
def State.fetchLines (s : State) (k : Nat) (d : HolDesc) (ix : Mem) (user : Bool) : Nat → Nat → Option Nat → Option (State × Option Found)
  | 0, _, _ => some (s, none)
  | m + 1, n, last =>
    match s.locate k d.src (d.srcAddr ix n) .load user .act with
    | (_, .later) => none
    | (s, .fault f) => some (s, some f)
    | (s, .at (.phys _ pa mt)) =>
      let line := pa / 64
      if last = some line ∨ mt ≠ 0 ∨ s.stackLineOk line = false then s.fetchLines k d ix user m (n + 1) last
      else ((if d.stream then s.streamMark k pa else s).fillLine (clusterOf k) line .vfetch .clean).fetchLines k d ix user m (n + 1) (some line)
    | (s, .at _) => s.fetchLines k d ix user m (n + 1) last

/-- VFETCH. -/
def State.holFetch (s : State) (k i : Nat) : State :=
  match s.holReady k i hopVfetch with
  | none => s
  | some (h, d) =>
    match s.fetchLines k d h.ix (h.user || d.uperm) d.total 0 none with
    | none => s
    | some (t, some (c, a)) => t.holFail k h.seq h.pos h.idx c a
    | some (t, none) => t.updEng k (fun e => e.updHol h (fun x => { x with phase := .issued, stage := none }))

def execVfetch (k i : Nat) (s : State) : Out := guardUnit (isSlot k) (s.holFetch k i)

/-- DESCRIPTOR_COMPLETE (R271, R281): every write of the descriptor has been accepted; its flag is written, its bytes counted, and it goes. -/
def State.holComplete (s : State) (k i : Nat) : State :=
  match (s.eng k).hol[i]? with
  | none => s
  | some h =>
    let d := holDescOf h.bytes
    if h.vcmd = true ∨ h.phase ≠ .issued ∨ h.outstanding ≠ 0 then s
    else
      let s := s.updEng k (fun e =>
        let e := if d.flag then e.writeFelt d.flagoff (flagBytes h.seq h.idx) else e
        { e with hol := e.hol.filter (fun x => !(x.seq == h.seq && x.pos == h.pos && x.idx == h.idx)) })
      s.bumpHol k 0 h.written

def execDescriptorComplete (k i : Nat) (s : State) : Out := guardUnit (isSlot k) (s.holComplete k i)

-- at the memory controllers

/-- One element of an update (R337): memory value, request value. -/
def updateElem (op utype : Nat) (ftz : Bool) (m v : Nat) : Nat :=
  if utype = 1 then
    let a := sext 32 m
    let b := sext 32 v
    wrapN 32 (if op = 0 then a + b else if op = 1 then Max.max a b else Min.min a b)
  else
    let f := if utype = 2 then Fmt.fp64 else .fp32
    if op = 0 then (roundTo f .nearest ftz (let r := addFV .nearest (readElem ftz f m).1 (readElem ftz f v).1; (r.1, {}))).1 |> bitsExact f
    else bitsExact f (minmaxFV (op == 1) (decodeF f.info m) (decodeF f.info v)).1
where
  /-- The encoding of a value that the format holds, a NaN with its payload. -/
  bitsExact (f : Fmt) (v : FV) : Nat := (convF f .nearest false v).bits

/-- The requests of one descriptor. -/
def UpdReq.same (u x : UpdReq) : Bool := x.core == u.core && x.seq == u.seq && x.pos == u.pos && x.idx == u.idx

/-- A request of the same descriptor that comes before stands at some port or in the mesh (R338). -/
def State.updBefore (s : State) (u : UpdReq) : Bool := s.ports.any (fun p => (p.2.upd ++ p.2.mesh).any (fun x => u.same x && decide (x.ord < u.ord)))

/-- The requests of a descriptor that has failed go. -/
def State.dropUpdates (s : State) (u : UpdReq) : State :=
  { s with ports := Tab.update {} s.ports (fun _ q => { q with upd := q.upd.filter (fun x => !u.same x), mesh := q.mesh.filter (fun x => !u.same x) }.fill) }

/-- A request is applied to its granule, unless the write fails its parity check (R326, R337). -/
def State.applyUpdate (s : State) (u : UpdReq) : State :=
  let n := if u.utype = 2 then 8 else 4
  let (s, ok) := s.stackWrite (u.granule / 64)
  if ok then { s with mem := u.elems.foldl (fun m (o, v) => m.writeLE (u.granule + o) n (updateElem u.op u.utype u.ftz (m.readLE (u.granule + o) n) v)) s.mem }
  else s

/-- UPDATE_REQUEST (R326, R332, R334, R337, R338): the controller applies its first request in one step; one to a poisoned granule is not applied and its descriptor raises HOL_POISON. The requests of one descriptor are applied in logical order. -/
def State.update (s : State) (p : Nat) (ecc : Ecc) : State :=
  match (s.port p).upd with
  | [] => s
  | u :: rest =>
    if s.updBefore u then s
    else
      let s := s.setPort p { s.port p with upd := rest }.fill
      let s := ((s.recall (u.granule / 64)).stackEcc u.granule ecc 0).strike (fun l => decide (l = .stack (u.granule / 64)))
      if s.physBad u.granule then (s.dropUpdates u).holFail u.core u.seq u.pos u.idx 0x68 u.va.toNat
      else ((s.applyUpdate u).updEng u.core (fun e => e.acked u.seq u.pos u.idx)).bumpPort p 2 1

def execUpdateRequest (p : Nat) (ecc : Ecc) (s : State) : Out := guardUnit (decide (p < 8)) (s.update p ecc)

end Sys2Proof.Machine
end

