-- ==== Sys2Proof/Machine/Mover.lean ====
section
/-! DEFINITION. The mill mover (R399 to R401), the mailbox commands (R403 to R412), and the completion timeout of host requests (R15). -/

namespace Sys2Proof.Machine

-- descriptors of the mover

/-- A mode that the mover accepts: LINEAR or STRIDED (R399). -/
def Side.mvOk (x : Side) : Bool := decide (x.mode ≤ 1) && decide (x.space ≤ 2) && (x.space != 2 || decide (x.base < 2 ^ 60))

/-- The address of element `n` of a side. -/
def Side.mvAddr (x : Side) (d : HolDesc) (n : Nat) : Nat := x.addr d (fun _ => 0) (n / d.count) (n % d.count)

/-- A physical side's element lies in stack memory or in reachable window bytes (R399). -/
def State.mvReach (s : State) (a n : Nat) : Bool :=
  match s.target a with
  | .stack => true
  | .vat c off => (s.vat c).reaches (off + n - 1)
  | _ => false

/-- An element of a side breaks R399: a physical one outside what the mover reaches, or a host one that crosses 4 KiB. -/
def State.mvElemBad (s : State) (x : Side) (d : HolDesc) (n : Nat) : Bool :=
  let a := x.mvAddr d n
  if x.space = 1 then !s.mvReach a d.size else if x.space = 0 then decide (a % 4096 + d.size > 4096) else false

/-- Some element of the first `m` has the property. -/
def anyElem (p : Nat → Bool) : Nat → Bool
  | 0 => false
  | m + 1 => p m || anyElem p m

/-- HOL_DESC of the mover (R399). -/
def State.mvBad (s : State) (d : HolDesc) : Bool :=
  d.resv || decide (1 < d.op) || decide (d.esz = 7) || d.count == 0 || decide (2 ^ 24 < d.count) || d.rows == 0 || decide (2 ^ 24 < d.rows) ||
  d.flag || d.fence || d.stream || d.uperm || d.utype != 0 || d.flagoff != 0 || (d.op == hopFill && decide (3 < d.esz)) ||
  (d.hasSrc && !d.src.mvOk) || !d.dst.mvOk ||
  (d.hasSrc && anyElem (s.mvElemBad d.src d) d.total) || anyElem (s.mvElemBad d.dst d) d.total

/-- HOL_ALIGN of the mover (R269, R401). -/
def mvMisaligned (d : HolDesc) : Bool :=
  anyElem (fun n => (d.hasSrc && decide (d.src.mvAddr d n % d.size ≠ 0)) || decide (d.dst.mvAddr d n % d.size ≠ 0)) d.total

/-- The descriptor has a host side. -/
def mvHost (d : HolDesc) : Bool := (d.hasSrc && d.src.space == 0) || d.dst.space == 0

/-- The bytes of descriptor `i` of the batch of queue `q`, none where the batch does not lie where R399 places it, and whether they carry poison. -/
def State.mvDesc (s : State) (q i : Nat) : Option (List Byte) × Bool :=
  let w := Tab.get 0 s.mill.batch q
  let a := wfld w 6 42 * 64 + 64 * i
  if w.getLsbD 5 then (if a + 64 ≤ 2 ^ 21 then some (s.mill.sram.readN a 64) else none, false)
  else if s.target a = .stack then (some (s.physRead a 64), s.anyBad a 64)
  else (none, false)

/-- The mover reads descriptor `i` of the batch of queue `q`: errors that its storage reports take effect first (R333). -/
def State.mvStrike (s : State) (q i : Nat) : State :=
  let w := Tab.get 0 s.mill.batch q
  if w.getLsbD 5 then s.strike (fun l => decide (l = .logic 40)) else s.strikeMem false (36 + q) (wfld w 6 42 * 64 + 64 * i) 64

-- the end of a batch

/-- The batch of queue `q` ends: BUSY clears, a fault is recorded, and source 0x12 is raised (R400, R401). -/
def State.mvEnd (s : State) (q : Nat) (fault : Option (Nat × Nat)) : State :=
  let off := MILL_MVS + q * 0x10
  let st := s.millReg off
  let s := s.setMillReg off (match fault with
    | some (code, i) => BitVec.ofNat 64 (2 ^ 30 + code % 256 * 2 ^ 14 + i % 64 * 2 ^ 8)
    | none => st &&& ~~~0xC0000000)
  let s := { s with mill := { s.mill with batch := Tab.set 0 s.mill.batch q 0, moved := Tab.set 0 s.mill.moved q 0, mvElem := Tab.set 0 s.mill.mvElem q 0 },
                    dln := { s.dln with reqs := s.dln.reqs.filter (fun r => r.core != 36 + q || r.desc.isNone) } }
  s.irq (36 + q) 0x12

/-- The host port may send requests (R401): Bus Master Enable is set, and the function is not in D3hot (log 17). -/
def State.hostMaster (s : State) : Bool := s.host.bme && !s.host.d3

/-- An uncorrectable error of the PCIe function shows in its AER status (R414, log 17). -/
def State.aer (s : State) (b : Nat) : State := { s with host := { s.host with aerU := s.host.aerU ||| 2 ^ b } }

/-- Log a host request that ends in error (R401, R472): 1 completion timeout, 2 Unsupported Request, 3 Completer Abort, 4 Bus Master Enable clear. -/
def State.hostReqErr (s : State) (ag addr why : Nat) : State :=
  let s := if why = 1 then s.aer 14 else s
  s.log logHostReqErr ag (freeUnit logHostReqErr) addr why

def hostErrCode : HostEnd → Nat
  | .ok => 0
  | .timeout => 1
  | .unsupported => 2
  | .aborted => 3

-- running a descriptor

/-- What a run of a descriptor comes to. -/
inductive MvRes where
  | done (s : State) (data : List Byte)
  | fault (s : State) (code : Nat)
  | wait (s : State)
deriving DecidableEq, Repr

/-- The remote requests of the descriptor that queue `q` runs. -/
def State.mvReqs (s : State) (q i : Nat) (write : Bool) : List RemReq :=
  s.dln.reqs.filter (fun r => r.core == 36 + q && decide (r.desc = some (0, 0, i)) && r.write == write)

/-- Read source elements from `n` on, `m` of them: their data up to a fault, with its code, and what is left of the host's data. `rem`: what the remote reads brought. `hend`: how a host read beyond the host's data ends. -/
def State.mvRead (s : State) (q : Nat) (d : HolDesc) (hend : HostEnd) :
    Nat → Nat → List Byte → List RemReq → State × List (List Byte) × Option Nat × List Byte
  | 0, _, data, _ => (s, [], none, data)
  | m + 1, n, data, rem =>
    let a := d.src.mvAddr d n
    if d.op = hopFill then
      let (s, l, f, data) := s.mvRead q d hend m (n + 1) data rem
      (s, leBytes d.size d.src.base :: l, f, data)
    else if d.src.space = 0 then
      if data.length < d.size ∧ hend ≠ .ok then (s.hostReqErr (36 + q) a (hostErrCode hend), [], some 0x67, data)
      else
        let bs := (data.take d.size) ++ List.replicate (d.size - data.length) 0
        let (s, l, f, data) := s.mvRead q d hend m (n + 1) (data.drop d.size) rem
        (s, bs :: l, f, data)
    else if d.src.space = 1 then
      let s := s.strikeMem false (36 + q) a d.size
      if s.anyBad a d.size then (s, [], some 0x68, data)
      else
        let bs := s.physRead a d.size
        let (s, l, f, data) := s.mvRead q d hend m (n + 1) data rem
        (s, bs :: l, f, data)
    else if rem.head?.any RemReq.bad then (s, [], some 0x68, data)
    else
      let (s, l, f, data) := s.mvRead q d hend m (n + 1) data (rem.drop 1)
      (s, ((rem.head?.bind RemReq.data).getD []) :: l, f, data)

/-- The source element's bytes as they stand now, where an earlier element may have overwritten them (R270). -/
def State.mvFresh (s : State) (d : HolDesc) (n : Nat) : Option (List Byte) :=
  if d.op = hopFill ∨ d.src.space ≠ 1 then none else some (s.physRead (d.src.mvAddr d n) d.size)

/-- Write an element. -/
def State.mvPut (s : State) (q i a : Nat) (d : HolDesc) (bs : List Byte) : State :=
  if d.dst.space = 0 then s.out (.hostWrite a bs)
  else if d.dst.space = 1 then s.physWriteLine (36 + q) a bs
  else s.sendRemote (36 + q) true (fld a 48 12) (a % 2 ^ 48) d.size bs (some (0, 0, i))

/-- Write the elements from `n` on (R270); with a fault behind them, each is written or not (R278). -/
def State.mvWrite (s : State) (q i : Nat) (d : HolDesc) (free : Nat) (faulted : Bool) : Nat → List (List Byte) → State
  | _, [] => s
  | n, e :: es =>
    let bs := match s.mvFresh d n with | some b => if b ≠ e ∧ Config.choose (free + 2 * n + 1) = true then b else e | none => e
    let s := if faulted && !Config.choose (free + 2 * n) then s else s.mvPut q i (d.dst.mvAddr d n) d bs
    s.mvWrite q i d free faulted (n + 1) es

/-- Send the remote reads of a descriptor's elements from `n` on. -/
def State.mvAsk (s : State) (q i : Nat) (d : HolDesc) : Nat → Nat → State
  | 0, _ => s
  | m + 1, n =>
    let a := d.src.mvAddr d n
    (s.sendRemote (36 + q) false (fld a 48 12) (a % 2 ^ 48) d.size [] (some (0, 0, i))).mvAsk q i d m (n + 1)

/-- Some element lies in a window that a live change holds (R440, R442). -/
def State.mvHeld (s : State) (q : Nat) (d : HolDesc) : Bool :=
  anyElem (fun n => (d.hasSrc && d.src.space == 1 && s.waitsFor (36 + q) (s.target (d.src.mvAddr d n))) ||
    (d.dst.space == 1 && s.waitsFor (36 + q) (s.target (d.dst.mvAddr d n)))) d.total

/-- Run descriptor `i` of queue `q` from element `n` on (R399 to R401). One with a remote destination moves one element at a time, and the next one once that has been acknowledged, so that the elements behind a write that fails keep their old value (R278, R376; log 87). -/
def State.mvRun (s : State) (q i n : Nat) (d : HolDesc) (data : List Byte) (hend : HostEnd) : MvRes :=
  let w := s.mvReqs q i true
  let far := d.hasSrc && d.src.space == 2
  let toDev := d.dst.space == 2
  let want := if toDev then 1 else d.total
  if w.any RemReq.failed then .fault s 0x67
  else if w.any RemReq.open then .wait s
  else if 0 < n ∧ n = d.total then .done s data
  else if n = 0 ∧ s.mvBad d = true then .fault s 0x60
  else if n = 0 ∧ mvMisaligned d = true then .fault s 0x61
  else if mvHost d && !s.hostMaster then
    .fault (s.hostReqErr (36 + q) (if d.hasSrc && d.src.space == 0 then d.src.mvAddr d n else d.dst.mvAddr d n) 4) 0x67
  else if s.mvHeld q d ∨ (d.hasSrc = true ∧ d.src.space = 0 ∧ hend = .ok ∧ data.length < want * d.size) then .wait s
  else
    let asked := s.mvReqs q i false
    if far && asked.isEmpty then .wait (s.mvAsk q i d (d.total - n) n)
    else if far && asked.any RemReq.open then .wait s
    else
      let good := asked.takeWhile (fun r => !r.failed)
      let m := if far then Nat.min want good.length else want
      let (s, els, f, data) := s.mvRead q d hend m n data good
      let f := if decide (m < want) && f.isNone then some 0x67 else f
      let s := { s with dln := { s.dln with reqs := s.dln.reqs.filter (fun r => !(asked.take want).any (fun a => a.tag == r.tag)) } }
      let s := (s.mvWrite q i d s.free f.isSome n els)
      let s := { s with free := s.free + 2 * d.total }
      match f with
      | some c => .fault s c
      | none =>
        if d.dst.space = 0 ∧ data.isEmpty = true ∧ hend ≠ .ok then .fault (s.hostReqErr (36 + q) (d.dst.mvAddr d 0) (hostErrCode hend)) 0x67
        else if toDev then .wait { s with mill := { s.mill with mvElem := Tab.set 0 s.mill.mvElem q (n + 1) } }
        else .done s data

/-- MILL_MVSn.BUSY. -/
def State.mvBusy (s : State) (q : Nat) : Bool := (s.millReg (MILL_MVS + q * 0x10)).getLsbD 31

/-- Descriptors of the running batch. -/
def State.mvCount (s : State) (q : Nat) : Nat := wfld (Tab.get 0 s.mill.batch q) 58 6 + 1

/-- How far queue `q` has got with its batch. -/
def State.setMoved (s : State) (q n : Nat) : State := { s with mill := { s.mill with moved := Tab.set 0 s.mill.moved q n, mvElem := Tab.set 0 s.mill.mvElem q 0 } }

/-- Queue `q` runs its next descriptor: the state, what is left of the host's data, and whether the queue must wait. With its last descriptor its batch ends. -/
def State.mvOne (s : State) (q : Nat) (data : List Byte) (hend : HostEnd) : State × List Byte × Bool :=
  let i := Tab.get 0 s.mill.moved q
  let s := s.mvStrike q i
  match s.mvDesc q i with
  | (none, _) => (s.mvEnd q (some (0x60, i)), data, false)
  | (some _, true) => (s.mvEnd q (some (0x68, i)), data, false)
  | (some bs, false) =>
    match s.mvRun q i (Tab.get 0 s.mill.mvElem q) (holDescOf bs) data hend with
    | .fault s c => (s.mvEnd q (some (c, i)), data, false)
    | .wait s => (s, data, true)
    | .done s data => (if s.mvCount q ≤ i + 1 then s.mvEnd q none else s.setMoved q (i + 1), data, false)

/-- The queue whose descriptor the mover takes next: in round robin among those that hold work and do not wait (R400). -/
def State.mvPick (s : State) (waiting : List Nat) : Option Nat :=
  ((List.range 4).map (fun i => (s.mill.mvNext + i) % 4)).find? (fun j => s.mvBusy j && !waiting.contains j)

/-- The mover takes descriptor after descriptor until the batch of queue `q` has ended or waits. The host's completions are those of queue `q`: another queue's descriptor with a host source waits. `fuel` descriptors at most; `waiting`: the queues that wait. -/
def State.mvBatch (s : State) (q : Nat) (hend : HostEnd) : Nat → List Nat → List Byte → State
  | 0, _, _ => s
  | fuel + 1, waiting, data =>
    if !s.mvBusy q || waiting.contains q then s
    else
      match s.mvPick waiting with
      | none => s
      | some j =>
        let (s, left, w) := if j = q then s.mvOne j data hend else s.mvOne j [] .ok
        State.mvBatch { s with mill := { s.mill with mvNext := (j + 1) % 4 } } q hend fuel (if w then j :: waiting else waiting) (if j = q then left else data)

/-- The mover goes on until the batch of queue `q` ends or waits: at most the descriptors of four batches and a wait of each. -/
def State.mvGo (s : State) (q : Nat) (data : List Byte) (hend : HostEnd) : State := s.mvBatch q hend 260 [] data

/-- The mill controller has a batch in its SRAM, which GO names with SRAM = 1 (R399). -/
def State.placeBatch (s : State) (v : Word) (batch : List Byte) : State :=
  if v.getLsbD 5 then { s with mill := { s.mill with sram := s.mill.sram.writeN (wfld v 6 42 * 64 % 2 ^ 21) batch } } else s

/-- MOVER_GO (R399): a write to MILL_MVQn with GO at 1, of the mill controller with the batch that it has placed in its SRAM. -/
def execMoverGo (ag q : Nat) (v : MoverStart) (s : State) : Out :=
  guardUnit (decide (ag < 42) && decide (q < 4)) ((if ag = 40 then s.placeBatch v.value v.batch else s).writeMvq ag q (v.value ||| 1) 0xFFFFFFFFFFFFFFFF)

/-- MOVER_BATCH_DONE (R400, R401): the batch runs to its end, its fault, or its first wait, and the other queues take their turns. `hostData`: the bytes that the host's completions bring; `hostEnd`: how the first request beyond them ends. -/
def execMoverBatchDone (q : Nat) (hostData : List Byte) (hostEnd : HostEnd) (s : State) : Out :=
  guardUnit (decide (q < 4)) (s.mvGo q hostData hostEnd)

/-- The descriptor that queue `q` runs has a host side. -/
def State.mvHostNow (s : State) (q : Nat) : Bool :=
  s.mvBusy q && (match s.mvDesc q (Tab.get 0 s.mill.moved q) with | (some bs, false) => mvHost (holDescOf bs) | _ => false)

/-- COMPLETION_TIMEOUT (R15, R401): a host request of the running descriptor gets no completion, and the host has not disabled the timeout (R414). -/
def execCompletionTimeout (q : Nat) (s : State) : Out := guardUnit (decide (q < 4)) (if s.mvHostNow q && !s.host.ctoOff then s.mvGo q [] .timeout else s)

-- mailboxes

/-- TAKE_POST (R408): a write of 1 to GO. -/
def execTakePost (ag ch : Nat) (s : State) : Out :=
  guardUnit (decide (ag < 42) && chanExists ch) (s.writeChan ag ch MBX_CTL 0x80000000 0xFFFFFFFF)

/-- MBX_DBSET (R410). -/
def execMbxDbset (ag ch : Nat) (v : Half) (s : State) : Out :=
  guardUnit (decide (ag < 42) && chanExists ch) (s.writeChan ag ch MBX_DBSET (v.setWidth 64) 0xFFFFFFFF)

/-- MBX_DB_CLEAR (R410). -/
def execMbxDbClear (ag ch : Nat) (v : Half) (s : State) : Out :=
  guardUnit (decide (ag < 42) && chanExists ch) (s.writeChan ag ch MBX_DB (v.setWidth 64) 0xFFFFFFFF)

/-- MBX_CRST (R411): the mill controller's; any other agent's write is ignored and logged (R396). -/
def execMbxCrst (ag : Nat) (ch : BitVec 6) (s : State) : Out :=
  guardUnit (decide (ag < 42)) (if ag = 40 then s.chanReset ch.toNat else s.refused ag 0x10F000 ch.toNat)

/-- MBX_HPOST (R412): a write with GO at 1. -/
def execMbxHpost (ag area : Nat) (v : Half) (s : State) : Out :=
  guardUnit (decide (ag < 42) && decide (area < 3)) (s.writeStage ag area MBX_HPOST (v.setWidth 64 ||| 0x80000000) 0xFFFFFFFF)

end Sys2Proof.Machine
end

