-- ==== Sys2Proof/Machine/HostIf.lean ====
section
/-! DEFINITION. The die's outside: the PCIe host port (R414 to R418), the SMBus target (R419, R420, R470), and the test port (R475, R476). -/

namespace Sys2Proof.Machine

def agHost : Nat := 41

/-- Where a BAR access goes (R415): die control space, or physical addresses of the felt windows. -/
inductive BarTo where
  | ctl (off : Nat)
  | felt (pa : Nat)
  | nowhere
deriving DecidableEq, Repr

def barTo (bar off n : Nat) : BarTo :=
  if bar = 0 ∧ off + n ≤ 2 ^ 26 then .ctl off
  else if bar = 2 ∧ off + n ≤ 2 ^ 16 then .ctl (0x100000 + off)
  else if bar = 4 ∧ off + n ≤ 2 ^ 29 then .felt (0x00F000000000 + off)
  else .nowhere

/-- BAR0 and BAR2 accept aligned 4- and 8-byte accesses (R416). -/
def ctlSized (off n : Nat) : Bool := (n == 4 || n == 8) && off % n == 0

/-- A host access names a window that a live change holds: a slice command window or a felt window of the cluster (R416, R440). -/
def State.hostHeld (s : State) (n : Nat) : BarTo → Bool
  | .ctl off => s.heldTarget (.ctl off)
  | .felt pa => (List.range n).any (fun i => s.heldTarget (s.target (pa + i)))
  | .nowhere => false

/-- The physical address of a host access. -/
def BarTo.addr : BarTo → Nat
  | .ctl off => ctlPa off
  | .felt pa => pa
  | .nowhere => 0

/-- Log a host access that is refused, dropped or aborted (R416, R472). -/
def State.hostAccess (s : State) (x : BarTo) (n : Nat) (held : Bool) : State :=
  s.log logHostAccess agHost (freeUnit logHostAccess) x.addr (n % 256 + 256 * b2n held)

/-- A read that the function does not support (R416), with its AER status. -/
def State.hostUnsupported (s : State) : State := (s.aer 20).out .hostUnsupported

/-- HOST_READ (R416). In D3hot the function serves no BAR (R414, log 17). -/
def State.hostRead (s : State) (bar off size : Nat) : State :=
  let x := barTo bar off size
  if s.host.d3 then s.hostUnsupported
  else if s.hostHeld size x then ((s.hostAccess x size true).aer 15).out .hostAbort
  else
    match x with
    | .ctl o =>
      if ctlSized o size then
        let (s, v) := s.ctlRead agHost o size
        s.out (.hostData (leBytes size v))
      else s.hostUnsupported
    | .felt pa => let (s, bs) := (s.logHole agHost 0 pa size).readMem agHost pa size; s.out (.hostData bs)
    | .nowhere => s.hostUnsupported

def execHostRead (bar off size : Nat) (s : State) : Out := .next (if s.powered then s.hostRead bar off size else s)

/-- HOST_WRITE (R416). -/
def State.hostWrite (s : State) (bar off : Nat) (data : List Byte) : State :=
  let n := data.length
  let x := barTo bar off n
  if s.host.d3 then s.aer 20
  else if s.hostHeld n x then s.hostAccess x n true
  else
    match x with
    | .ctl o => if ctlSized o n then s.ctlWrite agHost o n (leNat data) else s.hostAccess x n false
    | .felt pa => (s.logHole agHost 1 pa n).physWrite agHost pa data
    | .nowhere => s.hostAccess x n false

def execHostWrite (bar off : Nat) (data : List Byte) (s : State) : Out := .next (if s.powered then s.hostWrite bar off data else s)

/-- The host's posts after a port reset: those that wait are withdrawn, the taking of one in a slot signals nothing (R418). -/
def State.forgetHostPosts (s : State) : State := s.forgetPosts agHost

/-- Mover descriptors with a host side that run at a port reset raise HOL_REMOTE (R418). -/
def State.mvHostReset (s : State) : State :=
  (List.range 4).foldl (fun s q => if s.mvHostNow q then s.mvEnd q (some (0x67, Tab.get 0 s.mill.moved q)) else s) s

/-- HOST_PORT_RESET (R418): configuration space, link state and both staging areas. -/
def State.hostPortReset (s : State) : State :=
  let s := s.mvHostReset.forgetHostPosts
  { s with host := {}, stage := Tab.set [] (Tab.set [] s.stage 0 []) 1 [] }

def execHostPortReset (s : State) : Out := .next s.hostPortReset

/-- A rate and width that the port trains at (R414). -/
def linkOk (rate width : Nat) (flit : Bool) : Bool :=
  decide (1 ≤ rate) && decide (rate ≤ 6) && (width == 1 || width == 2 || width == 4 || width == 8 || width == 16) && (flit || decide (rate ≤ 5))

/-- HOST_PORT_LINK_UP (R414, R435): MILL_HPSTAT, and the vector of a boot failure. -/
def State.hostLinkUp (s : State) (rate width : Nat) (flit : Bool) : State :=
  let h := s.host
  let s := { s with host := { h with regs := Tab.set 0 h.regs 0 (BitVec.ofNat 64 (b2n flit * 256 + rate * 32 + width)) } }
  if s.bootState = bsFailed then s.msixHold 6 else s.msixFlush

def execHostPortLinkUp (rate : BitVec 3) (width : BitVec 5) (flit : Bool) (s : State) : Out :=
  .next (if s.powered && linkOk rate.toNat width.toNat flit then s.hostLinkUp rate.toNat width.toNat flit else s)

/-- CONFIGURATION_WRITE (R414): what the host sets in the function's configuration space. Vectors that wait for it leave. -/
def State.cfgWrite (s : State) : CfgWrite → State
  | .busMaster b => State.msixFlush { s with host := { s.host with bme := b } }
  | .timeoutRange r => { s with host := { s.host with cto := r.toNat } }
  | .timeoutDisable b => { s with host := { s.host with ctoOff := b } }
  | .maxPayload c => if c.toNat ≤ 2 then { s with host := { s.host with mps := c.toNat } } else s
  | .maxReadRequest c => if c.toNat ≤ 5 then { s with host := { s.host with mrrs := c.toNat } } else s
  | .ecrc g c => { s with host := { s.host with ecrcGen := g, ecrcCheck := c } }
  | .aerClear u c => { s with host := { s.host with aerU := s.host.aerU - (s.host.aerU &&& u.toNat), aerC := s.host.aerC - (s.host.aerC &&& c.toNat) } }
  | .msixEnable b => State.msixFlush { s with host := { s.host with msixEn := b } }
  | .msixMaskAll b => State.msixFlush { s with host := { s.host with msixMask := b } }
  | .dState b => State.msixFlush { s with host := { s.host with d3 := b } }

def execConfigurationWrite (w : CfgWrite) (s : State) : Out := .next (if s.powered then s.cfgWrite w else s)

-- SMBus

/-- The target's address, as its strap balls give it (R419). -/
def State.smbAddr (s : State) : Nat := 0x58 + s.board.smba.toNat

/-- The target answers a read of command `cmd`: a Block Read sends its byte count first; the packet error code covers the whole transaction (R419, R420). It is silent while RESET_N is low. -/
def State.smb (s : State) (cmd : Nat) (block : Bool) (bs : List Byte) : State :=
  let a := s.smbAddr
  let wire := (if block then [BitVec.ofNat 8 bs.length] else []) ++ bs
  if s.powered then s.out (.smbus a wire (smbPec ([BitVec.ofNat 8 (2 * a), BitVec.ofNat 8 cmd, BitVec.ofNat 8 (2 * a + 1)] ++ wire))) else s

/-- A write of command `cmd` comes without a packet error code, or with the right one (R419, log 84). -/
def State.smbGood (s : State) (cmd : Nat) (bs : List Byte) (pec : Option Byte) : Bool :=
  pec.all (fun p => p == smbPec ([BitVec.ofNat 8 (2 * s.smbAddr), BitVec.ofNat 8 cmd] ++ bs))

/-- ID (R420). -/
def execId (s : State) : Out := .next (s.smb 0x00 true (leBytes 4 (s.millReg MILL_ID).toNat))

/-- STATE (R420, R459). -/
def execState (s : State) : Out := .next (s.smb 0x01 false (leBytes 1 s.stateCode))

/-- TEMP (R420). -/
def execTemp (s : State) : Out := .next (s.smb 0x02 false (leBytes 2 (wfld (s.clkReg THM_TEMP) 0 16)))

/-- POWER (R420). -/
def execPower (s : State) : Out := .next (s.smb 0x03 false (leBytes 2 (wfld (s.clkReg PWR_EST) 0 16)))

/-- WATERMARK (R420, R437). -/
def execWatermark (s : State) : Out := .next (s.smb 0x04 true (leBytes 8 (s.millReg MILL_WATERMARK).toNat))

/-- ERRCNT (R420, R470). -/
def execErrcnt (s : State) : Out := .next (s.smb 0x05 false (leBytes 2 (Nat.min (s.err.wptr - s.err.rptr) 256)))

/-- ERRPOP (R420, R470): the oldest unread entry, and ERR_RPTR + 1; or 32 zero bytes. -/
def State.errPop (s : State) : State :=
  if s.powered then
    if s.err.unread then
      (s.smb 0x06 true (Tab.get {} s.err.ring (s.err.rptr % 256)).bytes).setErr { s.err with rptr := s.err.rptr + 1 }
    else s.smb 0x06 true (List.replicate 32 0)
  else s

def execErrpop (s : State) : Out := .next s.errPop

/-- PCAP (R420, R455): a write sets CAP, a read returns it. -/
def State.smbPcap (s : State) (v : Option (SmbWrite 16)) : State :=
  match v with
  | some w =>
    if !s.powered then s
    else if s.smbGood 0x10 (leBytes 2 w.value.toNat) w.pec then s.setCap w.value.toNat
    else s.out .smbusNak
  | none => s.smb 0x10 false (leBytes 2 (wfld (s.clkReg PWR_CAP) 0 16))

def execPcap (v : Option (SmbWrite 16)) (s : State) : Out := .next (s.smbPcap v)

-- the test port

/-- The TAP takes an instruction (R475). -/
def State.tap (s : State) (i : TapInstr) : State := { s with jtag := { s.jtag with ir := i } }

/-- Bits least significant first, as they leave TDO. -/
def tdoBits : Nat → Nat → List Bool
  | 0, _ => []
  | n + 1, v => decide (v % 2 = 1) :: tdoBits n (v / 2)

/-- The value that IDCODE reads (R475). -/
def idcodeValue : Nat := 0xB1D08A4B

/-- BYPASS (R475): the bypass register, one bit that captures 0. -/
def execBypass (s : State) : Out := .next ((s.tap .bypass).out (.tdo [false]))

/-- IDCODE (R475). -/
def execIdcode (s : State) : Out := .next ((s.tap .idcode).out (.tdo (tdoBits 32 idcodeValue)))

/-- SAMPLE/PRELOAD (R475): the boundary cells capture the balls, the captured bits leave, and the update latches take the preload. -/
def execSamplePreload (pins preload : List Bool) (s : State) : Out :=
  .next ((State.tap { s with jtag := { s.jtag with captured := pins, update := preload } } .samplePreload).out (.tdo pins))

/-- EXTEST (R475): the update latches drive the balls. -/
def execExtest (s : State) : Out := .next (s.tap .extest)

/-- CLAMP (R475): the update latches drive the balls, with the bypass register selected. -/
def execClamp (s : State) : Out := .next ((s.tap .clamp).out (.tdo [false]))

/-- HIGHZ (R475): the balls are released, with the bypass register selected. -/
def execHighz (s : State) : Out := .next ((s.tap .highz).out (.tdo [false]))

/-- EXTEST_PULSE (R475). -/
def execExtestPulse (s : State) : Out := .next (s.tap .extestPulse)

/-- EXTEST_TRAIN (R475). -/
def execExtestTrain (s : State) : Out := .next (s.tap .extestTrain)

/-- MILL_DBG.UNLOCK (R476). -/
def State.unlocked (s : State) : Bool := (s.millReg MILL_DBG).getLsbD 0

/-- What DEBUG asks for (R476): die control space as the mill controller has it; halting, single-stepping and resuming a core. -/
def State.debug (s : State) : DebugOp → State
  | .read off size =>
    if ctlSized off size && decide (off < 2 ^ 32) then
      let (s, v) := s.ctlRead 40 off size
      s.out (.debugData (BitVec.ofNat 64 v))
    else s
  | .write off size v => if ctlSized off size && decide (off < 2 ^ 32) then s.ctlWrite 40 off size (v % 2 ^ (8 * size)) else s
  | .halt k => if k < 40 then s.updCore k (fun c => { c with dbgHalt := true, dbgStep := false }) else s
  | .singleStep k => if k < 40 then s.updCore k (fun c => { c with dbgStep := c.dbgHalt }) else s
  | .resume k => if k < 40 then s.updCore k (fun c => { c with dbgHalt := false, dbgStep := false }) else s

/-- DEBUG (R476): it acts only while UNLOCK is 1, and otherwise selects the bypass register. -/
def execDebug (op : DebugOp) (s : State) : Out :=
  .next (if s.unlocked then (s.tap .debug).debug op else (s.tap .bypass).out (.tdo [false]))

end Sys2Proof.Machine
end

