-- ==== Sys2Proof/Machine/Image.lean ====
section
/-! DEFINITION. The structure image (R424 to R430): its header, directory, records and trailer, and the checks that refuse it. -/

namespace Sys2Proof.Machine

-- MILL_BSTAT.CAUSE (R430)
def causeFlashNone : Nat := 1
def causeTimeout : Nat := 2
def causeFormat : Nat := 3
def causeKey : Nat := 4
def causeSignature : Nat := 5
def causeSection : Nat := 6
def causeMemmap : Nat := 7
def causeChanged : Nat := 8

-- section types (R426)
def secMcfw : Nat := 1
def secSvcfw : Nat := 2
def secDie : Nat := 3
def secCluster : Nat := 4
def secPorts : Nat := 5
def secRoute : Nat := 6
def secChain : Nat := 7
def secLoad : Nat := 8

/-- A directory entry (R425). -/
structure Sect where
  typ : Nat
  index : Nat
  resv : Nat
  off : Nat
  size : Nat
  dest : Nat
deriving DecidableEq, Repr

/-- Header fields (R424). -/
def imgSects (b : List Byte) : Nat := leAt b 6 2
def imgLength (b : List Byte) : Nat := leAt b 8 8
def imgParent (b : List Byte) : Nat := leAt b 0x10 8
def imgKeyslot (b : List Byte) : Nat := leAt b 0x18 1

/-- Directory entry `j` (R425). -/
def imgSect (b : List Byte) (j : Nat) : Sect :=
  let e := 0x20 + 32 * j
  ⟨leAt b e 2, leAt b (e + 2) 2, leAt b (e + 4) 4, leAt b (e + 8) 8, leAt b (e + 16) 8, leAt b (e + 24) 8⟩

def imgDir (b : List Byte) : List Sect := (List.range (imgSects b)).map (imgSect b)

/-- The bytes of a section. -/
def Sect.bytes (x : Sect) (b : List Byte) : List Byte := (b.drop x.off).take x.size

/-- Types that copy to DEST (R425, R426). -/
def Sect.copied (x : Sect) : Bool := x.typ == secSvcfw || x.typ == secChain || x.typ == secLoad

/-- The header is as R424 lays it out. -/
def headerOk (b : List Byte) : Bool :=
  leAt b 0 4 == 0x1D085E01 && leAt b 4 2 == 1 && decide (1 ≤ imgSects b) && decide (imgSects b ≤ 64) &&
  imgLength b % 256 == 0 && decide (imgLength b ≤ 2 ^ 28) && decide (imgKeyslot b ≤ 1) && leAt b 0x19 7 == 0 &&
  decide (0x20 + 32 * imgSects b + 256 ≤ imgLength b)

/-- INDEX values of a section type, none for LOAD; no other type exists (R426). -/
def sectIndexOk (x : Sect) : Bool :=
  if x.typ = secMcfw ∨ x.typ = secDie ∨ x.typ = secPorts ∨ x.typ = secRoute ∨ x.typ = secChain then x.index == 0
  else if x.typ = secSvcfw ∨ x.typ = secCluster then decide (x.index < 4)
  else x.typ == secLoad

/-- A directory entry is as R425 and R426 lay it out. -/
def sectOk (len hend : Nat) (x : Sect) : Bool :=
  x.resv == 0 && x.off % 256 == 0 && decide (hend ≤ x.off) && decide (x.off + x.size + 256 ≤ len) && (x.copied || x.dest == 0) && sectIndexOk x &&
  (x.typ != secMcfw || decide (x.size ≤ 3 * 2 ^ 19)) && (x.typ != secPorts || x.size == 196) && (x.typ != secRoute || x.size == 16384) &&
  (x.typ != secChain || x.dest % 2 ^ 21 == 0)

/-- Two sections share a byte. -/
def Sect.meets (x y : Sect) : Bool := decide (0 < x.size) && decide (0 < y.size) && decide (x.off < y.off + y.size) && decide (y.off < x.off + x.size)

/-- No section shares a byte with a later one. -/
def apart : List Sect → Bool
  | [] => true
  | x :: xs => xs.all (fun y => !x.meets y) && apart xs

/-- The sections of a type and index. -/
def sectsOf (d : List Sect) (typ index : Nat) : List Sect := d.filter (fun x => x.typ == typ && x.index == index)

/-- The counts of R426. -/
def countsOk (parent : Nat) (d : List Sect) : Bool :=
  let n := fun (t i : Nat) => (sectsOf d t i).length
  if parent = 0 then
    n secMcfw 0 == 1 && n secDie 0 == 1 && (List.range 4).all (fun i => n secSvcfw i == 1 && n secCluster i == 1) &&
    decide (n secPorts 0 ≤ 1) && decide (n secRoute 0 ≤ 1) && decide (n secChain 0 ≤ 1)
  else d.all (fun x => x.typ == secCluster || x.typ == secLoad) && (List.range 4).all (fun i => decide (n secCluster i ≤ 1))

/-- The image breaks none of R424 to R426. -/
def formatOk (b : List Byte) : Bool :=
  headerOk b &&
  (let d := imgDir b
   d.all (sectOk (imgLength b) (0x20 + 32 * imgSects b)) && apart d && countsOk (imgParent b) d)

/-- The bytes that the signature covers (R429). -/
def signedBytes (b : List Byte) : List Byte := b.take (imgLength b - 256)

/-- The trailer (R429). -/
def trailer (b : List Byte) : List Byte := (b.drop (imgLength b - 256)).take 256

/-- The key is accepted (R429): its digest is fused in slot KEYSLOT, and the slot is not revoked. -/
def keyOk (f : Board) (b : List Byte) : Bool :=
  let d := sha384 ((trailer b).take 97)
  if imgKeyslot b = 0 then !f.revoked0 && d == f.digest0 else (match f.digest1 with | some x => d == x | none => false)

/-- The signature verifies (R429), over the digest of the signed bytes. -/
def signatureOk (b digest : List Byte) : Bool :=
  let t := trailer b
  leAt t 0 1 == 4 &&
  ecdsaOk (beNat ((t.drop 1).take 48)) (beNat ((t.drop 49).take 48)) (beNat ((t.drop 128).take 48)) (beNat ((t.drop 176).take 48)) (beNat digest)

/-- The DIE record is in range (R427). -/
def dieRecOk (r : List Byte) : Bool :=
  let svc := (List.range 4).map (fun i => fld (leAt r 3 1) (2 * i) 2)
  decide (r.length = 64) && decide (leAt r 0 2 ≤ 4095) && decide (leAt r 2 1 / 64 = 0) &&
  (List.range 3).all (fun i => decide (fld (leAt r 2 1) (2 * i) 2 ≤ 1)) && (List.range 4).all (fun i => decide ((svc.filter (fun x => x == i)).length = 1)) &&
  decide (leAt r 0xC 1 < 32) && decide (leAt r 0xD 1 < 32) && leAt r 0xE 2 == 0 && leAt r 0x1C 4 == 0 && leAt r 0x20 8 % 2 ^ 24 == 0 &&
  leAt r 0x28 24 == 0

/-- A slot's role in a CLUSTER record (R428). -/
def recRole (r : List Byte) (i : Nat) : Nat := fld (leAt r 0 4) (2 * i) 2

def roleDisabled : Nat := 0
def roleEnabled : Nat := 1
def roleSpare : Nat := 2

def recAddrw (r : List Byte) : Nat := leAt r 4 1
def recNmode (r : List Byte) : Nat := leAt r 8 4
def recDtvalid (r : List Byte) : Nat := leAt r 0xC 4
def recStart (r : List Byte) (i : Nat) : Nat := leAt r (0x10 + 8 * i) 8
def recEvec (r : List Byte) (i : Nat) : Nat := leAt r (0x58 + 8 * i) 8
def recSeed (r : List Byte) (i : Nat) : Nat := leAt r (0xA0 + 8 * i) 8

/-- Entry `i` = 32 × opcode + micro-op of the decode table. -/
def recDtab (r : List Byte) (i : Nat) : Nat := leAt r (0x100 + 8 * i) 8

/-- The CLUSTER record is in range (R428). -/
def clusRecOk (r : List Byte) : Bool :=
  decide (r.length = 4352) && decide (leAt r 0 4 < 2 ^ 18) && (List.range 9).all (fun i => decide (recRole r i ≤ 2)) &&
  decide (((List.range 9).filter (fun i => recRole r i == roleEnabled)).length ≤ 8) && decide (recAddrw r ≤ 16) && leAt r 5 3 == 0 &&
  decide (recDtvalid r < 2 ^ 16) && leAt r 0xE8 24 == 0 &&
  (List.range 512).all (fun i => decide (recDtab r i < 2 ^ 38) && !bit (recDtab r i) 32)

/-- The records of the image are in range (R430). -/
def recordsOk (b : List Byte) : Bool :=
  (imgDir b).all (fun x => if x.typ = secDie then dieRecOk (x.bytes b) else if x.typ = secCluster then clusRecOk (x.bytes b) else true)

/-- The watermark of an image with this digest (R430). -/
def watermarkOf (digest : List Byte) : Nat := leNat (digest.take 8)

/-- The checks of R430 but for DEST and TESTBASE, in the order in which it lists them: the digest of the signed bytes, or the cause of a refusal. -/
def imgCheck (f : Board) (b : List Byte) : Except Nat (List Byte) :=
  if !formatOk b then .error causeFormat
  else if !keyOk f b then .error causeKey
  else
    let d := sha384 (signedBytes b)
    if !signatureOk b d then .error causeSignature
    else if !recordsOk b then .error causeSection
    else .ok d

/-- The bytes of the first section of a type and index. -/
def sectData (b : List Byte) (typ index : Nat) : Option (List Byte) := ((sectsOf (imgDir b) typ index).head?).map (fun x => x.bytes b)

/-- Write `n` little-endian bytes into a record. -/
def putAt (r : List Byte) (o n v : Nat) : List Byte := r.take o ++ leBytes n v ++ r.drop (o + n)

/-- Slot `spare` takes the place of slot `old` in a record (R433, R443): roles, START, EVEC and SEED. -/
def recSwap (r : List Byte) (old spare : Nat) : List Byte :=
  let r' := putAt r 0 4 (setFld (setFld (leAt r 0 4) (2 * old) 2 roleDisabled) (2 * spare) 2 roleEnabled)
  let r' := putAt r' (0x10 + 8 * spare) 8 (recStart r old)
  let r' := putAt r' (0x58 + 8 * spare) 8 (recEvec r old)
  putAt r' (0xA0 + 8 * spare) 8 (recSeed r old)

/-- A slot that fails the self-test without a spare (R433). -/
def recDisable (r : List Byte) (old : Nat) : List Byte := putAt r 0 4 (setFld (leAt r 0 4) (2 * old) 2 roleDisabled)

end Sys2Proof.Machine
end

