-- ==== Sys2Proof/Machine/Boot.lean ====
section
/-! DEFINITION. Reset and boot (R419 to R437): the release of RESET_N, the flash and its images, stack training, the choice of the map, the copied sections, cluster set-up, and the release of the cores; boot failure with RETRY and HOSTBOOT; and fatal errors (R466, R467). -/

namespace Sys2Proof.Machine

-- cores

/-- A core without power or after a reset: every register at its reset value, nothing in its engines but the felt (R19, R434). -/
def Core.wiped (c : Core) : Core := { eng := { felt := c.eng.felt, feltBad := c.eng.feltBad } }

/-- Write back every modified line of a core's caches and drop all of them (R19, R440). -/
def State.flushCore (s : State) (k : Nat) : State :=
  let d := (s.core k).l2.filterMap (fun p => if p.2 = some true then some p.1 else none)
  (d.foldl State.writeBack s).updCore k (fun c => { c with l2 := [] })

/-- Reset a core (R441): it executes nothing, its engine work is abandoned, its ungranted POST is withdrawn, and what it asked of other dies is forgotten. The write-back of its caches, which a live change or loft makes next (R440, R461), is made with it. -/
def State.resetCore (s : State) (k : Nat) : State :=
  let s := ((s.flushCore k).updCore k Core.wiped).forgetPosts k
  { s with
    dln := { s.dln with reqs := s.dln.reqs.filter (fun r => r.core != k) },
    waiters := s.waiters.filter (fun w => w.agent != k) }

/-- The mill controller releases a core (R434): at `start`, with CORE_EVEC, ENG_NMODE, ENG_RNG and the decode table of its record, and every other register at its reset value. -/
def Core.release (c : Core) (start evec nmode seed dtvalid : Nat) (dtab : Tab Word) : Core :=
  let c := c.wiped
  let c := { c with run := .running, pc := BitVec.ofNat 64 start &&& ~~~3, dtab := dtab }
  let c := c.setReg CORE_EVEC (BitVec.ofNat 64 evec &&& ~~~3)
  let c := c.setReg CORE_DTAB_SEL (BitVec.ofNat 64 (dtvalid % 2 ^ 16 * 2 ^ 16))
  let c := c.setReg ENG_NMODE (BitVec.ofNat 64 nmode &&& 0x1F1D)
  let c := if seed = 0 then c else c.setReg ENG_RNG (BitVec.ofNat 64 seed)
  c.applyStaged

/-- The decode table of a cluster record (R428). -/
def recTable (r : List Byte) : Tab Word := (List.range 512).foldl (fun t i => Tab.set 0 t i (BitVec.ofNat 64 (recDtab r i))) []

/-- The CLUSTER record in force. -/
def State.clusRec (s : State) (c : Nat) : List Byte := Tab.get [] s.mill.clusRec c

/-- Release core slot `k` from its cluster's record (R434). -/
def State.releaseCore (s : State) (k : Nat) : State :=
  let r := s.clusRec (clusterOf k)
  let i := k % 9
  let s := s.updCore k (fun c => c.release (recStart r i) (recEvec r i) (recNmode r) (recSeed r i) (recDtvalid r) (recTable r))
  s.setMillReg MILL_STEST (s.millReg MILL_STEST &&& ~~~((1 : Word) <<< k))

/-- The enabled core slots of a cluster. -/
def State.enabledIn (s : State) (c : Nat) : List Nat := ((List.range 9).map (fun i => 9 * c + i)).filter s.slotEnabled

/-- The enabled core slots of the die. -/
def State.enabledSlots (s : State) : List Nat := (List.range 36).filter s.slotEnabled

/-- Where service core `n` starts: DEST of its SVCFW section (R426, R431). -/
def State.svcStart (s : State) (n : Nat) : Nat :=
  match s.mill.copies.find? (fun x => x.typ == secSvcfw && x.index == n) with | some x => x.dest | none => 0

/-- Release service core `n` (R397, R431): its CORE_EVEC and its decode table come from the image, which has no place for them (log 47). -/
def State.releaseSvc (s : State) (n : Nat) : State :=
  let d := match s.mill.copies.find? (fun x => x.typ == secSvcfw && x.index == n) with | some x => x.digest | none => []
  let tab := (List.range 512).foldl (fun t i => Tab.set 0 t i (Config.svcDtab n d i &&& 0x3EFFFFFFFF)) []
  s.updCore (36 + n) (fun c => c.release (s.svcStart n) (Config.svcEvec n d).toNat 0 0 (Config.svcDtab n d 512).toNat tab)

/-- Release the service cores and every enabled core slot (R431, R434, R462), but those of a cluster that stays quiesced (R445). -/
def State.releaseAll (s : State) : State :=
  let s := (List.range 4).foldl State.releaseSvc s
  (s.enabledSlots.filter (fun k => !(s.vat (clusterOf k)).quiesced)).foldl State.releaseCore s

/-- MILL_SLOTEN and MILL_SLOTSP follow the records in force. -/
def State.writeSlots (s : State) : State :=
  let bits := fun (role : Nat) => (List.range 36).foldl (fun n k => n + b2n (recRole (s.clusRec (k / 9)) (k % 9) == role) * 2 ^ k) 0
  (s.setMillReg MILL_SLOTEN (BitVec.ofNat 64 (bits roleEnabled))).setMillReg MILL_SLOTSP (BitVec.ofNat 64 (bits roleSpare))

-- boot failure (R435)

/-- MILL_BSTAT with a cause. -/
def State.setCause (s : State) (n : Nat) : State := s.setMillReg MILL_BSTAT (wset (s.millReg MILL_BSTAT) 8 8 n)

def State.setImgSlot (s : State) (n : Nat) : State := s.setMillReg MILL_BSTAT (wset (s.millReg MILL_BSTAT) 16 1 n)

/-- The host link is up (MILL_HPSTAT.RATE). -/
def State.hostUp (s : State) : Bool := decide (wfld (Tab.get 0 s.host.regs 0) 5 3 ≠ 0)

/-- Boot enters state FAILED (R435). -/
def State.bootFail (s : State) (cause : Nat) : State :=
  let s := ((s.setCause cause).setBootState bsFailed).setPstate psFailed
  if s.hostUp then s.msixHold 6 else s

-- states CLUSTERS and RUNNING

/-- Slots of a cluster record that fail the self-test are taken out, each in favour of the lowest spare, which is tested in turn (R433). Answers the record and the slots that failed. `fuel` tests at most. -/
def sparing (bad : Nat → Bool) : Nat → List Nat → List Byte → List Byte × List Nat
  | 0, _, r => (r, [])
  | n + 1, todo, r =>
    match todo with
    | [] => (r, [])
    | i :: rest =>
      if bad i then
        let (r', more) := match (List.range 9).find? (fun j => recRole r j == roleSpare) with
          | some j => (recSwap r i j, rest ++ [j])
          | none => (recDisable r i, rest)
        let (r'', f) := sparing bad n more r'
        (r'', i :: f)
      else sparing bad n rest r

/-- Self-test the enabled slots of cluster `c` at boot (R433). -/
def State.bootTest (s : State) (c : Nat) : State :=
  let r := s.clusRec c
  let (r, f) := sparing (fun i => s.board.defects.contains (9 * c + i)) 10 ((List.range 9).filter (fun i => recRole r i == roleEnabled)) r
  let s := { s with mill := { s.mill with clusRec := Tab.set [] s.mill.clusRec c r } }
  f.foldl (fun s i => s.log logSelftestFail 0xFF (9 * c + i) (freeAddr logSelftestFail) (freeDetail logSelftestFail)) s

/-- Set VAT_RBASE and VAT_RSIZE. -/
def State.vatRange (s : State) (c base size : Nat) : State :=
  s.setVat c (((s.vat c).setReg VAT_RBASE (BitVec.ofNat 64 base)).setReg VAT_RSIZE (BitVec.ofNat 64 size))

/-- Vat set-up (R293): ADDRW, INV_ALL, ZERO over every addressable offset, ENABLE. -/
def State.vatSetup (s : State) (c addrw : Nat) : State :=
  let s := s.writeVatCfg c addrw false
  let s := (s.rangeCmd c 4).rangeDone c
  let s := (((s.vatRange c 0 (addrw * 0x400000)).rangeCmd c 3).rangeDone c)
  s.writeVatCfg c addrw true

/-- State RUNNING (R431, R459). -/
def State.bootRun (s : State) : State :=
  let s := s.setBootState bsRunning
  let s := s.setClkReg PWR_STATE (BitVec.ofNat 64 psActive)
  s.releaseAll.ring 49 1

/-- State CLUSTERS (R431): vats, felts, self-test. -/
def State.bootClusters (s : State) : State :=
  let s := s.setBootState bsClusters
  let s := (List.range 4).foldl (fun s c => s.vatSetup c (recAddrw (s.clusRec c))) s
  let s := { s with cores := Tab.update {} s.cores (fun _ c => { c with eng := { c.eng with felt := [], feltBad := [] } }) }
  let s := (List.range 4).foldl State.bootTest s
  s.writeSlots.bootRun

-- states MEMORY and COPY

/-- The image that the ROM boots: primary, fallback, or the host's as it reads now. -/
def State.bootSource (s : State) : List Byte :=
  if s.mill.source = 0 then s.board.primary else if s.mill.source = 1 then s.board.fallback else s.mill.hostAgain

/-- Why a host request of HOSTBOOT failed, as HOST_REQ_ERR shows it: Bus Master Enable clear, or how the host ended it. -/
def State.hostWhy (s : State) : Nat := if s.hostMaster then Nat.max 1 (hostErrCode s.mill.hostEnd) else 4

/-- A host request of HOSTBOOT fails (R15, R435, R472): it is logged, and the boot ends with TIMEOUT. -/
def State.hostBootErr (s : State) (addr : Nat) : State := (s.hostReqErr 40 addr s.hostWhy).bootFail causeTimeout

/-- Copy the sections one by one, each compared with its digest (R431). -/
def State.copySections (s : State) : List CopySect → State
  | [] => s.bootClusters
  | x :: xs =>
    let src := s.bootSource
    if s.mill.source = 2 ∧ (s.hostMaster = false ∨ src.length < x.off + x.size) then s.hostBootErr (s.mill.hostAddr + x.off)
    else
      let bs := (src.drop x.off).take x.size
      if sha384 bs ≠ x.digest then s.bootFail causeChanged
      else
        let s := s.physWrite 40 x.dest bs
        let s := if x.typ = secChain then s.setDlnReg DLN_CTBASE (BitVec.ofNat 64 x.dest) else s
        s.copySections xs

/-- The four ports that a map value names with WAYS = 1, or all eight (R329). -/
def mapPorts (m : Nat) : List Nat := if bit m 16 then (List.range 4).map (fun k => fld m (4 * k) 3) else List.range 8

/-- A port has failed (MEM_MAP.FAILED). -/
def State.portFailed (s : State) (p : Nat) : Bool := s.memMapReg.getLsbD (24 + p)

/-- A map value names no port twice (R330). -/
def mapDistinct (m : Nat) : Bool := (mapPorts m).all (fun p => decide (((mapPorts m).filter (fun q => q == p)).length = 1))

/-- A map value names distinct ports that have not failed (R330, R432). -/
def State.mapOk (s : State) (m : Nat) : Bool := mapDistinct m && (mapPorts m).all (fun p => !s.portFailed p)

/-- The map that R432 chooses, if any. A MAP that names a port twice refuses the image, whatever RMAP is: the die stays in boot failure (R330, log 89). -/
def State.chooseMap (s : State) : Option Nat :=
  let r := s.mill.dieRec
  let m := leAt r 4 4
  let rm := leAt r 8 4
  if mapDistinct m = false then none
  else if s.mapOk m then some m else if rm ≠ 0 ∧ bit rm 16 = true ∧ s.mapOk rm = true then some rm else none

/-- Every DEST and TESTBASE lies in stack memory under the map (R430). -/
def State.destsOk (s : State) : Bool :=
  s.mill.copies.all (fun x => s.stackRange x.dest x.size) && s.stackRange (leAt s.mill.dieRec 0x20 8) (2 ^ 24)

/-- Write zero, with valid check bits, to every granule of the stacks, and start patrol scrub (R431). -/
def State.zeroStacks (s : State) : State :=
  let scrub : Word := BitVec.ofNat 64 (leAt s.mill.dieRec 0x18 4) &&& 0xFFFFF
  let top := 0x00C000000000
  let s := { s with mem := s.mem.filter (fun p => decide (top ≤ p.1)), poison := s.poison.filter (fun p => decide (top ≤ p.1 * 64)), stale := [] }
  (List.range 8).foldl (fun s p => s.setPort p { (s.port p).setReg MEM_SCRUB scrub with scrub := 0 }) s

/-- States MEMORY and COPY (R431, R432). `refuse`: what follows an image whose DEST or TESTBASE the chosen map does not hold (R423, R430). -/
def State.bootMemory (refuse : State → State) (s : State) : State :=
  let s := s.setBootState bsMemory
  match s.chooseMap with
  | none => s.bootFail causeMemmap
  | some m =>
    let t := s.writeMemMap 40 (BitVec.ofNat 64 m) 0xFFFFFFFF
    if !t.destsOk then refuse s
    else
      let t := t.zeroStacks.setBootState bsCopy
      t.copySections t.mill.copies

/-- A stack port has trained or failed (R325). -/
def Port.settled (q : Port) : Bool := decide (wfld (q.reg MEM_PSTAT) 0 2 ≠ 0)

/-- State STACKS ends when every port has trained or failed (R431). A die that has tripped boots no further (R458, log 70). -/
def State.stacksWith (refuse : State → State) (s : State) : State :=
  if s.bootState = bsStacks ∧ (List.range 8).all (fun p => (s.port p).settled) = true ∧ s.tripped = false then s.bootMemory refuse else s

-- states FLASH, IMAGE and DIE

/-- Words of 4 bytes. -/
def words4 (bs : List Byte) (n : Nat) : List Nat := (List.range n).map (fun i => leAt bs (4 * i) 4)

/-- PORTS and ROUTE are loaded; ports with role FABRIC or NODE begin training (R426, R431). -/
def State.loadFabric (s : State) (b : List Byte) : State :=
  let s := match sectData b secPorts 0 with
    | some d =>
      let s := (List.range 24).foldl (fun s p => s.writeRole p (leAt d (4 * p) 4 % 4)) s
      (List.range 25).foldl (fun s i => s.setDlnReg (DLN_BCAST + 8 * i) (BitVec.ofNat 64 (leAt d (96 + 4 * i) 4 % 2 ^ 24))) s
    | none => s
  match sectData b secRoute 0 with
  | some d => (List.range 4096).foldl (fun s i => s.routeSet i (BitVec.ofNat 32 (leAt d (4 * i) 4))) s
  | none => s

/-- MILL_WATERMARK and the four CSTAMPs (R437). -/
def State.stamp (s : State) (wm : Word) : State := [MILL_WATERMARK, MILL_CSTAMP, MILL_CSTAMP + 8, MILL_CSTAMP + 16, MILL_CSTAMP + 24].foldl (fun s o => s.setMillReg o wm) s

/-- The mill controller sets the clock dividers, once until the next power-up (R447): none changes while the die runs (R17). -/
def State.setDividers (s : State) (div : Nat) : State :=
  if s.mill.clkSet then s
  else State.setClkReg { s with mill := { s.mill with clkSet := true } } CLK_CFG (wset (s.clkReg CLK_CFG) 0 6 div)

/-- The image is in force (R431, R437): MCFW, DIE and CLUSTER records and the digests of the copied sections are kept, the dividers, DLN registers and fabric tables are set; then the stacks are awaited. -/
def State.dieWith (refuse : State → State) (s : State) (b digest : List Byte) (slot : Nat) : State :=
  let dir := imgDir b
  let r := (sectData b secDie 0).getD []
  let s := (s.setImgSlot slot).setBootState bsDie
  let s := { s with mill := { s.mill with
    sram := Mem.writeN [] 0 ((sectData b secMcfw 0).getD []),
    dieRec := r,
    clusRec := (List.range 4).foldl (fun t c => Tab.set [] t c ((sectData b secCluster c).getD [])) [],
    copies := (dir.filter Sect.copied).map (fun (x : Sect) => ⟨x.typ, x.index, x.off, x.size, x.dest, sha384 (x.bytes b)⟩) } }
  let s := (s.stamp (BitVec.ofNat 64 (watermarkOf digest))).setDividers (leAt r 2 1)
  let s := s.setDlnReg DLN_ID (BitVec.ofNat 64 (leAt r 0 2 % 4096))
  let s := s.setDlnReg DLN_CFG (BitVec.ofNat 64 (leAt r 0x10 4))
  let s := s.setDlnReg DLN_APCFG (BitVec.ofNat 64 (leAt r 0x14 4 % 2 ^ 13))
  ((s.loadFabric b).setBootState bsStacks).stacksWith refuse

/-- The bytes that the flash port reads in the 5 s of an image's bound: in the protocol that discovery finds, at the frequency in MHz that its table allows, up to 200 in 8D-8D-8D, two bytes a cycle, and up to 50 on a single lane, one bit a cycle (R15, R422). -/
def flashReach : Sfdp → Nat
  | .xspi mhz => 5 * 1000000 * 2 * Nat.min mhz 200
  | .spi mhz => 5 * 1000000 * Nat.min mhz 50 / 8
  | .absent => 0

/-- The image does not come in its bound. -/
def tooSlow (f : Board) (b : List Byte) : Bool := headerOk b && decide (flashReach f.sfdp < imgLength b)

/-- The ROM tries the fallback image (R423); a read that outlasts its bound leaves the ROM in state IMAGE until the bound. -/
def State.bootFallback (s : State) : State :=
  let s := State.setBootState { s.stamp 0 with mill := { (s.stamp 0).mill with source := 1 } } bsImage
  if tooSlow s.board s.board.fallback then s
  else
    match imgCheck s.board s.board.fallback with
    | .ok d => if imgParent s.board.fallback = 0 then s.dieWith (fun s => s.bootFail causeSection) s.board.fallback d 1 else s.bootFail causeFormat
    | .error c => s.bootFail c

/-- An image is refused, with its cause in MILL_BSTAT (R430): after the primary the fallback is tried, where the device can hold one (R423). -/
def State.imgRefused (s : State) (cause : Nat) : State :=
  let s := s.setCause cause
  if s.mill.source = 0 ∧ s.board.large = true ∧ s.board.fallback ≠ [] then s.bootFallback else s.bootFail cause

/-- State STACKS, and what follows an image that the map refuses (R423, R431). -/
def State.bootStacks (s : State) : State := s.stacksWith (fun s => s.imgRefused causeSection)

/-- State DIE and what follows it. -/
def State.bootDie (s : State) (b digest : List Byte) (slot : Nat) : State := s.dieWith (fun s => s.imgRefused causeSection) b digest slot

/-- State IMAGE with the primary image (R423, R430). -/
def State.bootPrimary (s : State) : State :=
  let s := { s with mill := { s.mill with source := 0 } }.setBootState bsImage
  if tooSlow s.board s.board.primary then s
  else
    match imgCheck s.board s.board.primary with
    | .ok d => if imgParent s.board.primary = 0 then s.bootDie s.board.primary d 0 else s.imgRefused causeFormat
    | .error c => s.imgRefused c

/-- State FLASH (R422). No image is in force (R437). -/
def State.bootFlash (s : State) : State :=
  let s := (((s.stamp 0).setCause 0).setPstate psBoot).setBootState bsFlash
  if s.board.sfdp = .absent then s.bootFail causeFlashNone else s.bootPrimary

-- reset

/-- The root PLL is locked (CLK_CFG.LOCK, R447). -/
def State.locked (s : State) : State := s.setClkReg CLK_CFG (wset (s.clkReg CLK_CFG) 31 1 1)

/-- Every block at its reset values; what stands outside the die stays: the waiting commands, the board, what was driven out, and the test port, which has a reset of its own (R451, R475). -/
def State.blank (s : State) : State :=
  { State.reset with pending := s.pending, board := s.board, jtag := s.jtag, free := s.free, outbox := s.outbox }

/-- A reset of every block, the error log among them: ALERT_N goes high where unread entries held it low (R419, R468). -/
def State.allReset (s : State) : State := (s.setErr {}).blank

/-- POWER_UP_RESET (R431, R451): RESET_N is released with this board. -/
def State.powerUp (s : State) (b : Board) : State := (State.locked { s.allReset with board := b, upsets := b.upsets, powered := true }).bootFlash

def execPowerUpReset (board : Board) (s : State) : Out := .next (if s.powered then s else s.powerUp board)

/-- RESET_N_ASSERTED (R451): every block stops and is held in reset. -/
def execResetNAsserted (s : State) : Out := .next s.allReset

/-- IMAGE_READ_TIMEOUT (R15, R430): the read of the image under check is refused with TIMEOUT. -/
def execImageReadTimeout (s : State) : Out :=
  .next (if s.powered ∧ s.bootState = bsImage then s.imgRefused causeTimeout else s)

-- stack training

/-- The marks of a failed stack port, which carries no traffic until the next power-up (R325). -/
def State.markFailed (s : State) (p : Nat) : State :=
  let s := s.setPort p ((s.port p).setReg MEM_PSTAT (wset ((s.port p).reg MEM_PSTAT) 1 1 1))
  { s with memRegs := Tab.set (memReset MEM_MAP) s.memRegs MEM_MAP (wset s.memMapReg (24 + p) 1 1) }

/-- A stack port fails (R325). -/
def State.failPort (s : State) (p : Nat) : State := (s.markFailed p).log logStackPortFail 0xFF p (freeAddr logStackPortFail) (freeDetail logStackPortFail)

/-- A port trains still. -/
def State.portTraining (s : State) (p : Nat) : Bool := s.powered && !(s.port p).settled

/-- STACK_TRAINING_DONE (R325, R431). -/
def State.stackTrained (s : State) (p : Nat) (ok : Bool) : State :=
  if s.portTraining p then
    (if ok then s.setPort p ((s.port p).setReg MEM_PSTAT (wset ((s.port p).reg MEM_PSTAT) 0 1 1)) else s.failPort p).bootStacks
  else s

def execStackTrainingDone (p : Nat) (ok : Bool) (s : State) : Out := guardUnit (decide (p < 8)) (s.stackTrained p ok)

/-- STACK_TRAINING_TIMEOUT (R15). -/
def execStackTrainingTimeout (p : Nat) (s : State) : Out := guardUnit (decide (p < 8)) (s.stackTrained p false)

-- boot failure's commands

/-- The code in MSG0[7:0] of the post that stands in a channel's slot. -/
def State.postCode (s : State) (ch : Nat) : Option Nat := if (s.chan ch).go then some (wfld ((s.chan ch).reg MBX_MSG) 0 8) else none

/-- RETRY (R435). -/
def execRetry (s : State) : Out :=
  .next (if s.bootState = bsFailed ∧ s.tripped = false ∧ s.postCode 48 = some 0x10 then ((s.take 48).setImgSlot 0).bootFlash else s)

/-- HOSTBOOT (R435): the image comes from host memory, `image` at the first read and `again` at the second; `hostEnd`: how a host request beyond what they bring ends. One that fails ends the boot with TIMEOUT. -/
def State.hostBoot (s : State) (image again : List Byte) (hostEnd : HostEnd) : State :=
  let addr := ((s.chan 48).reg (MBX_MSG + 8)).toNat
  let len := ((s.chan 48).reg (MBX_MSG + 16)).toNat
  let s := (((s.take 48).stamp 0).setCause 0).setPstate psBoot
  let s := { s with mill := { s.mill with source := 2, hostAgain := again, hostEnd := hostEnd, hostAddr := addr } }.setBootState bsImage
  let b := image.take len
  if 2 ^ 28 < len then s.bootFail causeFormat
  else if !s.hostMaster || decide (image.length < len) then s.hostBootErr addr
  else
    match imgCheck s.board b with
    | .ok d => if imgParent b = 0 then s.bootDie b d 1 else s.bootFail causeFormat
    | .error c => s.bootFail c

def execHostboot (image again : List Byte) (hostEnd : HostEnd) (s : State) : Out :=
  .next (if s.bootState = bsFailed ∧ s.tripped = false ∧ s.postCode 48 = some 0x11 then s.hostBoot image again hostEnd else s)

-- fatal errors

/-- The DIE_FATAL notice leaves on every usable port of the broadcast mask that holds a credit of lane 2 (R369, R390, R391, R467). -/
def State.fatalNotices (s : State) : State :=
  (List.range 24).foldl (fun s p =>
    let l := s.link p
    if (s.dlnReg (DLN_BCAST + 24 * 8)).getLsbD p && l.usable && decide (0 < Tab.get 0 l.credits 2) then
      s.out (.link p (blockOf l.txSeq [{ s.noticeFlit p (s.dev, clsDieFatal, 1) with vl := 2, hops := 1 }] none none [] false))
    else s) s

/-- A fatal error (R467): the entry, the notices, and a reset of every block but the clock block and the error log, from which the die boots again; the marks of failed stack ports stay too (R325, log 50). In state TRIPPED the entry only. -/
def State.fatal (s : State) (cause : Nat) : State :=
  let s := s.log logFatal 0xFF (freeUnit logFatal) (freeAddr logFatal) cause
  if s.inTrip then s
  else
    let s := s.fatalNotices
    let t := State.locked { s.blank with powered := true, clk := s.clk, err := s.err, upsets := s.upsets, mill := { clkSet := s.mill.clkSet } }
    (((List.range 8).filter s.portFailed).foldl State.markFailed t).bootFlash

/-- WATCHDOG_EXPIRY (R466). -/
def execWatchdogExpiry (s : State) : Out := .next (if s.powered then s.fatal 1 else s)

/-- PLL_LOCK_LOST (R472). -/
def execPllLockLost (s : State) : Out := .next (if s.powered then s.fatal 3 else s)

/-- FATAL (R463, R467): an error that the logic's code cannot correct, which is logged as SRAM_UE where a read has not found it before. -/
def execFatal (s : State) : Out :=
  .next (if s.powered then (if s.mill.doomed then s else s.log logSramUe 0xFF (freeUnit logSramUe) (freeAddr logSramUe) 8).fatal 2 else s)

end Sys2Proof.Machine
end

