-- ==== Sys2Proof/Machine/Branch.lean ====
section
/-! DEFINITION. Control transfers (R187, R208) and their prediction (R219). -/

namespace Sys2Proof.Machine

/-- An address plus a number of words. -/
def plusWords (pc : Word) (n : Int) : Word := pc + BitVec.ofInt 64 (4 * n)

/-- A transfer's prediction proves wrong: every younger instruction goes, and it counts (R219, R474). -/
def State.mispredict (s : State) (k : Nat) : State := (s.squash k).event k 0x05 1

/-- Put an address first in a predictor's list of `n` entries. -/
def putFirst (n : Nat) (l : List Word) (pc : Word) : List Word := (pc :: l.filter (fun x => x != pc)).take n

/-- A conditional branch meets its prediction (R219): static until it has an entry, then what the tables hold, which the spec does not state (log 82). -/
def State.predictBranch (s : State) (k : Nat) (back taken : Bool) : State :=
  let c := s.core k
  let known := c.hist.contains c.pc
  let guess := if known then Config.predictTaken s.free else back
  let t := { s.updCore k (fun c => { c with hist := putFirst 16384 c.hist c.pc }) with free := s.free + b2n known }
  if guess = taken then t else t.mispredict k

/-- The return stack takes a return address (R219). -/
def Core.pushReturn (c : Core) (a : Word) : Core := { c with ras := (a :: c.ras).take 32 }

/-- A JALR to `t` meets its prediction (R219): by the target buffer or the return stack, where either has an entry; fetch stops behind one that is not predicted, so nothing younger has been dispatched. -/
def State.predictJalr (s : State) (k : Nat) (t : Word) : State :=
  let c := s.core k
  let known := c.btb.find? (fun x => x.1 == c.pc)
  let both := known.isSome && !c.ras.isEmpty
  let ret := if both then Config.predictReturn s.free else known.isNone
  let guess := if ret then c.ras.head? else known.map Prod.snd
  let u := { s.updCore k (fun c => { c with btb := ((c.pc, t) :: c.btb.filter (fun x => x.1 != c.pc)).take 4096, ras := if ret then c.ras.drop 1 else c.ras }) with
             free := s.free + b2n both }
  match guess with
  | none => u.squash k
  | some g => if g = t then u else u.mispredict k

/-- A conditional branch (R208): the offset is in words from the branch's address. -/
def bodyBranch (k : Nat) (a b : Reg) (off : BitVec 16) (p : Word → Word → Bool) (s : State) : Res (Option Word) :=
  let taken := p (s.greg k a) (s.greg k b)
  let t := s.predictBranch k (off.getLsbD 15) taken
  if taken then jumpTo t (plusWords (s.core k).pc (sext 16 off.toNat)) else .ok t none

def execBeq (k : Nat) (a b : Reg) (off : BitVec 16) (s : State) : Out := s.instr k (bodyBranch k a b off (fun x y => x == y))
def execBne (k : Nat) (a b : Reg) (off : BitVec 16) (s : State) : Out := s.instr k (bodyBranch k a b off (fun x y => x != y))
def execBlt (k : Nat) (a b : Reg) (off : BitVec 16) (s : State) : Out := s.instr k (bodyBranch k a b off (fun x y => x.slt y))
def execBge (k : Nat) (a b : Reg) (off : BitVec 16) (s : State) : Out := s.instr k (bodyBranch k a b off (fun x y => y.sle x))
def execBltu (k : Nat) (a b : Reg) (off : BitVec 16) (s : State) : Out := s.instr k (bodyBranch k a b off (fun x y => x.ult y))
def execBgeu (k : Nat) (a b : Reg) (off : BitVec 16) (s : State) : Out := s.instr k (bodyBranch k a b off (fun x y => y.ule x))

/-- J (R208), always predicted to its target (R219). -/
def bodyJ (k : Nat) (off : BitVec 26) (s : State) : Res (Option Word) := jumpTo s (plusWords (s.core k).pc (sext 26 off.toNat))

def execJ (k : Nat) (off : BitVec 26) (s : State) : Out := s.instr k (bodyJ k off)

/-- JAL (R208) writes the return address to G31; it is always predicted to its target (R219). -/
def bodyJal (k : Nat) (off : BitVec 26) (s : State) : Res (Option Word) :=
  let pc := (s.core k).pc
  jumpTo ((s.setG k 31 (pc + 4)).updCore k (fun c => c.pushReturn (pc + 4))) (plusWords pc (sext 26 off.toNat))

def execJal (k : Nat) (off : BitVec 26) (s : State) : Out := s.instr k (bodyJal k off)

/-- JALR (R187, R208): the target is formed before Gd is written; a target that is not word aligned raises IADDR and writes nothing. -/
def bodyJalr (k : Nat) (d a : Reg) (imm : BitVec 16) (s : State) : Res (Option Word) :=
  let t := s.greg k a + BitVec.ofInt 64 (sext 16 imm.toNat)
  let pc := (s.core k).pc
  if t.getLsbD 0 || t.getLsbD 1 then .exc s excIaddr 0 t
  else
    let u := (s.predictJalr k t).setG k d (pc + 4)
    .ok (if d = 31 then u.updCore k (fun c => c.pushReturn (pc + 4)) else u) (some t)

def execJalr (k : Nat) (d a : Reg) (imm : BitVec 16) (s : State) : Out := s.instr k (bodyJalr k d a imm)

end Sys2Proof.Machine
end

