-- ==== Sys2Proof/Machine/Fp.lean ====
section
/-! DEFINITION. Scalar floating arithmetic, moves, conversions and long-vector operations (R23, R24, R210, R228). -/

namespace Sys2Proof.Machine

/-- The format of a floating major: 0x20 FP32, 0x21 FP64. -/
def fpFmt (dbl : Bool) : Fmt := if dbl then .fp64 else .fp32

/-- An F register read as a value of a format. -/
def Core.fval (c : Core) (f : Fmt) (r : Reg) : FV := decodeElem f ((c.freg r.toNat).toNat % 2 ^ f.bits)

/-- The end of a floating instruction (R228): with an enabled trap the flags are set, nothing is written and FPTRAP is taken; else the flags are set and `put` writes the result. -/
def fpFinish (k : Nat) (fl : Flags) (put : Core → Core) (s : State) : Res (Option Word) :=
  let c := s.core k
  if c.fpTraps fl then .exc (s.updCore k (fun c => c.setFctl fl)) excFptrap 0 0
  else .ok (s.updCore k (fun c => put (c.setFctl fl))) none

/-- An operation with an F destination: the exact result is rounded once under CORE_FCTL.RMODE. -/
def bodyFp (k : Nat) (dbl : Bool) (d : Reg) (op : Core → FV × Flags) (s : State) : Res (Option Word) :=
  let f := fpFmt dbl
  let c := s.core k
  let (bits, fl) := rnd f c.frm false (op c)
  fpFinish k fl (fun c => c.setFlow f.bits d.toNat bits) s

/-- An operation on the sign bit alone, which raises nothing (IEEE 754-2019 abs and negate). -/
def bodySign (k : Nat) (dbl : Bool) (d a : Reg) (g : Nat → Nat → Nat) (s : State) : Res (Option Word) :=
  let w := (fpFmt dbl).bits
  let x := ((s.core k).freg a.toNat).toNat % 2 ^ w
  .ok (s.updCore k (fun c => c.setFlow w d.toNat (g w x))) none

/-- |x| of a w-bit floating encoding. -/
def absBits (w x : Nat) : Nat := x % 2 ^ (w - 1)

/-- −x of a w-bit floating encoding. -/
def negBits (w x : Nat) : Nat := if x < 2 ^ (w - 1) then x + 2 ^ (w - 1) else x - 2 ^ (w - 1)

/-- CMP writes 1 or 0 to a G register; a condition that R159 does not list is an encoding error (log 25). -/
def bodyFcmp (k : Nat) (dbl : Bool) (d a b : Reg) (cond : BitVec 5) (s : State) : Res (Option Word) :=
  if 6 ≤ cond.toNat then raise s excIllegal
  else
    let c := s.core k
    let (p, fl) := cmpFV cond.toNat (c.fval (fpFmt dbl) a) (c.fval (fpFmt dbl) b)
    fpFinish k fl (fun c => c.setG d.toNat (BitVec.ofNat 64 (b2n p))) s

def execFadd (k : Nat) (dbl : Bool) (d a b : Reg) (s : State) : Out :=
  s.instr k (bodyFp k dbl d (fun c => addFV c.frm (c.fval (fpFmt dbl) a) (c.fval (fpFmt dbl) b)))
def execFsub (k : Nat) (dbl : Bool) (d a b : Reg) (s : State) : Out :=
  s.instr k (bodyFp k dbl d (fun c => subFV c.frm (c.fval (fpFmt dbl) a) (c.fval (fpFmt dbl) b)))
def execFmul (k : Nat) (dbl : Bool) (d a b : Reg) (s : State) : Out :=
  s.instr k (bodyFp k dbl d (fun c => mulFV (c.fval (fpFmt dbl) a) (c.fval (fpFmt dbl) b)))
def execFfma (k : Nat) (dbl : Bool) (d a b c : Reg) (s : State) : Out :=
  s.instr k (bodyFp k dbl d (fun r => fmaFV r.frm (r.fval (fpFmt dbl) a) (r.fval (fpFmt dbl) b) (r.fval (fpFmt dbl) c)))
def execFmin (k : Nat) (dbl : Bool) (d a b : Reg) (s : State) : Out :=
  s.instr k (bodyFp k dbl d (fun c => minmaxFV false (c.fval (fpFmt dbl) a) (c.fval (fpFmt dbl) b)))
def execFmax (k : Nat) (dbl : Bool) (d a b : Reg) (s : State) : Out :=
  s.instr k (bodyFp k dbl d (fun c => minmaxFV true (c.fval (fpFmt dbl) a) (c.fval (fpFmt dbl) b)))
def execFabs (k : Nat) (dbl : Bool) (d a : Reg) (s : State) : Out := s.instr k (bodySign k dbl d a absBits)
def execFneg (k : Nat) (dbl : Bool) (d a : Reg) (s : State) : Out := s.instr k (bodySign k dbl d a negBits)
def execFcmp (k : Nat) (dbl : Bool) (d a b : Reg) (cond : BitVec 5) (s : State) : Out := s.instr k (bodyFcmp k dbl d a b cond)
def execFdiv (k : Nat) (dbl : Bool) (d a b : Reg) (s : State) : Out :=
  s.instr k (bodyFp k dbl d (fun c => divFV (c.fval (fpFmt dbl) a) (c.fval (fpFmt dbl) b)))
def execFsqrt (k : Nat) (dbl : Bool) (d a : Reg) (s : State) : Out :=
  s.instr k (bodyFp k dbl d (fun c => sqrtFV (c.fval (fpFmt dbl) a)))

def bodyFmvgf (k : Nat) (d a : Reg) (s : State) : Res (Option Word) := .ok (s.setG k d (s.freg k a)) none
def bodyFmvfg (k : Nat) (d a : Reg) (s : State) : Res (Option Word) := .ok (s.setF k d (s.greg k a)) none

def execFmvgf (k : Nat) (d a : Reg) (s : State) : Out := s.instr k (bodyFmvgf k d a)
def execFmvfg (k : Nat) (d a : Reg) (s : State) : Out := s.instr k (bodyFmvfg k d a)

/-- The formats that FCVT takes (R210). -/
def fcvtFmt (c : Nat) : Option Fmt :=
  if 16 ≤ c then none
  else match Fmt.ofCode c with
    | .fp32 => some .fp32
    | .fp16 => some .fp16
    | .fp64 => some .fp64
    | .i32 => some .i32
    | _ => none

/-- FCVT (R41 to R48, R210): I32 stands in G registers, sign-extended (log 24), floating values in F registers. -/
def bodyFcvt (k : Nat) (d a : Reg) (dstFmt srcFmt : BitVec 5) (s : State) : Res (Option Word) :=
  match fcvtFmt srcFmt.toNat, fcvtFmt dstFmt.toNat with
  | some sf, some df =>
    let c := s.core k
    let v := if sf = .i32 then FV.ofInt (sext 32 (c.greg a.toNat).toNat) else c.fval sf a
    let r := convElem df c.frm false v
    fpFinish k r.flags (fun c =>
      if df = .i32 then c.setG d.toNat (BitVec.ofInt 64 (sext 32 r.bits)) else c.setFlow df.bits d.toNat r.bits) s
  | _, _ => raise s excIllegal

def execFcvt (k : Nat) (d a : Reg) (dstFmt srcFmt : BitVec 5) (s : State) : Out := s.instr k (bodyFcvt k d a dstFmt srcFmt)

-- long vectors

/-- The element type of a VOP (R210). -/
def vopFmt (e : Nat) : Fmt := if e = 0 then .fp32 else if e = 1 then .fp64 else .i32

/-- A VOP kind that the element type allows (R159, R210; log 25). -/
def vopOk (kind etype : Nat) : Bool :=
  if 3 ≤ etype then false
  else if etype = 2 then (decide (1 ≤ kind) && decide (kind ≤ 0x0B) && decide (kind ≠ 4)) || (decide (0x10 ≤ kind) && decide (kind ≤ 0x16))
  else decide (1 ≤ kind) && decide (kind ≤ 0x0B)

/-- The format to which a VOP's CVT rounds, which no field of it holds (log 26): any of R62, of I32 lanes an integer one (R160). -/
def vopCvtFmt (etype : Nat) : Fmt :=
  let n := Config.vopOpen 0x0B etype 0 0
  if etype = 2 then (match n % 5 with | 0 => .i4 | 1 => .i8 | 2 => .u8 | 3 => .i16 | _ => .i32) else Fmt.ofCode n

/-- A floating lane of a CVT: rounded to a format and widened back (R159, R160). `scale`: the scale byte of its block. -/
def vopCvt (f fmt : Fmt) (rm : RMode) (scale : Option Nat) (a : Nat) : Nat × Flags :=
  let x := decodeElem f a
  match scale with
  | some sc =>
    if sc = 255 then rnd f .nearest false (.dnan, { inv := x.isSig })
    else let c := convScaled fmt.elem rm false sc x; rnd f .nearest false (applyScale sc (decodeElem fmt.elem c.bits), c.flags)
  | none => let c := convElem fmt rm false x; rnd f .nearest false (decodeElem fmt c.bits, c.flags)

/-- One floating lane: its encoding and flags. CMP gives one or zero and SEL one of its operands (R159); which, and the format of a CVT, are open, for VOP has no field for them (log 26). -/
def vopFloat (f : Fmt) (rm : RMode) (kind etype a b c : Nat) (scale : Option Nat) : Nat × Flags :=
  let x := decodeElem f a
  let y := decodeElem f b
  match kind with
  | 0x01 => rnd f rm false (addFV rm x y)
  | 0x02 => rnd f rm false (subFV rm x y)
  | 0x03 => rnd f rm false (mulFV x y)
  | 0x04 => rnd f rm false (fmaFV rm x y (decodeElem f c))
  | 0x05 => rnd f rm false (minmaxFV false x y)
  | 0x06 => rnd f rm false (minmaxFV true x y)
  | 0x07 => (absBits f.bits a, {})
  | 0x08 => (negBits f.bits a, {})
  | 0x09 =>
    let (r, g) := cmpFV (Config.vopOpen kind etype a b % 6) x y
    ((convElem f .nearest false (FV.ofInt (if r then 1 else 0))).bits, g)
  | 0x0A => (if Config.vopOpen kind etype a b % 2 = 0 then a else b, {})
  | _ => vopCvt f (vopCvtFmt etype) rm scale a

/-- One I32 lane, wrapping. -/
def vopInt (kind a b : Nat) : Nat :=
  let x := sext 32 a
  let y := sext 32 b
  let sh := b % 32
  match kind with
  | 0x01 => wrapN 32 (x + y)
  | 0x02 => wrapN 32 (x - y)
  | 0x03 => wrapN 32 (x * y)
  | 0x05 => wrapN 32 (Min.min x y)
  | 0x06 => wrapN 32 (Max.max x y)
  | 0x07 => wrapN 32 (if x < 0 then -x else x)
  | 0x08 => wrapN 32 (-x)
  | 0x10 => (a * 2 ^ sh) % 2 ^ 32
  | 0x11 => a / 2 ^ sh
  | 0x12 => wrapN 32 (x / (2 ^ sh : Nat))
  | 0x13 => a &&& b
  | 0x14 => a ||| b
  | 0x15 => a ^^^ b
  | 0x16 => 2 ^ 32 - 1 - a
  | 0x09 => b2n (cmpInt (Config.vopOpen kind 2 a b % 6) x y)
  | 0x0A => if Config.vopOpen kind 2 a b % 2 = 0 then a else b
  | _ => wrapN 32 (decodeI (vopCvtFmt 2) (narrowI (vopCvtFmt 2) false x).bits)

/-- The lanes of a VOP: the bytes of the result, and every flag raised. A CVT to a scaled format takes one scale for 32 lanes (R160). -/
def vopLanes (c : Core) (kind etype : Nat) (d a b : Nat) : List Byte × Flags :=
  let f := vopFmt etype
  let z := f.bits / 8
  let rm := c.frm
  (List.range (vsize / z)).foldl (fun (bs, fl) i =>
    let lane := fun r j => c.v.readLE (vbase r + j * z) z
    let at' := fun r => lane r i
    let fmt := vopCvtFmt etype
    let scale := if kind = 0x0B ∧ fmt.scaled = true then some (scaleFor fmt.elem ((List.range 32).map (fun j => decodeElem f (lane a (i / 32 * 32 + j))))) else none
    let (x, g) := if etype = 2 then (vopInt kind (at' a) (at' b), ({} : Flags)) else vopFloat f rm kind etype (at' a) (at' b) (at' d) scale
    (bs ++ leBytes z x, fl.or g)) ([], {})

/-- VOP (R210, R228). -/
def bodyVop (k : Nat) (kind : BitVec 6) (d a b : Reg) (etype : BitVec 5) (s : State) : Res (Option Word) :=
  if !vopOk kind.toNat etype.toNat || decide (16 ≤ d.toNat) || decide (16 ≤ a.toNat) || decide (16 ≤ b.toNat) then raise s excIllegal
  else
    let (bs, fl) := vopLanes (s.core k) kind.toNat etype.toNat d.toNat a.toNat b.toNat
    fpFinish k fl (fun c => { c with v := c.v.writeN (vbase d.toNat) bs }) s

def execVop (k : Nat) (kind : BitVec 6) (d a b : Reg) (etype : BitVec 5) (s : State) : Out := s.instr k (bodyVop k kind d a b etype)

end Sys2Proof.Machine
end

