-- ==== Sys2Proof/Machine/Customer.lean ====
section
/-! DEFINITION. Customer instructions (R211 to R215): the micro-ops of the active decode table, run as one instruction. -/

namespace Sys2Proof.Machine

/-- The fields of a customer instruction word (R211). -/
structure Cust where
  rd : Reg
  ra : Reg
  rb : Reg
  imm7 : BitVec 7
deriving DecidableEq, Repr

/-- The active entries of an opcode up to its last (R214). -/
def custEntries (c : Core) (op : Nat) : Nat → List Word
  | 0 => []
  | n + 1 =>
    let e := Tab.get 0 c.dtabAct (op * 32 + (31 - n))
    if e.getLsbD 37 then [e] else e :: custEntries c op n

/-- A micro-op's word: the template with the instruction's fields put in (R214). -/
def custWord (e : Word) (f : Cust) : Nat :=
  let w := e.toNat % 2 ^ 32
  let major := fld w 26 6
  let w := if e.getLsbD 33 then setFld w 21 5 f.rd.toNat else w
  let w := if e.getLsbD 34 then setFld w 16 5 f.ra.toNat else w
  let w := if e.getLsbD 35 then setFld w 11 5 f.rb.toNat else w
  if e.getLsbD 36 then
    if 0x10 ≤ major then setFld w 0 13 (wrapN 13 (sext 7 f.imm7.toNat)) else setFld w 0 16 (wrapN 16 (sext 7 f.imm7.toNat))
  else w

/-- The body of a scalar instruction that may be a micro-op (R214), unless its fields are an encoding error. -/
def microBody (i : Instr) : Option (State → Res (Option Word)) :=
  match i with
  | .slli k d a sh => some (bodyImm k d a sh.toNat aluSll)
  | .srli k d a sh => some (bodyImm k d a sh.toNat aluSrl)
  | .srai k d a sh => some (bodyImm k d a sh.toNat aluSra)
  | .lih k d sel imm => some (bodyLih k d sel imm)
  | .add k w d a b => some (bodyAlu k w d a b aluAdd)
  | .sub k w d a b => some (bodyAlu k w d a b aluSub)
  | .and k w d a b => some (bodyAlu k w d a b aluAnd)
  | .or k w d a b => some (bodyAlu k w d a b aluOr)
  | .xor k w d a b => some (bodyAlu k w d a b aluXor)
  | .sll k w d a b => some (bodyAlu k w d a b aluSll)
  | .srl k w d a b => some (bodyAlu k w d a b aluSrl)
  | .sra k w d a b => some (bodyAlu k w d a b aluSra)
  | .slt k w d a b => some (bodyAlu k w d a b aluSlt)
  | .sltu k w d a b => some (bodyAlu k w d a b aluSltu)
  | .min k w d a b => some (bodyAlu k w d a b aluMin)
  | .max k w d a b => some (bodyAlu k w d a b aluMax)
  | .minu k w d a b => some (bodyAlu k w d a b aluMinu)
  | .maxu k w d a b => some (bodyAlu k w d a b aluMaxu)
  | .mul k w d a b => some (bodyAlu k w d a b aluMul)
  | .mulh k w d a b => some (bodyAlu k w d a b aluMulh)
  | .mulhu k w d a b => some (bodyAlu k w d a b aluMulhu)
  | .div k w d a b => some (bodyAlu k w d a b aluDiv)
  | .divu k w d a b => some (bodyAlu k w d a b aluDivu)
  | .rem k w d a b => some (bodyAlu k w d a b aluRem)
  | .remu k w d a b => some (bodyAlu k w d a b aluRemu)
  | .clz k w d a => some (bodyAlu k w d a a aluClz)
  | .popc k w d a => some (bodyAlu k w d a a aluPopc)
  | .brev k w d a => some (bodyAlu k w d a a aluBrev)
  | .addi k d a imm => some (bodyImm k d a (imm16s imm) aluAdd)
  | .andi k d a imm => some (bodyImm k d a imm.toNat aluAnd)
  | .ori k d a imm => some (bodyImm k d a imm.toNat aluOr)
  | .xori k d a imm => some (bodyImm k d a imm.toNat aluXor)
  | .ldb k m => if mopBad m then none else some (bodyLoad k 1 false m (putGs 8 m.t))
  | .ldbu k m => if mopBad m then none else some (bodyLoad k 1 false m (putG m.t))
  | .ldh k m => if mopBad m then none else some (bodyLoad k 2 false m (putGs 16 m.t))
  | .ldhu k m => if mopBad m then none else some (bodyLoad k 2 false m (putG m.t))
  | .ldw k m => if mopBad m then none else some (bodyLoad k 4 false m (putGs 32 m.t))
  | .ldwu k m => if mopBad m then none else some (bodyLoad k 4 false m (putG m.t))
  | .ldd k m => if mopBad m then none else some (bodyLoad k 8 false m (putG m.t))
  | .stb k m => if mopBad m then none else some (bodyStore k 1 false m (getG m.t))
  | .sth k m => if mopBad m then none else some (bodyStore k 2 false m (getG m.t))
  | .stw k m => if mopBad m then none else some (bodyStore k 4 false m (getG m.t))
  | .std k m => if mopBad m then none else some (bodyStore k 8 false m (getG m.t))
  | .fldw k m => if mopBad m then none else some (bodyLoad k 4 false m (putF 32 m.t))
  | .fldd k m => if mopBad m then none else some (bodyLoad k 8 false m (putF 64 m.t))
  | .fstw k m => if mopBad m then none else some (bodyStore k 4 false m (getF m.t))
  | .fstd k m => if mopBad m then none else some (bodyStore k 8 false m (getF m.t))
  | .fadd k x d a b => some (bodyFp k x d (fun c => addFV c.frm (c.fval (fpFmt x) a) (c.fval (fpFmt x) b)))
  | .fsub k x d a b => some (bodyFp k x d (fun c => subFV c.frm (c.fval (fpFmt x) a) (c.fval (fpFmt x) b)))
  | .fmul k x d a b => some (bodyFp k x d (fun c => mulFV (c.fval (fpFmt x) a) (c.fval (fpFmt x) b)))
  | .ffma k x d a b c => some (bodyFp k x d (fun r => fmaFV r.frm (r.fval (fpFmt x) a) (r.fval (fpFmt x) b) (r.fval (fpFmt x) c)))
  | .fmin k x d a b => some (bodyFp k x d (fun c => minmaxFV false (c.fval (fpFmt x) a) (c.fval (fpFmt x) b)))
  | .fmax k x d a b => some (bodyFp k x d (fun c => minmaxFV true (c.fval (fpFmt x) a) (c.fval (fpFmt x) b)))
  | .fabs k x d a => some (bodySign k x d a absBits)
  | .fneg k x d a => some (bodySign k x d a negBits)
  | .fcmp k x d a b cond => if 6 ≤ cond.toNat then none else some (bodyFcmp k x d a b cond)
  | .fdiv k x d a b => some (bodyFp k x d (fun c => divFV (c.fval (fpFmt x) a) (c.fval (fpFmt x) b)))
  | .fsqrt k x d a => some (bodyFp k x d (fun c => sqrtFV (c.fval (fpFmt x) a)))
  | .fmvgf k d a => some (bodyFmvgf k d a)
  | .fmvfg k d a => some (bodyFmvfg k d a)
  | .fcvt k d a df sf => if (fcvtFmt df.toNat).isSome && (fcvtFmt sf.toNat).isSome then some (bodyFcvt k d a df sf) else none
  | _ => none

/-- A template's major opcode may be a micro-op (R214). -/
def custMajor (m : Nat) : Bool :=
  (decide (0x06 ≤ m) && decide (m ≤ 0x09)) || (decide (0x0C ≤ m) && decide (m ≤ 0x1E)) || (decide (0x20 ≤ m) && decide (m ≤ 0x22))

/-- The template is R format. -/
def custR (m : Nat) : Bool := m == 0x08 || m == 0x09 || (decide (0x20 ≤ m) && decide (m ≤ 0x22))

/-- The template's immediate may be replaced: I format, or M format with AM 0, 2 or 3. -/
def custI (w m : Nat) : Bool :=
  m == 0x06 || m == 0x07 || (decide (0x0C ≤ m) && decide (m ≤ 0x0F)) ||
  (decide (0x10 ≤ m) && decide (m ≤ 0x1E) && (fld w 13 3 == 0 || fld w 13 3 == 2 || fld w 13 3 == 3))

/-- The micro-op that an entry makes, none when it is not valid (R214): the template must decode, and what it becomes too (log 27). -/
def custMicro (k : Nat) (e : Word) (f : Cust) : Option (State → Res (Option Word)) :=
  let w := e.toNat % 2 ^ 32
  let m := fld w 26 6
  let ok := custMajor m && (!e.getLsbD 35 || custR m) && (!e.getLsbD 36 || custI w m) && ((decodeScalar k w).bind microBody).isSome
  if ok then (decodeScalar k (custWord e f)).bind microBody else none

/-- The micro-ops of an instruction, or the index of the first that is not valid. -/
def custMicros (k : Nat) (f : Cust) : Nat → List Word → Except Nat (List (State → Res (Option Word)))
  | _, [] => .ok []
  | i, e :: es =>
    match custMicro k e f with
    | none => .error i
    | some b => match custMicros k f (i + 1) es with
      | .ok bs => .ok (b :: bs)
      | .error j => .error j

/-- The state that an exception in a micro-op leaves (R215): every register and memory location as before the instruction, with the errors that its storage has reported on the way. CORE_FCTL's sticky flags are among those registers, also where R228 would set them for an FPTRAP (DEDUCED, log 28). -/
def custUndo (s t : State) : State := (t.upsets.foldl List.erase s.upsets).foldl (fun u x => u.upset x.1 x.2) { s with upsets := t.upsets }

/-- A micro-op's load has found poison: the log takes it (R464). -/
def State.custPoison (s : State) (k code sub : Nat) (addr : Word) : State :=
  if code = excLoad ∧ sub % 16 = kindPoison ∧ sub / 16 % 4 = 0 then
    match (s.xlat k addr .load (!(s.core k).sup) .check false).2 with
    | .ok pa _ => s.log logPoisonConsumed k (freeUnit logPoisonConsumed) pa addr.toNat
    | _ => s
  else s

/-- Run the micro-ops in order (R215). An exception takes back what the others did; remote reads that it asked for are forgotten with it. -/
def custRun (s0 : State) (k : Nat) (pc : Word) : State → Nat → List (State → Res (Option Word)) → State
  | t, n, [] => t.retire k none n
  | t, n, b :: bs =>
    match b t with
    | .ok t' _ => custRun s0 k pc t' (n + 1) bs
    | .exc t' code sub addr => (((custUndo s0 t').custPoison k code sub addr).forgetReads k).takeException k code sub false addr pc (some n)
    | .wait => s0
    | .remote _ reqs => reqs.foldl (fun u (d, a, len) => u.sendRemote k false d a len [] none) s0

/-- An index that no micro-op gives: the opcode is not defined (log 14). -/
def freeUidx (op : Nat) : Nat := (Config.detail excIllegal op 0).toNat % 32

/-- CUSTOMER_INSTRUCTION (R211 to R215). -/
def State.customer (s : State) (k op : Nat) (f : Cust) : State :=
  if !s.canRun k then s
  else
    let c := s.core k
    let pc := c.pc
    match s.fetch k pc with
    | .later => s
    | .fault t sub => (t.forgetReads k).takeException k excIfetch sub false pc pc none
    | .ok t =>
      let s := t.strike (fun l => decide (l = .logic k))
      if s.tripped then s
      else if !(c.actReg CORE_DTAB_SEL).getLsbD (16 + op) then s.takeException k excIllegal 0 false 0 pc (some (freeUidx op))
      else
        match custMicros k f 0 (custEntries c op 32) with
        | .error i => s.takeException k excIllegal 0 false 0 pc (some i)
        | .ok bs => custRun s k pc s 0 bs

def execCustomerInstruction (k : Nat) (cust : BitVec 4) (rd ra rb : Reg) (imm7 : BitVec 7) (s : State) : Out :=
  guardUnit (decide (k < 40)) (s.customer k cust.toNat ⟨rd, ra, rb, imm7⟩)

end Sys2Proof.Machine
end

