-- ==== Sys2Proof/Machine/VatEng.lean ====
section
/-! DEFINITION. The vat engines (R303 to R320): VCMD and COMMAND_WINDOW_POST queue commands, one command per operation runs the front of a slice queue, and VAT_COMMAND_COMPLETE ends it. -/

namespace Sys2Proof.Machine

-- what a command says

/-- The formats that QLOAD and SCORE take (R308, R309). -/
def qFmt (f : Nat) : Bool := f == 1 || f == 2 || f == 4 || f == 5

/-- The word that some reserved bit is set in (R304); FTZ is a window command's alone. -/
def vcResv (bs : List Byte) : Bool := decide (fld (leAt bs 0 4) 11 21 ≠ 0) || decide (leAt bs 0x30 8 ≠ 0) || decide (leAt bs 0x38 8 ≠ 0)

def vcElems (bs : List Byte) : Nat := vcP1 bs
def vcNq (bs : List Byte) : Nat := fld (vcP0 bs) 4 4 + 1
def vcRow (bs : List Byte) : Nat := 16 * (fld (vcP0 bs) 16 5 + 1)
def vcNk (bs : List Byte) : Nat := fld (vcP0 bs) 8 8 + 1
def vcFmt (bs : List Byte) : Fmt := Fmt.ofCode (vcP0 bs)
def vcDfmt (bs : List Byte) : Fmt := Fmt.ofCode (fld (vcP0 bs) 4 4)

/-- Bytes of an element of UADD, UMAX, UMIN (R311). -/
def vcUsize (bs : List Byte) : Nat := if fld (vcP0 bs) 0 2 = 2 then 8 else 4

/-- The operation's parameters are accepted (R307 to R312). -/
def vcParams (bs : List Byte) : Bool :=
  let p := vcP0 bs
  let op := vcOp bs
  if op = 0 then true
  else if op = 1 then
    let f := fld p 0 4
    (f == 2 || f == 1 || f == 4 || f == 5 || f == 6 || f == 7 || decide (12 ≤ f)) && decide (fld p 4 4 ≤ 2) &&
      decide (1 ≤ vcElems bs) && decide (vcElems bs * ((vcDfmt bs).bits / 8) ≤ 4096)
  else if op = 2 then qFmt (fld p 0 4) && decide (vcRow bs * 8 / (vcFmt bs).bits ≤ 256) && decide (vcNq bs * vcRow bs ≤ 4096)
  else if op = 3 then qFmt (fld p 0 4) && (!bit p 18 || bit p 16 || bit p 17)
  else if op ≤ 6 then decide (fld p 0 2 ≠ 3)
  else if op ≤ 8 then
    let f := fld p 0 4
    decide (f ≤ 5) && decide (vcNk bs * vcElems bs * (vcFmt bs).bits ≤ 32768) && !(op == 7 && bit p 5)
  else false

/-- The combination of ISPACE and OSPACE is one of R306's; a window command has no felt. -/
def vcSpaces (window : Bool) (bs : List Byte) : Bool :=
  let i := vcIspace bs
  let o := vcOspace bs
  let op := vcOp bs
  let near := fun (x : Nat) => x == 1 || (x == 0 && !window)
  if op = 0 then i == 2 && o == 2
  else if op = 1 then i == 1 && o == 2
  else if op = 2 ∨ (4 ≤ op ∧ op ≤ 6) then near i && o == 2
  else i == 2 && near o

/-- VAT_CMD (R304, R306 to R312, R318). -/
def vcRefused (window : Bool) (bs : List Byte) : Bool :=
  vcResv bs || decide (8 < vcOp bs) || !vcSpaces window bs || !vcParams bs || (vcFlag bs && decide (vcFlaga bs % 8 ≠ 0))

/-- Results of SUMSQ and MEANVAR (R312). -/
def vcResults (bs : List Byte) : Nat := if bit (vcP0 bs) 4 then vcElems bs else vcNk bs

/-- The working type of SUMSQ and MEANVAR (R312). -/
def vcWork (bs : List Byte) : Nat := if fld (vcP0 bs) 0 4 = 3 then 1 else 0

/-- Bytes of KVGATHER's source before its scales, and with them (R307). -/
def kvBody (bs : List Byte) : Nat := 16 * ceilDiv (vcElems bs * (vcFmt bs).bits) 128
def kvBytes (bs : List Byte) : Nat :=
  if (vcFmt bs).scaled then kvBody bs + ceilDiv (vcElems bs) 32 else ceilDiv (vcElems bs * (vcFmt bs).bits) 8

/-- The bytes of HOME, IN and OUT (R307 to R312). SCORE's follow from the query buffer; without one, the smallest. -/
def vcSizes (bs : List Byte) (q : Option QBuf) : Nat × Nat × Nat :=
  let op := vcOp bs
  let n := vcElems bs
  if op = 1 then (n * ((vcDfmt bs).bits / 8), kvBytes bs, 0)
  else if op = 2 then (1, vcNq bs * vcRow bs, 0)
  else if op = 3 then
    match q with
    | some q =>
      (ceilDiv (vcNk bs * q.d * (vcFmt bs).bits) 8, 0,
        (if bit (vcP0 bs) 18 then 0 else q.nq * vcNk bs * 4) + (if bit (vcP0 bs) 16 || bit (vcP0 bs) 17 then 8 * q.nq else 0))
    | none => (1, 0, 1)
  else if 4 ≤ op ∧ op ≤ 6 then (n * vcUsize bs, n * vcUsize bs, 0)
  else if op = 7 then (ceilDiv (vcNk bs * n * (vcFmt bs).bits) 8, 0, vcResults bs * (4 * (vcWork bs + 1)))
  else if op = 8 then (ceilDiv (vcNk bs * n * (vcFmt bs).bits) 8, 0, vcResults bs * (16 * (vcWork bs + 1)))
  else (1, 0, 0)

/-- [a, a + n) crosses an aligned 4 KiB block. -/
def crosses (a n : Nat) : Bool := decide (n ≠ 0) && decide (a / 4096 ≠ (a + n - 1) / 4096)

/-- VAT_SPAN (R305, R318): operands and flag in turn. -/
def vcSpan (bs : List Byte) (home in_ out flag : Nat) (q : Option QBuf) : List Found :=
  let (h, i, o) := vcSizes bs q
  ((if crosses home h then [home] else []) ++ (if vcIspace bs ≠ 2 ∧ crosses in_ i = true then [in_] else []) ++
    (if vcOspace bs ≠ 2 ∧ crosses out o = true then [out] else []) ++ (if vcFlag bs && crosses flag 8 then [flag] else [])).map (fun a => (0x71, a))

/-- HOL_FELT of a VCMD's felt operands and flag (R277, R318). -/
def vcFelt (bs : List Byte) (q : Option QBuf) : List Found :=
  let (_, i, o) := vcSizes bs q
  ((if vcIspace bs = 0 then (overFelt (vcIn bs) i).toList else []) ++ (if vcOspace bs = 0 then (overFelt (vcOut bs) o).toList else []) ++
    (if vcFlag bs then (overFelt (vcFlaga bs) 8).toList else [])).map (fun a => (0x62, a))

-- VCMD

/-- Translate an operand of a VCMD, once per access it makes (R275, R305); none while a table lies in a held window (R440). The D bit waits for the command to go (R349). -/
def State.vcXlat (s : State) (k : Nat) (va : Nat) (user : Bool) : List AccKind → State × Option (Except Found Nat)
  | [] => (s, some (.ok va))
  | a :: as =>
    match s.xlat k (BitVec.ofNat 64 va) a user .read true with
    | (s, .fault sub) => (s, some (.error (holCode sub, va)))
    | (s, .later) => (s, none)
    | (s, .ok pa _) => match as with | [] => (s, some (.ok pa)) | _ => s.vcXlat k va user as

/-- How a command accesses HOME. -/
def vcHomeAcc (bs : List Byte) : List AccKind :=
  let op := vcOp bs
  if op = 1 then [.store] else if 4 ≤ op ∧ op ≤ 6 then [.load, .store] else [.load]

/-- Resolve HOME, IN and OUT of a VCMD in turn (R305). -/
def State.vcResolve (s : State) (k : Nat) (bs : List Byte) (user : Bool) : State × Option (Except Found (Nat × Nat × Nat)) :=
  match s.vcXlat k (vcHome bs) user (vcHomeAcc bs) with
  | (s, none) => (s, none)
  | (s, some (.error f)) => (s, some (.error f))
  | (s, some (.ok home)) =>
    match s.vcXlat k (vcIn bs) user (if vcIspace bs = 1 then [.load] else []) with
    | (s, none) => (s, none)
    | (s, some (.error f)) => (s, some (.error f))
    | (s, some (.ok in_)) =>
      match s.vcXlat k (vcOut bs) user (if vcOspace bs = 1 then [.store] else []) with
      | (s, none) => (s, none)
      | (s, some (.error f)) => (s, some (.error f))
      | (s, some (.ok out)) => (s, some (.ok (home, in_, out)))

/-- The D bits of the pages that a command writes, HOME's and OUT's, are set as it goes (R349). -/
def State.vcDirty (s : State) (k : Nat) (bs : List Byte) (user : Bool) : State :=
  let mark := fun (s : State) (va : Nat) => (s.xlat k (BitVec.ofNat 64 va) .store user .set true).1
  let s := if (vcHomeAcc bs).contains .store then mark s (vcHome bs) else s
  if vcOspace bs = 1 then mark s (vcOut bs) else s

/-- The slices of a cluster that a command goes to: of a QLOAD those of its mask, else the one that holds HOME (R303). -/
def State.vcSlices (s : State) (bs : List Byte) (home : Nat) : Option (Nat × List Nat) :=
  match s.target home with
  | .vat c off => some (c, if vcOp bs = 2 then (List.range 32).filter (fun i => bit (vcP1 bs) i) else [((s.vat c).place off).1])
  | _ => none

/-- A hollander's vat command ends in all its slices (R315): flag and place. -/
def State.vcEnd (s : State) (k : Nat) (h : HolEntry) : State :=
  s.updEng k (fun e =>
    let e := if vcFlag h.bytes then e.writeFelt (vcFlaga h.bytes) (flagBytes h.seq h.idx) else e
    { e with hol := e.hol.filter (fun x => !(x.seq == h.seq && x.pos == h.pos && x.idx == h.idx)) })

/-- The query buffer of a slice. -/
def State.qbuf (s : State) (c sl : Nat) : Option QBuf := Tab.get none (s.vat c).qbuf sl

/-- The shape of the query buffer that a command entering a slice queue now will find: that of the last QLOAD before it, else the buffer's (R308, R316). -/
def State.qAhead (s : State) (c sl : Nat) : Option QBuf :=
  match ((s.vat c).q sl).reverse.find? (fun m => vcOp m.bytes == 2 && !m.late && !(m.window && vcRefused true m.bytes)) with
  | some m => some ⟨fld (vcP0 m.bytes) 0 4, vcNq m.bytes, vcRow m.bytes * 8 / (vcFmt m.bytes).bits, []⟩
  | none => s.qbuf c sl

/-- The hollander finds what it can find in a command without translating it (R277, R318, R319): its offset, its bytes, its form, and its spans, of a SCORE those that no query buffer decides. -/
def Eng.vcmdChecks (e : Eng) (h : HolEntry) (bs : List Byte) : Option Found :=
  match e.feltPoison h.off 64 with
  | (_, a) :: _ => some (0x68, a)
  | [] =>
    if vcRefused false bs then some (0x70, h.off)
    else lowest (vcFelt bs none ++ vcSpan bs (vcHome bs) (vcIn bs) (vcOut bs) (vcFlaga bs) none)

/-- The cycle in which a hollander's command came to its queues: the one that it has waited from, or this one. -/
def State.cameAt (s : State) (h : HolEntry) (c : Nat) (sls : List Nat) : Nat :=
  match h.want with
  | some w => if w.1 = c ∧ w.2.1 = sls then w.2.2 else s.cycle
  | none => s.cycle

/-- The hollander of core slot `k` must wait with a command that came to slices of a cluster in cycle `t`: the cluster is held, a queue is full, or another hollander or a store that came earlier goes first (R12, R14, R303, R322). -/
def State.vcmdWaits (s : State) (k c : Nat) (sls : List Nat) (t : Nat) : Bool :=
  s.held c || !(s.vat c).takes sls || sls.any (fun sl => s.hollanderFirst c sl k t || s.waiters.any (Waiter.atSliceBefore c sl t))

/-- The command that the hollander posts, with its felt input (R303, R305, R313). -/
def State.vcmdOf (s : State) (k : Nat) (h : HolEntry) (bs : List Byte) (home in_ out : Nat) : VCmd :=
  let nm := (s.core k).nmode h.seq
  { agent := k, core := some (k, h.seq, h.pos, h.idx), window := false, ftz := bit nm 0, nmode := nm, bytes := bs, home := home,
    inAddr := in_, outAddr := out, flagAddr := vcFlaga bs, inData := if vcIspace bs = 0 then (s.eng k).felt.readN in_ (vcSizes bs none).2.1 else [] }

/-- A command enters all its slice queues, or waits (R303). A SCORE's spans follow from the query buffer that it will find (R309, R310, R318); a felt input is read as the command goes (R254, R321). -/
def State.vcmdSend (s : State) (k : Nat) (h : HolEntry) (bs : List Byte) (home in_ out c : Nat) (sls : List Nat) : State :=
  let at_ := s.cameAt h c sls
  if s.vcmdWaits k c sls at_ then s.updEng k (fun e => e.updHol h (fun x => { x with want := some (c, sls, at_) }))
  else
    let q := if vcOp bs = 3 then s.qAhead c (sls.headD 0) else none
    let n := (vcSizes bs none).2.1
    let s := if vcIspace bs = 0 then s.strikeFelt k [(in_, n)] else s
    match lowest (vcFelt bs q ++ vcSpan bs (vcHome bs) (vcIn bs) (vcOut bs) (vcFlaga bs) q), (if vcIspace bs = 0 then (s.eng k).feltPoison in_ n else []) with
    | some f, _ => s.holFail k h.seq h.pos h.idx f.1 f.2
    | none, (_, a) :: _ => s.holFail k h.seq h.pos h.idx 0x68 a
    | none, [] =>
      let m := s.vcmdOf k h bs home in_ out
      let s := s.vcDirty k bs h.user
      let s := s.updEng k (fun e => e.updHol h (fun x => { x with phase := .issued, bytes := bs, outstanding := sls.length, want := none }))
      let s := sls.foldl (fun s sl => s.vatPut c sl m) s
      if sls.isEmpty then s.vcEnd k { h with bytes := bs } else s

/-- The command's FENCE is met: no earlier descriptor or command of the hollander is left (R304). -/
def Eng.fenceMet (e : Eng) (h : HolEntry) (bs : List Byte) : Bool :=
  !vcFence bs || decide (e.hol.head?.map (fun x => (x.seq, x.pos, x.idx)) = some (h.seq, h.pos, h.idx))

/-- VCMD (R303 to R306, R318, R319, R322): the hollander reads its next command, checks and translates it, and posts it to its slice queues once they have room, its FENCE is met and its cluster is not held. -/
def State.vcmdPost (s : State) (k : Nat) : State :=
  let e := s.eng k
  match e.hol.find? (fun h => decide (h.phase = .unread)) with
  | none => s
  | some h =>
    let fail := fun (t : State) (f : Found) => t.holFail k h.seq h.pos h.idx f.1 f.2
    if h.vcmd = false ∨ e.syncWaits h.seq = true then s
    else if h.off % 64 ≠ 0 then fail s (0x70, h.off)
    else if feltSize < h.off + 64 then fail s (0x62, Nat.max h.off feltSize)
    else if e.feltWaits h.seq h.pos h.idx [(h.off, h.off + 64, false)] then s
    else
      let bs := e.felt.readN h.off 64
      let t := s.strikeFelt k [(h.off, 64)]
      match (t.eng k).vcmdChecks h bs with
      | some f => fail t f
      | none =>
        if e.feltWaits h.seq h.pos h.idx (vcFeltSpans bs) || !e.fenceMet h bs then t
        else
          match t.vcResolve k bs h.user with
          | (_, none) => t
          | (t, some (.error f)) => fail t f
          | (t, some (.ok (home, in_, out))) =>
            match t.vcSlices bs home with
            | none => fail t (0x72, home)
            | some (c, sls) => t.vcmdSend k h bs home in_ out c sls

def execVcmd (k : Nat) (s : State) : Out := guardUnit (isSlot k) (s.vcmdPost k)

/-- A store of 8 bytes to a window slot's offset 0x38 arrives. The host's to a held window is dropped and logged (R416, R440). -/
def State.commandWindowPost (s : State) (ag c sl slot : Nat) (data : Word) : State :=
  if ag = 41 ∧ s.held c = true then s.log logHostAccess 41 (freeUnit logHostAccess) (ctlPa (windowOff c sl slot 7)) (8 + 0x100)
  else s.windowPost ag c sl slot data

def execCommandWindowPost (ag c sl slot : Nat) (data : Word) (s : State) : Out :=
  guardUnit (decide (ag < 42) && decide (c < 4) && decide (sl < 32) && decide (slot < 64)) (s.commandWindowPost ag c sl slot data)

-- checks at the slice

/-- A run of bytes in the addressable range of an enabled vat (R305). -/
def State.vatBytes (s : State) (a n : Nat) : Bool :=
  match s.target a with
  | .vat c off => (s.vat c).reaches off && (s.vat c).reaches (off + (n - 1))
  | _ => false

/-- HOME of a window command lies in slice `sl` of the window's cluster (R303). -/
def State.homeHere (s : State) (c sl a : Nat) : Bool :=
  match s.target a with
  | .vat d off => d == c && ((s.vat d).place off).1 == sl
  | _ => false

/-- A run of bytes in stack memory. -/
def State.stackBytes (s : State) (a n : Nat) : Bool := decide (s.target a = .stack) && decide (s.target (a + (n - 1)) = .stack)

/-- VAT_HOME (R292, R318): the operands that are not where R305 asks; HOME of a command that reached a closing vat. -/
def State.vcHomes (s : State) (c sl : Nat) (m : VCmd) (q : Option QBuf) : List Found :=
  let bs := m.bytes
  let (h, i, o) := vcSizes bs q
  let op := vcOp bs
  ((if m.late = true ∨ s.vatBytes m.home h = false ∨ (m.window = true ∧ s.homeHere c sl m.home = false) then [m.home] else []) ++
    (if vcIspace bs = 1 then
      let ok := if op = 1 then s.stackBytes m.inAddr i else if op = 2 then s.vatBytes m.inAddr i else s.vatBytes m.inAddr i || s.stackBytes m.inAddr i
      if ok then [] else [m.inAddr]
     else []) ++
    (if vcOspace bs = 1 ∧ s.vatBytes m.outAddr o = false then [m.outAddr] else []) ++
    (if m.window && vcFlag bs && !s.vatBytes m.flagAddr 8 then [m.flagAddr] else [])).map (fun a => (0x72, a))

/-- VAT_POISON (R318): the first bad byte of a run that the vat of cluster `c` reads. -/
def State.vcPoison (s : State) (c a n : Nat) : List Found := match (s.seenBy false (9 * c)).firstBad a 0 n with | some i => [(0x74, a + i)] | none => []

/-- The faults that the slice finds before it reads an operand (R318), and of a window command those that the hollander would. -/
def State.vcChecks (s : State) (c sl : Nat) (m : VCmd) : List Found :=
  let bs := m.bytes
  let op := vcOp bs
  let q := if op = 3 then s.qbuf c sl else none
  if m.window && vcRefused true m.bytes then [(0x70, (Config.detail 0x70 (leAt bs 4 4) 0).toNat)]
  else
    vcSpan bs m.home (if vcIspace bs = 0 then 0 else m.inAddr) m.outAddr m.flagAddr q ++ s.vcHomes c sl m q ++
    (if op = 3 ∧ q.isNone = true then [(0x73, m.home)] else [])

/-- The operand bytes that a command reads from the vats and the stacks, as (address, length) (R306). -/
def State.vcReads (s : State) (c sl : Nat) (m : VCmd) : List (Nat × Nat) :=
  let op := vcOp m.bytes
  let (h, i, _) := vcSizes m.bytes (if op = 3 then s.qbuf c sl else none)
  (if 3 ≤ op then [(m.home, h)] else []) ++ (if vcIspace m.bytes = 1 then [(m.inAddr, i)] else [])

/-- A command reads its operands: errors that their storage reports take effect first (R301, R333). -/
def State.vcStrike (s : State) (c sl : Nat) (m : VCmd) : State := (s.vcReads c sl m).foldl (fun s (a, n) => s.strikeMem false m.agent a n) s

/-- An access of a vat engine of cluster `c` to an address in another cluster's window waits while that cluster is held, whoever sent the command (R322, R440). -/
def State.vcHeld (s : State) (c a : Nat) : Bool :=
  match s.target a with
  | .vat d _ => d != c && s.held d
  | _ => false

-- what the operations compute

/-- The bytes of IN. -/
def State.vcInput (s : State) (c : Nat) (m : VCmd) (n : Nat) : List Byte := if vcIspace m.bytes = 0 then m.inData else (s.seenBy false (9 * c)).physRead m.inAddr n

/-- A result of an operation: bytes for HOME, bytes for OUT, a query buffer, flags. -/
structure VOut where
  home : List Byte := []
  out : List (Nat × List Byte) := []
  q : Option QBuf := none
  flags : Flags := {}

/-- Element `i` of packed bytes. -/
def byteElem (bs : List Byte) (w i : Nat) : Nat := if w = 4 then fld (leAt bs (i / 2) 1) (4 * (i % 2)) 4 else leAt bs (i * (w / 8)) (w / 8)

/-- KVGATHER (R307). DEDUCED (log 98): the rule names no type between decoding and DFMT, so the exact value of an element is converted, and one beyond FP32's range saturates in N16. -/
def kvGather (m : VCmd) (src : List Byte) : VOut :=
  let bs := m.bytes
  let f := vcFmt bs
  let g := vcDfmt bs
  let one := fun (i : Nat) =>
    let (v, fl) := elemValue m.ftz f (if f.scaled then some (leAt src (kvBody bs + i / 32) 1) else none) (byteElem src f.bits i)
    let c := convF g .nearest m.ftz v
    (leBytes (g.bits / 8) c.bits, fl.or c.flags)
  let rs := (List.range (vcElems bs)).map one
  { home := rs.flatMap Prod.fst, flags := rs.foldl (fun a r => a.or r.2) {} }

/-- QLOAD (R308). -/
def qLoad (m : VCmd) (src : List Byte) : VOut :=
  let bs := m.bytes
  { q := some ⟨fld (vcP0 bs) 0 4, vcNq bs, vcRow bs * 8 / (vcFmt bs).bits, src⟩ }

/-- One rounding of a score (R309, R313): a flushed one sets FLUSHED and UNF only (R49, R94). -/
def fl94 (ftz : Bool) (r : FV × Flags) : FV × Flags :=
  let c := convF .fp32 .nearest ftz r.1
  (if c.nan then FV.dnan else decodeF Fmt.fp32.info c.bits, r.2.or { c.flags with inx := c.flags.inx && !c.flags.flushed })

/-- The score of query row `qi` against key `ki` (R309). -/
def scoreOf (m : VCmd) (q : QBuf) (keys : List Byte) (qi ki : Nat) : FV × Flags :=
  let kf := vcFmt m.bytes
  let qf := Fmt.ofCode q.fmt
  let chunk := fun (h : Nat) =>
    let ix := (List.range 128).map (fun j => 128 * h + j) |>.filter (fun j => decide (j < q.d))
    let a := ix.map (fun j => readElem m.ftz qf (byteElem q.bytes qf.bits (qi * q.d + j)))
    let b := ix.map (fun j => readElem m.ftz kf (byteElem keys kf.bits (ki * q.d + j)))
    let fl := (a ++ b).foldl (fun g p => g.or p.2) ({} : Flags)
    let (t, ft) := passResult .fp32 m.ftz (a.map Prod.fst) (b.map Prod.fst)
    (t, fl.or ft)
  let (t0, f0) := chunk 0
  let (dot, f1) := if q.d ≤ 128 then (t0, f0) else
    let (t1, g) := chunk 1
    fl94 m.ftz (let r := addFV .nearest t0 t1; (r.1, (f0.or g).or r.2))
  let (scale, f2) := readElem m.ftz .fp32 (vcP1 m.bytes)
  fl94 m.ftz (let r := mulFV scale dot; (r.1, (f1.or f2).or r.2))

/-- SCORE (R309, R310). -/
def score (m : VCmd) (q : QBuf) (keys : List Byte) : VOut :=
  let p := vcP0 m.bytes
  let nk := vcNk m.bytes
  let rows := (List.range q.nq).map (fun qi => (List.range nk).map (fun ki => scoreOf m q keys qi ki))
  let enc := fun (v : FV) => leBytes 4 (bitsOf .fp32 v)
  let tops := rows.map (fun r => reduceVals 0 m.ftz 1 (r.map Prod.fst))
  let sums := rows.map (fun r => reduceVals 0 m.ftz 0 (r.map Prod.fst))
  let base := if bit p 18 then 0 else q.nq * nk * 4
  let recs := fun (off : Nat) (l : List (FV × Flags × Bool)) => (l.zip (List.range l.length)).map (fun (v, i) => (base + 8 * i + off, enc v.1))
  let fl := (rows.flatMap (fun r => r.map Prod.snd)) ++ (if bit p 16 then tops.map (fun t => t.2.1) else []) ++ (if bit p 17 then sums.map (fun t => t.2.1) else [])
  { out := (if bit p 18 then [] else [(0, rows.flatMap (fun r => r.flatMap (fun v => enc v.1)))]) ++ (if bit p 16 then recs 0 tops else []) ++ (if bit p 17 then recs 4 sums else []),
    flags := fl.foldl Flags.or {} }

/-- UADD, UMAX, UMIN of one element (R311): `op` 0 add, 1 maximum, 2 minimum. -/
def vatElem (op : Nat) (m : VCmd) (a b : Nat) : Nat × Flags :=
  let p := vcP0 m.bytes
  let t := fld p 0 2
  if t = 1 then
    let x := sext 32 a
    let y := sext 32 b
    let c := narrowI .i32 (decide (2 ≤ fld p 2 2)) (if op = 0 then x + y else if op = 1 then Max.max x y else Min.min x y)
    (c.bits, c.flags)
  else
    let f := if t = 2 then Fmt.fp64 else .fp32
    let (x, fx) := readElem m.ftz f a
    let (y, fy) := readElem m.ftz f b
    let (v, g) := if op = 0 then addFV .nearest x y else minmaxFV (op == 1) x y
    let c := convF f .nearest m.ftz v
    (c.bits, ((fx.or fy).or g).or c.flags)

/-- UADD, UMAX, UMIN (R311). -/
def vatUpdate (op : Nat) (m : VCmd) (home src : List Byte) : VOut :=
  let n := vcUsize m.bytes
  let rs := (List.range (vcElems m.bytes)).map (fun i => vatElem op m (leAt home (n * i) n) (leAt src (n * i) n))
  { home := rs.flatMap (fun r => leBytes n r.1), flags := rs.foldl (fun a r => a.or r.2) {} }

/-- The values of HOME by result (R312), a signalling NaN of another format quieted, with the flags of reading them. -/
def vatGroups (m : VCmd) (home : List Byte) : List (List FV) × Flags :=
  let bs := m.bytes
  let f := vcFmt bs
  let get := fun (r c : Nat) =>
    let (v, g) := readElem m.ftz f (byteElem home f.bits (r * vcElems bs + c))
    if v.isSig && decide (f ≠ wFmt (vcWork bs)) then (v.quiet, g.or { inv := true }) else (v, g)
  let rows := List.range (vcNk bs)
  let cols := List.range (vcElems bs)
  let gs := if bit (vcP0 bs) 4 then cols.map (fun c => rows.map (fun r => get r c)) else rows.map (fun r => cols.map (fun c => get r c))
  (gs.map (fun l => l.map Prod.fst), (gs.flatMap (fun l => l.map Prod.snd)).foldl Flags.or {})

/-- SUMSQ (R312). -/
def sumSq (m : VCmd) (home : List Byte) : VOut :=
  let w := vcWork m.bytes
  let (gs, fl) := vatGroups m home
  let rs := gs.map (reduceVals w m.ftz 3)
  { out := [(0, rs.flatMap (fun r => leBytes (4 * (w + 1)) (encW w r.1)))], flags := rs.foldl (fun a r => a.or r.2.1) fl }

/-- MEANVAR (R312, R167). -/
def meanVars (m : VCmd) (home : List Byte) : VOut :=
  let w := vcWork m.bytes
  let b := 4 * (w + 1)
  let (gs, fl) := vatGroups m home
  let rs := gs.map (meanVar w m.ftz (bit (vcP0 m.bytes) 5))
  { out := [(0, rs.flatMap (fun (n, mu, m2, v, _) => leBytes b n ++ leBytes b (encW w mu) ++ leBytes b (encW w m2) ++ leBytes b (encW w v)))],
    flags := rs.foldl (fun a (_, _, _, _, g) => a.or g) fl }

/-- What the operation computes, from operands read before any byte is written (R314). -/
def State.vcCompute (s : State) (c sl : Nat) (m : VCmd) : VOut :=
  let op := vcOp m.bytes
  let q := if op = 3 then s.qbuf c sl else none
  let (h, i, _) := vcSizes m.bytes q
  let home := s.physRead m.home h
  if op = 1 then kvGather m (s.vcInput c m i)
  else if op = 2 then qLoad m (s.vcInput c m i)
  else if op = 3 then score m (q.getD ⟨0, 0, 0, []⟩) home
  else if op = 4 then vatUpdate 0 m home (s.vcInput c m i)
  else if op = 5 then vatUpdate 1 m home (s.vcInput c m i)
  else if op = 6 then vatUpdate 2 m home (s.vcInput c m i)
  else if op = 7 then sumSq m home
  else if op = 8 then meanVars m home
  else {}

-- running the front of a slice queue

/-- A window command's fault (R320): VAT_CERR0 and VAT_CERR1, and the log. -/
def State.vatCerr (s : State) (c sl : Nat) (m : VCmd) (f : Found) : State :=
  let v := s.vat c
  let r := v.reg VAT_CERR0
  let v := if r.getLsbD 63 then v.setReg VAT_CERR0 (wset r 48 8 (Nat.min (wfld r 48 8 + 1) 255))
    else (v.setReg VAT_CERR0 (BitVec.ofNat 64 (2 ^ 63 + sl * 2 ^ 40 + f.1 * 2 ^ 32 + leAt m.bytes 4 4))).setReg VAT_CERR1 (BitVec.ofNat 64 f.2)
  (s.setVat c v).log logVatWindowCmd m.agent (c * 32 + sl) (if f.1 = 0x70 then freeAddr logVatWindowCmd else f.2) f.1

/-- A command's fault at its slice (R318 to R320): it is dropped; a VCMD's entry goes. -/
def State.vcFail (s : State) (c sl : Nat) (m : VCmd) (f : Found) : State :=
  match m.core with
  | some (k, q, p, i) =>
    (s.engFault k ⟨q, p, i, unitH, f.1, 0, f.2⟩).updEng k (fun e => { e with hol := e.hol.filter (fun x => !(x.seq == q && x.pos == p && x.idx == i)) })
  | none => s.vatCerr c sl m f

/-- Write a command's OUT bytes to the issuing core's felt or to a vat. -/
def State.vcWrite (s : State) (m : VCmd) (off : Nat) (bs : List Byte) : State :=
  match m.core with
  | some (k, _, _, _) => if vcOspace m.bytes = 0 then s.updEng k (fun e => e.writeFelt (m.outAddr + off) bs) else s.physWrite m.agent (m.outAddr + off) bs
  | none => s.physWrite m.agent (m.outAddr + off) bs

/-- The front command of slice `sl` runs when its operation is `op` (R303, R314, R316); a refused window command is discarded by whichever operation comes (R320). Its writes are made; its completion follows. -/
def State.vatRun (s : State) (c sl op : Nat) : State :=
  let v := s.vat c
  match v.q sl with
  | [] => s
  | m :: rest =>
    let refused := m.window && vcRefused true m.bytes
    if s.tripped = true ∨ (vcOp m.bytes ≠ op ∧ refused = false) ∨ (refused = false ∧
        ((vcIspace m.bytes = 1 ∧ s.vcHeld c m.inAddr = true) ∨ (vcOspace m.bytes = 1 ∧ s.vcHeld c m.outAddr = true))) then s
    else
      let s := s.setVat c { v with queue := Tab.set [] v.queue sl rest }
      let first := lowest (s.vcChecks c sl m)
      let s := if first.isNone then s.vcStrike c sl m else s
      match first.or (lowest ((s.vcReads c sl m).flatMap (fun (a, n) => s.vcPoison c a n))) with
      | some f => (s.vcFail c sl m f).vatDrain c
      | none =>
        let r := s.vcCompute c sl m
        let s := if r.home.isEmpty then s else s.physWrite m.agent m.home r.home
        let s := r.out.foldl (fun s (o, bs) => s.vcWrite m o bs) s
        let s := match r.q with | some q => s.setVat c { s.vat c with qbuf := Tab.set none (s.vat c).qbuf sl (some q) } | none => s
        s.setVat c { s.vat c with done := Tab.set [] (s.vat c).done sl (Tab.get [] (s.vat c).done sl ++ [⟨m, r.flags.nstat⟩]) }

/-- A slice of a cluster. -/
def vatGuard (c sl : Nat) (s : State) : Out := guardUnit (decide (c < 4) && decide (sl < 32)) s

def execVnop (c sl : Nat) (s : State) : Out := vatGuard c sl (s.vatRun c sl 0)
def execKvgather (c sl : Nat) (s : State) : Out := vatGuard c sl (s.vatRun c sl 1)
def execQload (c sl : Nat) (s : State) : Out := vatGuard c sl (s.vatRun c sl 2)
def execScore (c sl : Nat) (s : State) : Out := vatGuard c sl (s.vatRun c sl 3)
def execVatUadd (c sl : Nat) (s : State) : Out := vatGuard c sl (s.vatRun c sl 4)
def execVatUmax (c sl : Nat) (s : State) : Out := vatGuard c sl (s.vatRun c sl 5)
def execVatUmin (c sl : Nat) (s : State) : Out := vatGuard c sl (s.vatRun c sl 6)
def execSumsq (c sl : Nat) (s : State) : Out := vatGuard c sl (s.vatRun c sl 7)
def execMeanvar (c sl : Nat) (s : State) : Out := vatGuard c sl (s.vatRun c sl 8)

/-- A VCMD command completes in one slice (R313, R315): flags, and with its last slice its flag and its place; then its numeric fault. -/
def State.vcmdDone (s : State) (m : VCmd) (flags : Nat) (k q p i : Nat) : State :=
  let s := s.setNstat k flags
  let s := match (s.eng k).hol.find? (fun x => x.seq == q && x.pos == p && x.idx == i) with
    | some h => if h.outstanding ≤ 1 then s.vcEnd k h else s.updEng k (fun e => e.acked q p i)
    | none => s
  s.numFault k q p i unitH m.nmode flags

/-- VAT_COMMAND_COMPLETE (R313, R315): the oldest command that has run in the slice completes; a window command writes its flag and VAT_ESTAT. -/
def State.vatComplete (s : State) (c sl : Nat) : State :=
  let v := s.vat c
  match Tab.get [] v.done sl with
  | [] => s
  | x :: rest =>
    if s.tripped || (x.cmd.core.isNone && vcFlag x.cmd.bytes && s.vcHeld c x.cmd.flagAddr) then s
    else
      let s := s.setVat c { v with done := Tab.set [] v.done sl rest }
      let m := x.cmd
      let s := match m.core with
        | some (k, q, p, i) => s.vcmdDone m x.flags k q p i
        | none =>
          let s := if vcFlag m.bytes then s.physWrite m.agent m.flagAddr (leBytes 8 (2 ^ 63 + leAt m.bytes 4 4)) else s
          let v := s.vat c
          s.setVat c (v.setReg VAT_ESTAT (v.reg VAT_ESTAT ||| BitVec.ofNat 64 (estatOf x.flags)))
      s.vatDrain c

def execVatCommandComplete (c sl : Nat) (s : State) : Out := vatGuard c sl (s.vatComplete c sl)

end Sys2Proof.Machine
end

