-- ==== Sys2Proof/Machine/Sync.lean ====
section
/-! DEFINITION. The sync unit (R199, R200): ENOP, EBAR and EWR, and ESAVE and ERESTORE with their save area (R74 to R79, R121, R480). -/

namespace Sys2Proof.Machine

/-- The first slot of the Y queue, when it has this operation. -/
def State.yFront (s : State) (k op : Nat) : Option EngOp :=
  match (s.eng k).yq with
  | o :: _ => if yOp o.word = op then some o else none
  | [] => none

/-- The first slot of the Y queue ends. -/
def State.yDone (s : State) (k : Nat) : State := s.updEng k (fun e => { e with yq := e.yq.drop 1, saving := none })

/-- ENOP. -/
def State.enop (s : State) (k : Nat) : State := if (s.yFront k yEnop).isSome then s.yDone k else s

/-- EBAR in the Y unit, which it occupies for a cycle; its wait was before its sheet retired (R199, R239). -/
def State.ebar (s : State) (k : Nat) : State := if (s.yFront k yEbar).isSome then s.yDone k else s

/-- EWR (R200, R243): the write takes effect for the fourth sheet after. -/
def State.ewrGo (s : State) (k : Nat) : State :=
  match s.yFront k yEwr with
  | none => s
  | some o => (s.yDone k).updCore k (fun c => c.pushEwr (o.seq + 4) (yRsel o.word) (o.gv.headD 0))

def execEnop (k : Nat) (s : State) : Out := guardUnit (isSlot k) (s.enop k)
def execEbar (k : Nat) (s : State) : Out := guardUnit (isSlot k) (s.ebar k)
def execEwr (k : Nat) (s : State) : Out := guardUnit (isSlot k) (s.ewrGo k)

-- the save area (R77)

def ctxMagic : Nat := 0x1D080C01

/-- Offsets of the pages of one part: base and number. -/
def pagesFrom (base n : Nat) : List Nat := (List.range n).map (fun i => base + 4096 * i)

/-- The pages of the selected parts, the header's left out: [0] tiles, [1] B operands, [2] reams. -/
def partPages (parts : Nat) : List Nat :=
  (if bit parts 0 then pagesFrom 0x1000 128 else []) ++ (if bit parts 1 then pagesFrom 0x81000 256 else []) ++
  (if bit parts 2 then pagesFrom 0x181000 512 else [])

/-- A couch token as the save area holds it. -/
def tokenWord (t : Token) : Nat := t.ream % 4 + t.block % 4 * 4 + t.n1 % 512 * 16

def tokenOf (w : Nat) : Token := ⟨fld w 0 2, fld w 2 2, fld w 4 9⟩

/-- The header's first 88 bytes (R77, R121). `q`: the sheet before the ESAVE's effects, whose pending EWRs count; `stopped`: ENG_SROW as the stop left it. -/
def Core.ctxHeader (c : Core) (parts q : Nat) (stopped : Bool) : List Byte :=
  let e := c.eng
  let buf := fun (b : BBuf) => b2n b.loaded * 2 ^ 31 + b.deckle % 2 ^ 24
  let srow := if stopped then c.reg ENG_SROW else c.modeReg rselSrow q
  let run := fun (r : Nat) => Tab.get 0 e.runs r % 64
  leBytes 4 ctxMagic ++ leBytes 4 parts ++ leBytes 4 (c.modeReg rselNmode q).toNat ++ leBytes 4 (c.reg ENG_NSTAT).toNat ++
  leBytes 8 (c.modeReg rselRng q).toNat ++ leBytes 8 srow.toNat ++ leBytes 4 (buf e.b0) ++ leBytes 4 (buf e.b1) ++
  leBytes 4 (b2n e.bActive + 2 * b2n e.bWait) ++
  leBytes 4 (e.couch.length % 16 + run 0 * 2 ^ 4 + run 1 * 2 ^ 10 + run 2 * 2 ^ 16 + run 3 * 2 ^ 22) ++
  (List.range 8).flatMap (fun i => leBytes 4 (match e.couch[i]? with | some t => tokenWord t | none => 0)) ++
  (List.range 4).flatMap (fun r => leBytes 2 (Tab.get 511 e.latestN r % 512))

/-- The ream element that stands at offset `o` of the ream area: ream, plane, row, column. -/
def reamAt (o : Nat) : Nat × Bool × Nat × Nat := (o / 0x80000, decide (0x40000 ≤ o % 0x80000), o % 0x40000 / 2048, o % 2048 / 4)

/-- The bytes of a page of the save area. -/
def Core.ctxPage (c : Core) (parts q : Nat) (stopped : Bool) (off : Nat) : List Byte :=
  let e := c.eng
  if off = 0 then c.ctxHeader parts q stopped ++ List.replicate (4096 - 88) 0
  else if off < 0x81000 then e.tiles.readN (off - 0x1000) 4096
  else if off < 0x101000 then e.b0.bytes.readN (off - 0x81000) 4096
  else if off < 0x181000 then e.b1.bytes.readN (off - 0x101000) 4096
  else (List.range 1024).flatMap (fun j =>
    let (r, plane, row, col) := reamAt (off - 0x181000 + 4 * j)
    leBytes 4 (Tab.get 0 (if plane then e.reamC else e.reamW) (reamKey r row col)).toNat)

/-- Translate pages of the save area in ascending order (R480): offset and physical address of each, or the fault; none while a table lies in a held window (R440). -/
def State.ctxXlat (s : State) (k base : Nat) (user : Bool) (kind : AccKind) (mode : XMode) : List Nat → State × Option (Except Found (List (Nat × Nat)))
  | [] => (s, some (.ok []))
  | o :: os =>
    match s.xlat k (BitVec.ofNat 64 (base + o)) kind user mode true with
    | (s, .fault sub) => (s, some (.error (holCode sub, base + o)))
    | (s, .later) => (s, none)
    | (s, .ok pa _) =>
      match s.ctxXlat k base user kind mode os with
      | (s, some (.ok l)) => (s, some (.ok ((o, pa) :: l)))
      | r => r

/-- The pages of the save area, all translated before the D bit of one that is to be written is set (R349, R480). -/
def State.ctxPages (s : State) (k base : Nat) (user : Bool) (kind : AccKind) (pages : List Nat) : State × Option (Except Found (List (Nat × Nat))) :=
  match s.ctxXlat k base user kind .read pages with
  | (s, some (.ok _)) => s.ctxXlat k base user kind .set pages
  | r => r

/-- Write a page of the save area; on another device in 256-byte writes of the operation `o`. -/
def State.ctxWrite (s : State) (k : Nat) (o : EngOp) (pa : Nat) (bs : List Byte) : State :=
  match s.target pa with
  | .ctl off => s.ctlWriteN k off bs
  | .remote => (List.range 16).foldl (fun s i =>
      let (d, a) := s.aperture (pa + 256 * i)
      s.sendRemote k true d a 256 ((bs.drop (256 * i)).take 256) (some (o.seq, o.pos, 0))) s
  | _ => (s.logHole k 1 pa 4096).physWrite k pa bs

-- ESAVE

/-- The operations before an ESAVE or ERESTORE have finished (R76, R78), the M queue left out. -/
def Eng.othersDone (e : Eng) (o : EngOp) : Bool :=
  !e.lq.any (fun x => posBefore x.seq x.pos o.seq o.pos) && !e.cq.any (fun x => posBefore x.seq x.pos o.seq o.pos) &&
  !e.calDone.any (fun x => posBefore x.seq x.pos o.seq o.pos) && !e.hol.any (fun x => posBefore x.seq x.pos o.seq o.pos)

/-- The M operations before it. -/
def Eng.earlierM (e : Eng) (o : EngOp) : List EngOp := e.mq.filter (fun x => posBefore x.seq x.pos o.seq o.pos)

/-- A calender operation that waits or runs drains a ream (R76). -/
def Eng.drains (e : Eng) (ream : Nat) : Bool :=
  e.cq.any (fun o => let d := calDescOf o.desc; d.s0.kind == 3 && d.s0.ream == ream) || e.calDone.any (fun d => d.drain == some ream)

/-- The MMA that an ESAVE may stop at a row (R76): it has started or can start, has not entered its last row, is the last M operation before the ESAVE, and no calender operation drains its ream. A chain block is consumed whole. -/
def State.stoppable (s : State) (k : Nat) (o : EngOp) (row : Nat) : Option EngOp :=
  let e := s.eng k
  match s.mmaReady k, (e.earlierM o).getLast? with
  | some a, some m =>
    let rows := (deckleOf (slotDeck m.word)).rows
    let first := match e.mrun with | some r => r.row | none => 0
    if a = m ∧ slotOp m.word = 1 ∧ e.drains (mReam m.word) = false ∧ first ≤ row ∧ row < rows ∧ (mChin m.word = true → row % 32 = 0) then some m else none
  | _, _ => none

/-- Stop the MMA at a row (R74, R127): none when it cannot get there yet. Of the writes to ENG_SROW those in force for the ESAVE's sheet `q` have come before the stop's. -/
def State.stopMma (s : State) (k : Nat) (m : EngOp) (row q : Nat) : Option State :=
  if s.tripped then none
  else
    let s := s.mmaGo k m row
    match (s.eng k).mrun with
    | some r =>
      if r.row = row then
        let s := s.updCore k (fun c => (c.settle rselSrow q).setReg ENG_SROW (BitVec.ofNat 64 (m.seq % 2 ^ 48 * 2 ^ 16 + 0x8000 + row)))
        some (s.mmaReport k m r)
      else none
    | none => none

/-- The read errors that an ESAVE finds in the parts that it saves (R463). -/
def Eng.savePoison (e : Eng) (parts : Nat) : List Found :=
  (if bit parts 0 then e.tilePoison 0 524288 else []) ++
  (if bit parts 1 then (match badUnit e.bBad 0 (2 * 524288) with | some u => [(0x6A, 0x80000000 + u % 0x80000)] | none => []) else []) ++
  (if bit parts 2 then (match badUnit e.reamBad 0 (4 * 0x100000) with | some u => [(0x6B, u)] | none => []) else [])

/-- The storage that a save of the parts reads (R463). -/
def saveReads (k parts : Nat) : Loc → Bool :=
  ownReads k [] (if bit parts 0 then [(0, 524288)] else []) (if bit parts 1 then [(0, 2 * 524288)] else []) (if bit parts 2 then [(0, 4 * 0x100000)] else [])

/-- The first row boundary from `row` on at which an MMA may stop: with CHIN a block's (R109). -/
def stopFrom (m : EngOp) (row : Nat) : Nat := if mChin m.word then ceilDiv row 32 * 32 else row

/-- The row at which an ESAVE stops an MMA: the one that its command names, else of a running MMA the first at which it may stop from where it waits; none where that is its end. -/
def State.stopAt (s : State) (k : Nat) (o : EngOp) (stopRow : Option Nat) : Option Nat :=
  stopRow.or ((s.eng k).mrun.bind (fun r => ((s.eng k).earlierM o).getLast?.bind (fun m =>
    if (s.stoppable k o (stopFrom m r.row)).isSome && !s.tripped then some (stopFrom m r.row) else none)))

/-- An ESAVE begins (R76, R480): it translates the save area, and stops the MMA that it may stop, once that can get to its stop. -/
def State.esaveBegin (s : State) (k : Nat) (o : EngOp) (stopRow : Option Nat) : State :=
  match s.ctxPages k (o.gv.headD 0).toNat o.user .store (0 :: partPages (yParts o.word)) with
  | (_, none) => s
  | (t, some (.error (c, va))) => (t.yDone k).engFault k ⟨o.seq, o.pos, 0, unitY, c, 0, va⟩
  | (t, some (.ok pages)) =>
    match t.stopAt k o stopRow with
    | none => t.updEng k (fun e => { e with saving := some ⟨false, pages, false⟩ })
    | some row =>
      match (t.stoppable k o row).bind (fun m => t.stopMma k m row o.seq) with
      | some t => t.updEng k (fun e => { e with saving := some ⟨true, pages, false⟩ })
      | none => s

/-- Remote requests of a sync operation are left. -/
def State.yWaits (s : State) (k : Nat) (o : EngOp) : Bool := s.dln.reqs.any (fun r => r.core == k && decide (r.desc = some (o.seq, o.pos, 0)))

/-- An ESAVE that has begun goes on: once every earlier operation has finished it writes the area, and it ends when all of it has been written, on another device when that has acknowledged it (R376). -/
def State.esaveGo (s : State) (k : Nat) (o : EngOp) (v : Saving) : State :=
  let e := s.eng k
  let parts := yParts o.word
  let s :=
    if v.written || !e.othersDone o || !(e.earlierM o).isEmpty || v.pages.any (fun p => s.waitsFor k (s.target p.2)) then s
    else
      let s := s.strike (saveReads k parts)
      let c := s.core k
      (v.pages.foldl (fun s (off, pa) => s.ctxWrite k o pa (c.ctxPage parts (o.seq + 3) v.stopped off)) s).updEng k
        (fun e => { e with saving := some { v with written := true } })
  if (s.eng k).saving.any Saving.written && !s.yWaits k o then (s.yDone k).opFault k o.seq o.pos unitY 0 0 ((s.eng k).savePoison parts) else s

/-- ESAVE (R76, R77, R480). -/
def State.esave (s : State) (k : Nat) (stopRow : Option Nat) : State :=
  match s.yFront k yEsave with
  | none => s
  | some o =>
    let s := if (s.eng k).saving.isSome then s else s.esaveBegin k o stopRow
    match (s.eng k).saving with
    | some v => s.esaveGo k o v
    | none => s

def execEsave (k : Nat) (stopRow : Option Nat) (s : State) : Out := guardUnit (isSlot k) (s.esave k stopRow)

-- ERESTORE

/-- Restore the header fields (R78, R121). -/
def Core.ctxHeaderIn (c : Core) (o : EngOp) (h : List Byte) : Core :=
  let parts := leAt h 4 4
  let w := leAt h 0x2C 4
  let act := leAt h 0x28 4
  let e := c.eng
  let e := { e with
    ewr := e.ewr.filter (fun x => !seqBefore o.seq x.1),
    b0 := { e.b0 with loaded := bit (leAt h 0x20 4) 31, deckle := leAt h 0x20 4 % 2 ^ 24 },
    b1 := { e.b1 with loaded := bit (leAt h 0x24 4) 31, deckle := leAt h 0x24 4 % 2 ^ 24 },
    bActive := bit act 0, bWait := bit act 1,
    couch := (List.range (Nat.min (w % 16) 8)).map (fun i => tokenOf (leAt h (0x30 + 4 * i) 4)) }
  let e := if bit parts 2 then
      { e with runs := (List.range 4).foldl (fun t r => Tab.set 0 t r (fld w (4 + 6 * r) 6)) e.runs,
               latestN := (List.range 4).foldl (fun t r => Tab.set 511 t r (fld (leAt h (0x50 + 2 * r) 2) 0 9)) e.latestN }
    else e
  let c := { c with eng := e }
  let c := c.setReg ENG_NSTAT (BitVec.ofNat 64 (leAt h 0xC 4 % 256))
  let c := c.setReg ENG_SROW ((c.reg ENG_SROW &&& 0xFFFF) ||| BitVec.ofNat 64 (leAt h 0x18 8 / 2 ^ 16 * 2 ^ 16))
  let c := c.pushEwr (o.seq + 1) rselNmode (BitVec.ofNat 64 (leAt h 8 4))
  let c := c.pushEwr (o.seq + 1) rselRng (BitVec.ofNat 64 (leAt h 0x10 8))
  c.pushEwr (o.seq + 1) rselSrow (BitVec.ofNat 64 (leAt h 0x18 8))

/-- Restore a page. -/
def Eng.ctxPageIn (e : Eng) (off : Nat) (bs : List Byte) : Eng :=
  if off < 0x81000 then e.writeTile (off - 0x1000) bs
  else if off < 0x101000 then { e with b0 := { e.b0 with bytes := e.b0.bytes.writeN (off - 0x81000) bs }, bBad := feltClean e.bBad (off - 0x81000) 4096 }
  else if off < 0x181000 then { e with b1 := { e.b1 with bytes := e.b1.bytes.writeN (off - 0x101000) bs }, bBad := feltClean e.bBad (off - 0x81000) 4096 }
  else
    let o := off - 0x181000
    let u := o / 0x80000 * 0x100000 + o % 0x80000
    { (List.range 1024).foldl (fun (e : Eng) j =>
        let (r, plane, row, col) := reamAt (o + 4 * j)
        let v : Half := BitVec.ofNat 32 (leAt bs (4 * j) 4)
        if plane then { e with reamC := Tab.set 0 e.reamC (reamKey r row col) v } else { e with reamW := Tab.set 0 e.reamW (reamKey r row col) v }) e with
      reamBad := feltClean e.reamBad u 4096 }

/-- The 64-byte reads of another device that pages need (R12): device, address. -/
def State.ctxRemote (s : State) (pages : List (Nat × Nat)) : List (Nat × Nat) :=
  (pages.filter (fun p => decide (s.target p.2 = .remote))).flatMap (fun p => (List.range 64).map (fun i => s.aperture (p.2 + 64 * i)))

/-- The bytes of pages, those of another device from what its reads brought; errors of the storage that is read take effect first. -/
def State.ctxReads (s : State) (k : Nat) : List (Nat × Nat) → List RemReq → State × List (Nat × List Byte)
  | [], _ => (s, [])
  | (off, pa) :: ps, rem =>
    match s.target pa with
    | .remote =>
      let (s, l) := s.ctxReads k ps (rem.drop 64)
      (s, (off, (rem.take 64).flatMap (fun r => r.data.getD [])) :: l)
    | .ctl o =>
      let (s, bs) := s.ctlReadN k o 4096
      let (s, l) := s.ctxReads k ps rem
      (s, (off, bs) :: l)
    | _ =>
      let s := s.strikeMem false k pa 4096
      let bs := (s.seenBy false k).physRead pa 4096
      let (s, l) := (s.logHole k 0 pa 4096).ctxReads k ps rem
      (s, (off, bs) :: l)

/-- The first unit with an uncorrectable error in `n` bytes of the save area from `off` on (R480): by its felt offset on the own felt path, else by its address. -/
def State.ctxBad (s : State) (k base off pa n : Nat) : Option Found :=
  ((s.seenBy false k).firstBad pa 0 n).map (fun i =>
    match s.target (pa + i) with
    | .felt j f => if j = k then (0x69, f / 8 * 8) else (0x68, base + off + i)
    | _ => (0x68, base + off + i))

/-- The first read error of a restored page, on another device the first read whose data came marked (R480; log 42). -/
def State.ctxPoison (s : State) (k base : Nat) : List (Nat × Nat) → List RemReq → List Found
  | [], _ => []
  | (off, pa) :: ps, rem =>
    if s.target pa = .remote then
      match (rem.take 64).findIdx? RemReq.bad with
      | some i => [(0x68, base + off + 64 * i)]
      | none => s.ctxPoison k base ps (rem.drop 64)
    else
      match s.ctxBad k base off pa 4096 with
      | some f => [f]
      | none => s.ctxPoison k base ps rem

/-- The remote reads of a sync operation, in the order sent. -/
def State.yReads (s : State) (k : Nat) (o : EngOp) : List RemReq := s.dln.reqs.filter (fun r => r.core == k && decide (r.desc = some (o.seq, o.pos, 0)) && !r.write)

/-- The remote reads of a sync operation are used up. -/
def State.yDrop (s : State) (k : Nat) (o : EngOp) : State := { s with dln := { s.dln with reqs := s.dln.reqs.filter (fun r => !(r.core == k && decide (r.desc = some (o.seq, o.pos, 0)))) } }

/-- An ERESTORE ends with a fault and no effect (R72, R480). -/
def State.yFail (s : State) (k : Nat) (o : EngOp) (f : Found) : State := ((s.yDrop k o).yDone k).engFault k ⟨o.seq, o.pos, 0, unitY, f.1, 0, f.2⟩

/-- An ERESTORE reads from another device. -/
def State.yFetch (s : State) (k : Nat) (o : EngOp) (l : List (Nat × Nat)) : State := l.foldl (fun s (d, a) => s.sendRemote k false d a 64 [] (some (o.seq, o.pos, 0))) s

/-- The header page of the save area at a physical address (R77, R79): its fields, and its first read error. `far`: what the remote reads of it brought. -/
def State.ctxHead (s : State) (k base hpa : Nat) (far : List RemReq) : State × List Byte × List Found :=
  match s.target hpa with
  | .remote => (s, far.flatMap (fun r => r.data.getD []), s.ctxPoison k base [(0, hpa)] far)
  | .ctl off => let (s, bs) := s.ctlReadN k off 4096; (s, bs, [])
  | _ =>
    let s := s.strikeMem false k hpa 4096
    (s.logHole k 0 hpa 4096, (s.seenBy false k).physRead hpa 88, (s.ctxBad k base 0 hpa 4096).toList)

/-- The header has been read: the parts that it selects are translated, read, and restored (R78, R480). `got`: what the remote reads of pages brought. -/
def State.restoreParts (s : State) (k : Nat) (o : EngOp) (hdr : List Byte) (bad : List Found) (got : List RemReq) : State × Bool :=
  let base := (o.gv.headD 0).toNat
  if leAt hdr 0 4 ≠ ctxMagic ∨ 8 ≤ leAt hdr 4 4 then (s.yFail k o (0x2E, 0), true)
  else
    match s.ctxPages k base o.user .load (partPages (leAt hdr 4 4)) with
    | (s, none) => (s, false)
    | (s, some (.error f)) => (s.yFail k o f, true)
    | (s, some (.ok pages)) =>
      let need := s.ctxRemote pages
      if pages.any (fun p => s.waitsFor k (s.target p.2)) then (s, false)
      else if got.length < need.length then (s.yFetch k o need, true)
      else
        let (s, data) := s.ctxReads k pages got
        let bad := (bad ++ s.ctxPoison k base pages got).take 1
        let s := (s.yDrop k o).updCore k (fun c =>
          let c := c.ctxHeaderIn o hdr
          { c with eng := data.foldl (fun e p => e.ctxPageIn p.1 p.2) c.eng })
        ((s.yDone k).opFault k o.seq o.pos unitY 0 0 bad, true)

/-- ERESTORE (R78, R480): once every earlier operation has finished, it reads the header, translates the parts that it selects, and restores them. Reads of another device are sent first; the command goes on when their data is there. -/
def State.erestore (s : State) (k : Nat) : State :=
  match s.yFront k yErestore with
  | none => s
  | some o =>
    let e := s.eng k
    let base := (o.gv.headD 0).toNat
    let reads := s.yReads k o
    if e.othersDone o = false ∨ (e.earlierM o).isEmpty = false ∨ reads.any RemReq.open = true then s
    else
      match s.ctxPages k base o.user .load [0] with
      | (_, none) => s
      | (t, some (.error f)) => t.yFail k o f
      | (t, some (.ok first)) =>
        let hpa := (first.head?.map Prod.snd).getD 0
        let far := decide (t.target hpa = .remote)
        if t.waitsFor k (t.target hpa) then s
        else if far && reads.isEmpty then t.yFetch k o (t.ctxRemote [(0, hpa)])
        else
          let (t, hdr, bad) := t.ctxHead k base hpa (reads.take 64)
          let (t, goes) := t.restoreParts k o hdr bad (if far then reads.drop 64 else reads)
          if goes then t else s

def execErestore (k : Nat) (s : State) : Out := guardUnit (isSlot k) (s.erestore k)

end Sys2Proof.Machine
end

