-- ==== Sys2Proof/Machine/Live.lean ====
section
/-! DEFINITION. Live restructuring (R438 to R446), and loft (R19, R460 to R462). -/

namespace Sys2Proof.Machine

-- loft requests

/-- Loft entry begins (R461, step 1): vector 6, and source 0x16 at every enabled core slot and service core. -/
def State.loftBegin (s : State) : State :=
  let s := State.msix { s with mill := { s.mill with loft := .entering } } 6
  (s.enabledSlots ++ [36, 37, 38, 39]).foldl (fun s k => s.irq k 0x16) s

def State.setLoft (s : State) (p : LoftPhase) : State := { s with mill := { s.mill with loft := p } }

/-- A request that waits is taken up once the transition or the live change before it has ended (R442, R460). -/
def State.loftNext (s : State) : State :=
  match s.mill.loftQueue with
  | [] => s
  | e :: rest =>
    let t := { s with mill := { s.mill with loftQueue := rest } }
    if s.mill.loft = .none ∧ s.mill.change.isNone = true ∧ e = true then t.loftBegin
    else if s.mill.loft = .loft ∧ e = false then t.setLoft .exiting
    else s

/-- In or entering loft, as the phase goes. -/
def LoftPhase.inward : LoftPhase → Bool
  | .none => false
  | .entering => true
  | .parking => true
  | .loft => true
  | .exiting => false

/-- The state that the die comes to once the waiting requests are done: in loft or not. -/
def State.loftTarget (s : State) : Bool :=
  match s.mill.loftQueue.getLast? with
  | some e => e
  | none => s.mill.loft.inward

/-- A loft request (R460): none when it is refused; a request for the state that the die is in or comes to does nothing; one that must wait is queued. -/
def State.loftAsk (s : State) (enter : Bool) : Option State :=
  if s.pstate ≠ psActive ∧ s.pstate ≠ psLoft then none
  else if enter = s.loftTarget then some s
  else some (State.loftNext { s with mill := { s.mill with loftQueue := s.mill.loftQueue ++ [enter] } })

/-- SMBUS_LOFT (R420, R460). A refused request, a value other than 0 and 1, and a wrong packet error code are not acknowledged. -/
def execSmbusLoft (v : SmbWrite 8) (s : State) : Out :=
  .next (if s.powered then
      match (if !s.smbGood 0x11 [v.value] v.pec then none else if v.value = 1 then s.loftAsk true else if v.value = 0 then s.loftAsk false else none) with
      | some t => t
      | none => s.out .smbusNak
    else s)

-- answers to posts

/-- The channel on which a sender has its result (R438). -/
def resultChan (ag : Nat) : Nat := if ag = 41 then 49 else ag

/-- Set a doorbell bit on a result channel (R446, R460). -/
def State.answerBell (s : State) (ag b : Nat) : State := s.ring (resultChan ag) ((1 : Word) <<< b)

/-- Message register `i` of a channel's slot. -/
def State.msg (s : State) (ch i : Nat) : Word := (s.chan ch).reg (MBX_MSG + 8 * i)

/-- The sender of the post in a channel's slot. -/
def State.sender (s : State) (ch : Nat) : Nat := wfld ((s.chan ch).reg MBX_CTL) 8 6

/-- Message registers `i` to 15 are zero. -/
def State.msgsZero (s : State) (ch i : Nat) : Bool := (List.range (16 - i)).all (fun j => decide (s.msg ch (i + j) = 0))

/-- A loft request by post (R460): doorbell bit 31 on acceptance, bit 30 on refusal. -/
def State.loftPost (s : State) (enter : Bool) : State :=
  let ag := s.sender 48
  let r := if s.msgsZero 48 1 then s.loftAsk enter else none
  match r with
  | some _ =>
    let s := s.take 48
    ((s.loftAsk enter).getD s).answerBell ag 31
  | none => (s.take 48).answerBell ag 30

/-- LOFT_ENTER (R460). -/
def execLoftEnter (s : State) : Out := .next (if s.postCode 48 = some 0x20 then s.loftPost true else s)

/-- LOFT_EXIT (R460). -/
def execLoftExit (s : State) : Out := .next (if s.postCode 48 = some 0x21 then s.loftPost false else s)

-- stopping cores

/-- A core is halted, or held, with an empty headbox (R440, R461). -/
def Core.quiet (c : Core) : Bool := c.stopped && c.eng.headbox.isEmpty

/-- The core is at rest: quiet, with no interrupt that would wake it. A core that has halted before QUIESCE or LOFT is raised takes it first (R224, R440). -/
def State.atRest (s : State) (k : Nat) : Bool :=
  (s.core k).quiet && !(s.atBoundary k && (s.core k).ie && (s.irqSource k).isSome)

/-- The aligned 8-byte units in which two memories differ. -/
def unitsApart (a b : Mem) : List Nat :=
  ((a.filter (fun p => b.read p.1 != p.2) ++ b.filter (fun p => a.read p.1 != p.2)).map (fun p => p.1 / 8)).eraseDups

/-- What each engine operation of core `k` that can be under way would come to: copies, fills, tile stores, calender operations and context saves. -/
def State.underWay (s : State) (k : Nat) : List State :=
  (List.range (s.eng k).hol.length).flatMap (fun i => [s.holMove k i hopCopy, s.holMove k i hopFill]) ++
  [s.tileStore k, s.cal k] ++ (if (s.eng k).saving.isSome then [s.esave k none] else [])

/-- The engine work of a core under way at its reset is abandoned: each aligned 8-byte unit that it was writing holds its old or its new value, as the free Config.choose has it (R3, R441, log 12). -/
def State.abandon (s : State) (k : Nat) : State :=
  (s.underWay k).foldl (fun u t =>
    let u := (unitsApart s.mem t.mem).foldl (fun u x =>
      let u' := if Config.choose u.free then u.physWriteLine k (8 * x) (t.mem.readN (8 * x) 8) else u
      { u' with free := u.free + 1 }) u
    (List.range 36).foldl (fun u j => (unitsApart (s.eng j).felt (t.eng j).felt).foldl (fun u x =>
      let u' := if Config.choose u.free then u.updEng j (fun e => e.writeFelt (8 * x) ((t.eng j).felt.readN (8 * x) 8)) else u
      { u' with free := u.free + 1 }) u) u) s

/-- Stop a core that is still running (R441), and log it: `why` 0 for a live change, 1 for loft. DISCARD is written to its ENG_FCTL; the engine work that it has released may still complete. -/
def State.forceStop (s : State) (why k : Nat) : State :=
  let s := ((s.writeFctl k true false).updCore k (fun c => { c with run := .held })).log logForcedStop 0xFF k (freeAddr logForcedStop) why
  { s with mill := { s.mill with stopping := s.mill.stopping ++ [k] } }

/-- The stopped cores whose released work has completed are reset, and with `late`, when 100 µs have passed, all of them (R441). -/
def State.stopDone (s : State) (late : Bool) : State :=
  let ks := s.mill.stopping.filter (fun k => late || (s.eng k).drained)
  let s := ks.foldl (fun s k => (s.abandon k).resetCore k) s
  { s with mill := { s.mill with stopping := s.mill.stopping.filter (fun k => !ks.contains k) } }

-- loft entry

/-- The cores that loft stops. -/
def State.loftCores (s : State) : List Nat := s.enabledSlots ++ [36, 37, 38, 39]

/-- Steps 2 and 3 of R461 are done: the cores are halted, their hollanders idle, the vats' queues empty and their range engines idle. -/
def State.loftReady (s : State) : Bool :=
  s.mill.stopping.isEmpty && s.loftCores.all (fun k => s.atRest k && (s.core k).eng.hol.isEmpty) &&
  (List.range 4).all (fun c => (s.vat c).emptied && !(s.vat c).busy)

/-- Steps 4 and 5 of R461: the caches are written back, and every UP port sends PARK. -/
def State.loftPark (s : State) : State :=
  let s := (s.loftCores.foldl State.flushCore s).setLoft .parking
  (List.range 24).foldl (fun s p => if (s.link p).state = lsUp then s.setLink p { s.link p with parking := true } else s) s

/-- Every port's PARK has been acknowledged or timed out (R366), and the stack ports have completed their queues (R340). -/
def State.loftQuiet (s : State) : Bool :=
  (List.range 24).all (fun p => (s.link p).state != lsUp || !(s.link p).parking) && (List.range 8).all (fun p => (s.port p).upd.isEmpty && (s.port p).mesh.isEmpty)

/-- Steps 5 to 7 of R461: the ports go DOWN, the stacks into self-refresh, the cores lose power, and UNLOCK clears (R476). -/
def State.loftDown (s : State) : State :=
  let s := (List.range 24).foldl (fun s p => s.stopPort p lsDown (s.link p).parked false) s
  let s := (List.range 8).foldl (fun s p =>
    if ((s.port p).reg MEM_PSTAT).getLsbD 0 then s.setPort p ((s.port p).setReg MEM_PSTAT ((s.port p).reg MEM_PSTAT ||| 4)) else s) s
  let s := { s with cores := Tab.update {} s.cores (fun _ c => c.wiped),
                    dln := { s.dln with reqs := s.dln.reqs.filter (fun r => decide (36 ≤ r.core) && r.desc.isSome) } }
  let s := (s.setMillReg MILL_DBG 0).setPstate psLoft
  (s.setLoft .loft).loftNext

/-- Loft entry goes on as far as it can (R461). -/
def State.loftEntry (s : State) : State :=
  let s := if s.mill.loft = .entering then s.stopDone false else s
  let s := if s.mill.loft = .entering ∧ s.loftReady = true then s.loftPark else s
  if s.mill.loft = .parking ∧ s.loftQuiet = true then s.loftDown else s

/-- LOFT_ENTRY (R461). -/
def execLoftEntry (s : State) : Out := .next s.loftEntry

/-- Time runs out for cores that must halt: those `late` are stopped, or, where cores have been stopped, their 100 µs have passed (R441). -/
def State.stopLate (s : State) (why : Nat) (late : List Nat) : State :=
  if s.mill.stopping.isEmpty then late.foldl (fun s k => s.forceStop why k) s else s.stopDone true

/-- LOFT_TIMEOUT (R461): LTO expires, and the cores still running are stopped; then, that the 100 µs of R441 have passed. -/
def execLoftTimeout (s : State) : Out :=
  .next (if s.mill.loft = .entering then (s.stopLate 1 (s.loftCores.filter (fun k => !(s.atRest k && (s.core k).eng.hol.isEmpty)))).loftEntry else s)

/-- LOFT_EXIT_RUN (R462, R293): power returns, the stacks leave self-refresh, the cores are released with LOFTEXIT at 1, and the ports train. -/
def State.loftExitRun (s : State) : State :=
  let s := (List.range 8).foldl (fun s p => s.setPort p ((s.port p).setReg MEM_PSTAT ((s.port p).reg MEM_PSTAT &&& ~~~4))) s
  let s := (List.range 4).foldl (fun s c => s.setVat c { s.vat c with plru := [], wayCe := [], qbuf := [], stream := [] }) s
  let s := (s.setClkReg PWR_STATE (BitVec.ofNat 64 (256 + psActive))).releaseAll
  let s := (List.range 24).foldl (fun s p => if (s.link p).role = 1 ∨ (s.link p).role = 2 then s.startTraining p else s) s
  (s.setLoft .none).loftNext

def execLoftExitRun (s : State) : Out := .next (if s.mill.loft = .exiting then s.loftExitRun else s)

-- live restructuring

def cmdApply : Nat := 1
def cmdSwap : Nat := 2

-- MILL_LSTAT.CAUSE
def lsOk : Nat := 0
def lsBadreq : Nat := 1
def lsImage : Nat := 2
def lsParent : Nat := 3
def lsSelftest : Nat := 4

/-- A request ends (R446): MILL_LSTAT, and doorbell bit 31 on success or bit 30 on failure. -/
def State.changeEnd (s : State) (cmd cluster ag cause slot : Nat) (forced : Bool) : State :=
  (s.setMillReg MILL_LSTAT (BitVec.ofNat 64
    (2 ^ 31 + b2n forced * 2 ^ 29 + slot * 2 ^ 24 + cause * 2 ^ 16 + ag * 2 ^ 10 + cluster * 2 ^ 8 + cmd))).answerBell ag (if cause = lsOk then 31 else 30)

/-- The image that an APPLY names (R438). -/
def State.applyImage (s : State) (src pa : Nat) : List Byte :=
  if src = 0 then s.board.primary
  else if src = 1 then (if s.board.large then s.board.fallback else [])
  else
    let n := imgLength (s.physRead pa 0x20)
    s.physRead pa (if n ≤ 2 ^ 28 then n else 0x20)

/-- The DEST and TESTBASE of an image lie in stack memory under the map in force (R430). -/
def State.imgDestsOk (s : State) (b : List Byte) : Bool :=
  (imgDir b).all (fun x =>
    (!x.copied || s.stackRange x.dest x.size) && (x.typ != secDie || s.stackRange (leAt (x.bytes b) 0x20 8) (2 ^ 24)))

/-- The request in a channel's slot is malformed (R438, R439). -/
def State.changeBad (s : State) (ch cmd : Nat) : Bool :=
  wfld ((s.chan ch).reg MBX_CTL) 0 5 != 8 || decide (1000000 < (s.msg ch 3).toNat) || !s.msgsZero ch 4 ||
  (if cmd = cmdApply then decide (2 < (s.msg ch 1).toNat) || (s.msg ch 1 != 2 && s.msg ch 2 != 0)
   else s.msg ch 1 != 0 || s.msg ch 2 != 0)

/-- The checks of R439: the record to apply with its watermark, or the cause of the failure. -/
def State.changeCheck (s : State) (ch cmd : Nat) : Except Nat (List Byte × Word) :=
  let m := s.msg ch 0
  let c := wfld m 8 2
  if s.changeBad ch cmd then .error lsBadreq
  else if cmd = cmdApply then
    let src := (s.msg ch 1).toNat
    let pa := (s.msg ch 2).toNat
    if src = 2 ∧ s.stackRange pa 0x20 = false then .error lsBadreq
    else
      let b := s.applyImage src pa
      match imgCheck s.board b with
      | .error _ => .error lsImage
      | .ok d =>
        let wm := watermarkOf d
        let mine := (s.millReg MILL_WATERMARK).toNat
        if !s.imgDestsOk b || (decide (src ≤ 1) && tooSlow s.board b) then .error lsImage
        else if wm ≠ mine ∧ imgParent b ≠ mine then .error lsParent
        else
          match sectData b secCluster c with
          | some r => .ok (r, BitVec.ofNat 64 wm)
          | none => .error lsBadreq
  else
    let r := s.clusRec c
    let old := wfld m 12 4
    let spare := wfld m 16 4
    if old < 9 ∧ spare < 9 ∧ recRole r old = roleEnabled ∧ recRole r spare = roleSpare then .ok (recSwap r old spare, s.millReg (MILL_CSTAMP + 8 * c))
    else .error lsBadreq

/-- The enabled cores that the change waits for: those of its cluster, but the slot that a SWAP has reset. -/
def State.changeCores (s : State) (x : Change) : List Nat :=
  (s.enabledIn x.cluster).filter (fun k => !(x.cmd == cmdSwap && k == 9 * x.cluster + x.old))

/-- The vat's queues are empty and its range engine idle, so that the disable of R440 can run. -/
def State.vatIdle (s : State) (c : Nat) : Bool := (s.vat c).drained && !(s.vat c).busy

/-- Disable a vat under R290: it cleans and invalidates, and the operation completes. -/
def State.vatOff (s : State) (c : Nat) : State := (s.writeVatCfg c (s.vat c).addrw false).rangeDone c

/-- The lines of a window that lie in its vat's disabled ways (R284, R302). -/
def Vat.lostLines (v : Vat) (c : Nat) : List Nat :=
  (List.range 32).flatMap (fun sl =>
    ((List.range v.addrw).filter (fun a => v.wayDisabled sl (16 - v.addrw + a))).flatMap (fun a =>
      (List.range 2048).map (fun l => (0x00E000000000 + c * 0x10000000) / 64 + (32 * a + l / 64) * 2048 + 64 * sl + l % 64)))

/-- Clear the way-disable bits of a vat (R301, R443). What lay in a disabled addressable way is lost: its lines keep the poison mark until they are written whole (R302; log 29). -/
def State.clearWaydis (s : State) (c : Nat) : State :=
  let s := { s with poison := ((s.vat c).lostLines c).foldl (fun t l => Tab.set false t l true) s.poison }
  s.setVat c ((List.range 32).foldl (fun v sl => v.setReg (VAT_WAYDIS + 8 * sl) 0) (s.vat c))

/-- The vat's part of an APPLY (R443). -/
def State.applyVat (s : State) (c addrw : Nat) : State :=
  let s := s.clearWaydis c
  if addrw = (s.vat c).addrw then (s.rangeCmd c 4).rangeDone c
  else
    let s := ((s.writeVatCfg c addrw false).rangeCmd c 4).rangeDone c
    ((s.vatRange c 0 (addrw * 0x400000)).rangeCmd c 3).rangeDone c

/-- Slots change their role (R443): the felt of one that becomes ENABLED is zeroed, the channel of one that stops being ENABLED is reset, and one that becomes DISABLED or SPARE loses power. -/
def State.roleChange (s : State) (was now : List Byte) (c i : Nat) : State :=
  let k := 9 * c + i
  let a := recRole was i
  let b := recRole now i
  if b = roleEnabled ∧ a ≠ roleEnabled then s.setCore k {}
  else if b ≠ roleEnabled ∧ a = roleEnabled then ((s.forgetPosts k).setCore k {}).chanReset k
  else if b ≠ a then s.setCore k {}
  else s

/-- The cluster is quiesced (R440, steps 5 and 6), the change is applied (R443), and the self-test begins (R444). -/
def State.changeApply (s : State) (x : Change) : State :=
  let c := x.cluster
  let s := ((s.enabledIn c).foldl State.flushCore s).vatOff c
  let s := s.setVat c ((s.vat c).stat stQuiesced true)
  let was := s.clusRec c
  let s := { s with mill := { s.mill with clusRec := Tab.set [] s.mill.clusRec c x.record } }
  let s := if x.cmd = cmdApply then (s.setMillReg (MILL_CSTAMP + 8 * c) x.stamp).applyVat c (recAddrw x.record) else s
  let s := ((List.range 9).foldl (fun s i => s.roleChange was x.record c i) s).writeSlots
  let s := s.setMillReg MILL_STEST ((s.enabledIn c).foldl (fun w k => w ||| ((1 : Word) <<< k)) (s.millReg MILL_STEST))
  { s with mill := { s.mill with change := some { x with phase := 1 } } }

/-- The change goes on once every core it waits for is halted with an empty headbox and the vat is idle (R440); in a die that has tripped it goes no further (R458, log 70). -/
def State.changeGo (s : State) : State :=
  match s.mill.change with
  | some x =>
    if x.phase ≠ 0 ∨ s.tripped = true then s
    else
      let s := s.stopDone false
      if s.mill.stopping.isEmpty && (s.changeCores x).all (fun k => s.atRest k) && s.vatIdle x.cluster then s.changeApply x else s
  | none => s

/-- A request has passed its checks (R440): the windows are held, a SWAP's slot is reset at once, and QUIESCE is raised at the other cores. -/
def State.changeBegin (s : State) (ch cmd : Nat) (r : List Byte) (stamp : Word) : State :=
  let m := s.msg ch 0
  let ag := s.sender ch
  let x : Change := ⟨cmd, wfld m 8 2, wfld m 12 4, wfld m 16 4, ag, resultChan ag, r, stamp, 0, false⟩
  let s := s.take ch
  let s := { s with mill := { s.mill with change := some x } }
  let s := if cmd = cmdSwap then (s.abandon (9 * x.cluster + x.old)).resetCore (9 * x.cluster + x.old) else s
  ((s.changeCores x).foldl (fun s k => s.irq k 0x14) s).changeGo

/-- A request in a channel's slot (R438, R439, R446): refused with bit 29 while a change runs, ended at once when a check fails. Without a new request, the change of this command that waits goes on. -/
def State.changeAsk (s : State) (ch cmd : Nat) : State :=
  if s.postCode ch = some cmd ∧ s.bootState = bsRunning ∧ s.pstate = psActive ∧ s.mill.loft = .none then
    let ag := s.sender ch
    if s.mill.change.isSome then (s.take ch).answerBell ag 29
    else
      match s.changeCheck ch cmd with
      | .error c => (s.take ch).changeEnd cmd (wfld (s.msg ch 0) 8 2) ag c 0 false
      | .ok (r, stamp) => s.changeBegin ch cmd r stamp
  else
    match s.mill.change with
    | some x => if x.cmd = cmd then s.changeGo else s
    | none => s

/-- A channel of change requests (R438). -/
def changeChan (ch : Nat) : Bool := ch == 48 || ch == 50

/-- APPLY (R438 to R443). -/
def execApply (ch : Nat) (s : State) : Out := guardUnit (changeChan ch) (s.changeAsk ch cmdApply)

/-- SWAP (R438 to R443). -/
def execSwap (ch : Nat) (s : State) : Out := guardUnit (changeChan ch) (s.changeAsk ch cmdSwap)

/-- QUIESCE_TIMEOUT (R441): QTO expires and each core still running is stopped, and reset once the engine work that it has released has completed; then, that 100 µs have passed since, and all are reset. -/
def State.quiesceTimeout (s : State) : State :=
  match s.mill.change with
  | some x =>
    if x.phase = 0 then
      let late := (s.changeCores x).filter (fun k => !s.atRest k)
      let s := s.stopLate 0 late
      State.changeGo { s with mill := { s.mill with change := some { x with forced := x.forced || !late.isEmpty } } }
    else s
  | none => s

def execQuiesceTimeout (s : State) : Out := .next s.quiesceTimeout

/-- SELFTEST_DONE (R445): on a pass the vat is enabled, the test bits clear, the cores are released and the windows freed; on a failure the cluster stays quiesced. `failed`: the core slots that failed. -/
def State.selftestDone (s : State) (failed : List Nat) : State :=
  match s.mill.change with
  | some x =>
    if x.phase = 1 ∧ s.tripped = false then
      let bad := (s.enabledIn x.cluster).filter (fun k => failed.contains k)
      let t := { s with mill := { s.mill with change := none } }
      match bad with
      | [] =>
        let t := t.writeVatCfg x.cluster (t.vat x.cluster).addrw true
        let t := t.setMillReg MILL_STEST (t.millReg MILL_STEST &&& ~~~((0x1FF : Word) <<< (9 * x.cluster)))
        let t := (t.enabledIn x.cluster).foldl State.releaseCore t
        let t := t.setVat x.cluster ((t.vat x.cluster).stat stQuiesced false)
        (t.changeEnd x.cmd x.cluster x.sender lsOk 0 x.forced).loftNext
      | k :: _ =>
        let t := bad.foldl (fun t k => t.log logSelftestFail 0xFF k (freeAddr logSelftestFail) (freeDetail logSelftestFail)) t
        (t.changeEnd x.cmd x.cluster x.sender lsSelftest (k % 9) x.forced).loftNext
    else s
  | none => s

def execSelftestDone (failed : List Nat) (s : State) : Out := .next (s.selftestDone failed)

end Sys2Proof.Machine
end

