-- ==== Sys2Proof/Machine/RegRows.lean ====
section
/-! DEFINITION. The register writes that are commands of their own: of the engines, the decode table and translation (R35, R173, R212, R238, R355, R358, R360), of the vats (R290 to R302), of the memory controllers (R324, R330, R335, R340, R342), and of the counters and the error log (R281, R320, R323, R342, R453, R455, R470, R473, R474). -/

namespace Sys2Proof.Machine

-- engines

/-- NMODE_WRITE (R35): a control-space write to ENG_NMODE. -/
def execNmodeWrite (ag k : Nat) (v : Half) (s : State) : Out :=
  guardUnit (decide (ag < 42) && decide (k < 36)) (s.modeWrite ag k rselNmode (v.setWidth 64) 0xFFFFFFFF)

/-- DISCARD (R238), with RESUME written by the same store or not. -/
def execDiscard (ag k : Nat) (resumeToo : Bool) (s : State) : Out :=
  guardUnit (decide (ag < 42) && decide (k < 36)) (s.writeFctl k true resumeToo)

/-- RESUME (R238). -/
def execResume (ag k : Nat) (s : State) : Out := guardUnit (decide (ag < 42) && decide (k < 36)) (s.writeFctl k false true)

/-- ENG_CSUMQ_CLEAR (R173). -/
def execEngCsumqClear (ag k : Nat) (s : State) : Out :=
  guardUnit (decide (ag < 42) && decide (k < 36)) (s.csumClear ag k 0x80000000)

/-- CORE_DTAB_DATA_WRITE (R212): by the core's own CWR, or through control space, which takes it while the core is stopped. -/
def execCoreDtabDataWrite (ag k : Nat) (v : Word) (s : State) : Out :=
  guardUnit (decide (ag < 42) && decide (k < 40)) (s.coreWrite (ag == k) ag k CORE_DTAB_DATA v 0xFFFFFFFFFFFFFFFF)

-- translation

/-- TPROBE (R355). -/
def execTprobe (k : Nat) (v : Word) (s : State) : Out := guardUnit (decide (k < 40)) (s.tprobe k v)

/-- The value of CORE_TLOCK that names an operation, a slot and a page (R358). -/
def tlockWord (op : Nat) (slot : BitVec 4) (va : BitVec 44) : Word := BitVec.ofNat 64 (op * 2 ^ 62 + slot.toNat * 2 ^ 48 + va.toNat)

/-- A write to CORE_TLOCK (R358). -/
def State.tlockWrite (s : State) (k op : Nat) (slot : BitVec 4) (va : BitVec 44) : State :=
  (s.updCore k (fun c => c.writeReg CORE_TLOCK (tlockWord op slot va) 0xFFFFFFFFFFFFFFFF)).tlockAct k op

/-- TLOCK_LOCK (R358): it waits while its walk needs a table in the window of a held cluster (R440). -/
def execTlockLock (k : Nat) (slot : BitVec 4) (va : BitVec 44) (s : State) : Out :=
  guardUnit (decide (k < 40)) (if s.tlockWaits k va.toNat then s else s.tlockWrite k 1 slot va)

def execTlockUnlock (k : Nat) (slot : BitVec 4) (va : BitVec 44) (s : State) : Out := guardUnit (decide (k < 40)) (s.tlockWrite k 2 slot va)

/-- A CWR to CORE_TLBI (R360): it waits while PEND is 1. -/
def State.tlbiCwr (s : State) (k op : Nat) (die : Bool) (asid : Nat) (va : Nat) : State :=
  if (s.core k).tlbi.isSome then s else s.tlbiStart k { op := op, die := die, asid := asid, va := va }

def execTlbiAll (k : Nat) (die : Bool) (s : State) : Out := guardUnit (decide (k < 40)) (s.tlbiCwr k 0 die 0 0)

def execTlbiAsid (k : Nat) (die : Bool) (asid : BitVec 16) (s : State) : Out :=
  guardUnit (decide (k < 40)) (s.tlbiCwr k 1 die asid.toNat 0)

def execTlbiVa (k : Nat) (die : Bool) (asid : BitVec 16) (va : BitVec 44) (s : State) : Out :=
  guardUnit (decide (k < 40)) (s.tlbiCwr k 2 die asid.toNat va.toNat)

def execTlbiVaAll (k : Nat) (die : Bool) (va : BitVec 44) (s : State) : Out :=
  guardUnit (decide (k < 40)) (s.tlbiCwr k 3 die 0 va.toNat)

/-- TLBI_COMPLETE (R360). -/
def execTlbiComplete (k : Nat) (s : State) : Out := guardUnit (decide (k < 40)) (s.tlbiDone k)

-- vats

/-- An agent and a cluster exist. -/
def vatArgs (ag c : Nat) : Bool := decide (ag < 42) && decide (c < 4)

/-- VAT_ADDRW_WRITE (R290): ADDRW is written, ENABLE with the value it has. -/
def execVatAddrwWrite (ag c : Nat) (w : BitVec 5) (s : State) : Out :=
  guardUnit (vatArgs ag c) (let (t, a) := s.writeAddrw c w.toNat; if a then t.setVat c ((t.vat c).refuse refNone) else t)

/-- VAT_ENABLE (R290): ENABLE is written as 1, ADDRW with the value it has. -/
def execVatEnable (ag c : Nat) (s : State) : Out := guardUnit (vatArgs ag c) (s.writeVatCfg c (s.vat c).addrw true)

/-- VAT_DISABLE (R290): ENABLE is written as 0, ADDRW with the value it has. -/
def execVatDisable (ag c : Nat) (s : State) : Out := guardUnit (vatArgs ag c) (s.writeVatCfg c (s.vat c).addrw false)

/-- INV (R295). -/
def execInv (ag c : Nat) (s : State) : Out := guardUnit (vatArgs ag c) (s.rangeCmd c 0)

/-- CLEAN (R295). -/
def execClean (ag c : Nat) (s : State) : Out := guardUnit (vatArgs ag c) (s.rangeCmd c 1)

/-- CLEAN_INV (R295). -/
def execCleanInv (ag c : Nat) (s : State) : Out := guardUnit (vatArgs ag c) (s.rangeCmd c 2)

/-- ZERO (R295). -/
def execZero (ag c : Nat) (s : State) : Out := guardUnit (vatArgs ag c) (s.rangeCmd c 3)

/-- INV_ALL (R295). -/
def execInvAll (ag c : Nat) (s : State) : Out := guardUnit (vatArgs ag c) (s.rangeCmd c 4)

/-- CLEAN_INV_ALL (R295). -/
def execCleanInvAll (ag c : Nat) (s : State) : Out := guardUnit (vatArgs ag c) (s.rangeCmd c 5)

/-- RANGE_COMPLETE (R297). -/
def execRangeComplete (c : Nat) (s : State) : Out := guardUnit (decide (c < 4)) ((s.rangeDone c).vatDrain c)

/-- VAT_WAYDIS_WRITE (R301). -/
def execVatWaydisWrite (ag c sl : Nat) (v : BitVec 16) (s : State) : Out :=
  guardUnit (decide (ag < 42) && decide (c < 4) && decide (sl < 32)) (s.writeWaydis c sl (v.setWidth 64))

/-- WAY_ERROR_PERIOD (R301). -/
def execWayErrorPeriod (c : Nat) (s : State) : Out := guardUnit (decide (c < 4)) (s.setVat c { s.vat c with wayCe := [] })

/-- VAT_OFFER (R298, R299). -/
def execVatOffer (k line : Nat) (s : State) : Out := guardUnit (decide (k < 36)) (s.offerLine k line)

/-- VAT_FILL (R300). -/
def execVatFill (c line : Nat) (kind : FillKind) (ecc : Ecc) (s : State) : Out := guardUnit (decide (c < 4)) (s.fillLine c line kind ecc)

-- memory controllers

/-- MEM_PSTAT.LOFT: the stack is in self-refresh (R340). -/
def Port.selfRefresh (q : Port) : Bool := (q.reg MEM_PSTAT).getLsbD 2

/-- PATROL_SCRUB_STEP (R335). -/
def execPatrolScrubStep (p : Nat) (ecc : Ecc) (s : State) : Out :=
  guardUnit (decide (p < 8)) (if (s.port p).scrubs && !(s.port p).selfRefresh then s.scrubStep p ecc else s)

/-- LOFT_SCRUB_BURST (R340): in self-refresh, unless PERIOD is zero. -/
def execLoftScrubBurst (p : Nat) (eccs : List Ecc) (s : State) : Out :=
  guardUnit (decide (p < 8))
    (if (s.port p).scrubs && (s.port p).selfRefresh then eccs.foldl (fun s e => s.scrubStep p e) s else s)

/-- STACK_TEMP_READOUT (R324, R457). -/
def execStackTempReadout (p : Nat) (temp : BitVec 8) (s : State) : Out :=
  guardUnit (decide (p < 8)) (if s.powered then s.stackTemp p temp.toNat else s)

/-- MEM_MAP_WRITE (R330). -/
def execMemMapWrite (ag : Nat) (v : Half) (s : State) : Out := guardUnit (decide (ag < 42)) (s.writeMemMap ag (v.setWidth 64) 0xFFFFFFFF)

-- counters and the error log

/-- MEM_CNTCTL (R342). -/
def execMemCntctl (p : Nat) (s : State) : Out := guardUnit (decide (p < 8)) (s.memCntClear p)

/-- HOL_CNTCTL (R281). -/
def execHolCntctl (k : Nat) (s : State) : Out := guardUnit (decide (k < 36)) (s.updCore k Core.holClear)

/-- VAT_CNTCTL (R323). -/
def execVatCntctl (c : Nat) (s : State) : Out := guardUnit (decide (c < 4)) (s.vatCntClear c)

/-- VAT_CERRCTL (R320). -/
def execVatCerrctl (c : Nat) (s : State) : Out := guardUnit (decide (c < 4)) (s.vatCerrClear c)

/-- CORE_EVCTL (R474). -/
def execCoreEvctl (k : Nat) (s : State) : Out := guardUnit (decide (k < 40)) (s.updCore k Core.evClear)

/-- ERR_RPTR_WRITE (R470). -/
def execErrRptrWrite (ag : Nat) (v : Word) (s : State) : Out := guardUnit (decide (ag < 42)) (s.writeRptr v.toNat)

/-- CLRLOST (R473). -/
def execClrlost (ag : Nat) (s : State) : Out := guardUnit (decide (ag < 42)) s.clrLost

/-- PWR_CAP_WRITE (R455): the mill controller and the host write the cap. -/
def execPwrCapWrite (ag : Nat) (v : Half) (s : State) : Out :=
  guardUnit (decide (ag < 42)) (if ag = 40 ∨ ag = 41 then s.setCap (v.toNat % 2 ^ 16) else s)

/-- CLRPEAK (R453). -/
def execClrpeak (ag : Nat) (s : State) : Out := guardUnit (decide (ag < 42)) s.clrPeak

/-- THROTTLE_UPDATE (R17, R454). -/
def execThrottleUpdate (est : BitVec 16) (s : State) : Out := .next (if s.powered then s.throttle est.toNat else s)

/-- SENSOR_SAMPLE (R457, R458). -/
def execSensorSample (sensor : BitVec 6) (reading : BitVec 16) (s : State) : Out :=
  .next (if s.powered then s.sample sensor.toNat reading.toNat else s)

/-- A write of `size` bytes of control space by an agent: one to the command window of a held cluster waits, and the host's is dropped and logged (R322, R416, R440). -/
def State.registerWrite (s : State) (ag off size v : Nat) : State :=
  if s.heldTarget (.ctl off) = true ∧ ag = 41 then s.log logHostAccess 41 (freeUnit logHostAccess) (ctlPa off) (size + 0x100)
  else if s.waitsFor ag (.ctl off) then s
  else s.ctlWrite ag off size (v % 2 ^ (8 * size))

/-- REGISTER_WRITE (R479): a write of 4 or 8 aligned bytes of control space. Other sizes and unaligned offsets take no effect here: the agents' own accesses are checked before (R259, R416). -/
def execRegisterWrite (ag off size v : Nat) (s : State) : Out :=
  guardUnit (decide (ag < 42)) (if (size = 4 ∨ size = 8) ∧ off % size = 0 ∧ off < 0x100000000 then s.registerWrite ag off size v else s)

end Sys2Proof.Machine
end

