-- ==== Sys2Proof/Machine/Dispatch.lean ====
section
/-! DEFINITION. The meaning of every command: one arm per constructor. -/

namespace Sys2Proof.Machine

/-- The command's effect on everything but the queue. -/
def exec (i : Instr) (s : State) : Host.Outcome State Fault Refusal :=
  match i with
  | .powerUpReset board => Sys2Proof.Machine.execPowerUpReset board s
  | .stackTrainingDone p ok => Sys2Proof.Machine.execStackTrainingDone p ok s
  | .stackTrainingTimeout p => Sys2Proof.Machine.execStackTrainingTimeout p s
  | .hostboot image again hostEnd => Sys2Proof.Machine.execHostboot image again hostEnd s
  | .nop k => Sys2Proof.Machine.execNop k s
  | .halt k => Sys2Proof.Machine.execHalt k s
  | .syncx k => Sys2Proof.Machine.execSyncx k s
  | .isync k => Sys2Proof.Machine.execIsync k s
  | .fenceFull k => Sys2Proof.Machine.execFenceFull k s
  | .fenceLl k => Sys2Proof.Machine.execFenceLl k s
  | .fenceSs k => Sys2Proof.Machine.execFenceSs k s
  | .fenceAcq k => Sys2Proof.Machine.execFenceAcq k s
  | .fenceRel k => Sys2Proof.Machine.execFenceRel k s
  | .fenceDev k => Sys2Proof.Machine.execFenceDev k s
  | .trap k => Sys2Proof.Machine.execTrap k s
  | .eret k => Sys2Proof.Machine.execEret k s
  | .crd k d n => Sys2Proof.Machine.execCrd k d n s
  | .cwr k g n => Sys2Proof.Machine.execCwr k g n s
  | .csum k d => Sys2Proof.Machine.execCsum k d s
  | .post k a b => Sys2Proof.Machine.execPost k a b s
  | .postGrant ch => Sys2Proof.Machine.execPostGrant ch s
  | .slli k d a sh => Sys2Proof.Machine.execSlli k d a sh s
  | .srli k d a sh => Sys2Proof.Machine.execSrli k d a sh s
  | .srai k d a sh => Sys2Proof.Machine.execSrai k d a sh s
  | .lih k d sel imm => Sys2Proof.Machine.execLih k d sel imm s
  | .add k w32 d a b => Sys2Proof.Machine.execAdd k w32 d a b s
  | .sub k w32 d a b => Sys2Proof.Machine.execSub k w32 d a b s
  | .and k w32 d a b => Sys2Proof.Machine.execAnd k w32 d a b s
  | .or k w32 d a b => Sys2Proof.Machine.execOr k w32 d a b s
  | .xor k w32 d a b => Sys2Proof.Machine.execXor k w32 d a b s
  | .sll k w32 d a b => Sys2Proof.Machine.execSll k w32 d a b s
  | .srl k w32 d a b => Sys2Proof.Machine.execSrl k w32 d a b s
  | .sra k w32 d a b => Sys2Proof.Machine.execSra k w32 d a b s
  | .slt k w32 d a b => Sys2Proof.Machine.execSlt k w32 d a b s
  | .sltu k w32 d a b => Sys2Proof.Machine.execSltu k w32 d a b s
  | .min k w32 d a b => Sys2Proof.Machine.execMin k w32 d a b s
  | .max k w32 d a b => Sys2Proof.Machine.execMax k w32 d a b s
  | .minu k w32 d a b => Sys2Proof.Machine.execMinu k w32 d a b s
  | .maxu k w32 d a b => Sys2Proof.Machine.execMaxu k w32 d a b s
  | .mul k w32 d a b => Sys2Proof.Machine.execMul k w32 d a b s
  | .mulh k w32 d a b => Sys2Proof.Machine.execMulh k w32 d a b s
  | .mulhu k w32 d a b => Sys2Proof.Machine.execMulhu k w32 d a b s
  | .div k w32 d a b => Sys2Proof.Machine.execDiv k w32 d a b s
  | .divu k w32 d a b => Sys2Proof.Machine.execDivu k w32 d a b s
  | .rem k w32 d a b => Sys2Proof.Machine.execRem k w32 d a b s
  | .remu k w32 d a b => Sys2Proof.Machine.execRemu k w32 d a b s
  | .clz k w32 d a => Sys2Proof.Machine.execClz k w32 d a s
  | .popc k w32 d a => Sys2Proof.Machine.execPopc k w32 d a s
  | .brev k w32 d a => Sys2Proof.Machine.execBrev k w32 d a s
  | .addi k d a imm => Sys2Proof.Machine.execAddi k d a imm s
  | .andi k d a imm => Sys2Proof.Machine.execAndi k d a imm s
  | .ori k d a imm => Sys2Proof.Machine.execOri k d a imm s
  | .xori k d a imm => Sys2Proof.Machine.execXori k d a imm s
  | .ldb k m => Sys2Proof.Machine.execLdb k m s
  | .ldbu k m => Sys2Proof.Machine.execLdbu k m s
  | .ldh k m => Sys2Proof.Machine.execLdh k m s
  | .ldhu k m => Sys2Proof.Machine.execLdhu k m s
  | .ldw k m => Sys2Proof.Machine.execLdw k m s
  | .ldwu k m => Sys2Proof.Machine.execLdwu k m s
  | .ldd k m => Sys2Proof.Machine.execLdd k m s
  | .stb k m => Sys2Proof.Machine.execStb k m s
  | .sth k m => Sys2Proof.Machine.execSth k m s
  | .stw k m => Sys2Proof.Machine.execStw k m s
  | .std k m => Sys2Proof.Machine.execStd k m s
  | .fldw k m => Sys2Proof.Machine.execFldw k m s
  | .fldd k m => Sys2Proof.Machine.execFldd k m s
  | .fstw k m => Sys2Proof.Machine.execFstw k m s
  | .fstd k m => Sys2Proof.Machine.execFstd k m s
  | .ldud k m => Sys2Proof.Machine.execLdud k m s
  | .stud k m => Sys2Proof.Machine.execStud k m s
  | .vld k m => Sys2Proof.Machine.execVld k m s
  | .vst k m => Sys2Proof.Machine.execVst k m s
  | .fadd k dbl d a b => Sys2Proof.Machine.execFadd k dbl d a b s
  | .fsub k dbl d a b => Sys2Proof.Machine.execFsub k dbl d a b s
  | .fmul k dbl d a b => Sys2Proof.Machine.execFmul k dbl d a b s
  | .ffma k dbl d a b c => Sys2Proof.Machine.execFfma k dbl d a b c s
  | .fmin k dbl d a b => Sys2Proof.Machine.execFmin k dbl d a b s
  | .fmax k dbl d a b => Sys2Proof.Machine.execFmax k dbl d a b s
  | .fabs k dbl d a => Sys2Proof.Machine.execFabs k dbl d a s
  | .fneg k dbl d a => Sys2Proof.Machine.execFneg k dbl d a s
  | .fcmp k dbl d a b cond => Sys2Proof.Machine.execFcmp k dbl d a b cond s
  | .fdiv k dbl d a b => Sys2Proof.Machine.execFdiv k dbl d a b s
  | .fsqrt k dbl d a => Sys2Proof.Machine.execFsqrt k dbl d a s
  | .fmvgf k d a => Sys2Proof.Machine.execFmvgf k d a s
  | .fmvfg k d a => Sys2Proof.Machine.execFmvfg k d a s
  | .fcvt k d a dstFmt srcFmt => Sys2Proof.Machine.execFcvt k d a dstFmt srcFmt s
  | .vop k kind d a b etype => Sys2Proof.Machine.execVop k kind d a b etype s
  | .beq k a b off => Sys2Proof.Machine.execBeq k a b off s
  | .bne k a b off => Sys2Proof.Machine.execBne k a b off s
  | .blt k a b off => Sys2Proof.Machine.execBlt k a b off s
  | .bge k a b off => Sys2Proof.Machine.execBge k a b off s
  | .bltu k a b off => Sys2Proof.Machine.execBltu k a b off s
  | .bgeu k a b off => Sys2Proof.Machine.execBgeu k a b off s
  | .j k off => Sys2Proof.Machine.execJ k off s
  | .jal k off => Sys2Proof.Machine.execJal k off s
  | .jalr k d a imm => Sys2Proof.Machine.execJalr k d a imm s
  | .customerInstruction k cust rd ra rb imm7 => Sys2Proof.Machine.execCustomerInstruction k cust rd ra rb imm7 s
  | .interruptTaken k => Sys2Proof.Machine.execInterruptTaken k s
  | .engineException k => Sys2Proof.Machine.execEngineException k s
  | .sheetDispatch k addr slots hval runAhead => Sys2Proof.Machine.execSheetDispatch k addr slots hval runAhead s
  | .sheetDry k => Sys2Proof.Machine.execSheetDry k s
  | .sheetSquash k => Sys2Proof.Machine.execSheetSquash k s
  | .slotRelease k => Sys2Proof.Machine.execSlotRelease k s
  | .hmv k => Sys2Proof.Machine.execHmv k s
  | .copy k n => Sys2Proof.Machine.execCopy k n s
  | .fill k n => Sys2Proof.Machine.execFill k n s
  | .holUadd k n => Sys2Proof.Machine.execHolUadd k n s
  | .holUmax k n => Sys2Proof.Machine.execHolUmax k n s
  | .holUmin k n => Sys2Proof.Machine.execHolUmin k n s
  | .vfetch k n => Sys2Proof.Machine.execVfetch k n s
  | .descriptorComplete k n => Sys2Proof.Machine.execDescriptorComplete k n s
  | .updateRequest p ecc => Sys2Proof.Machine.execUpdateRequest p ecc s
  | .vcmd k => Sys2Proof.Machine.execVcmd k s
  | .commandWindowPost ag c sl slot data => Sys2Proof.Machine.execCommandWindowPost ag c sl slot data s
  | .vnop c sl => Sys2Proof.Machine.execVnop c sl s
  | .kvgather c sl => Sys2Proof.Machine.execKvgather c sl s
  | .qload c sl => Sys2Proof.Machine.execQload c sl s
  | .score c sl => Sys2Proof.Machine.execScore c sl s
  | .vatUadd c sl => Sys2Proof.Machine.execVatUadd c sl s
  | .vatUmax c sl => Sys2Proof.Machine.execVatUmax c sl s
  | .vatUmin c sl => Sys2Proof.Machine.execVatUmin c sl s
  | .sumsq c sl => Sys2Proof.Machine.execSumsq c sl s
  | .meanvar c sl => Sys2Proof.Machine.execMeanvar c sl s
  | .vatCommandComplete c sl => Sys2Proof.Machine.execVatCommandComplete c sl s
  | .tld k => Sys2Proof.Machine.execTld k s
  | .tst k => Sys2Proof.Machine.execTst k s
  | .bld k => Sys2Proof.Machine.execBld k s
  | .mma k => Sys2Proof.Machine.execMma k s
  | .chout k => Sys2Proof.Machine.execChout k s
  | .chainBlockArrival k => Sys2Proof.Machine.execChainBlockArrival k s
  | .cal k => Sys2Proof.Machine.execCal k s
  | .calComplete k => Sys2Proof.Machine.execCalComplete k s
  | .enop k => Sys2Proof.Machine.execEnop k s
  | .ebar k => Sys2Proof.Machine.execEbar k s
  | .esave k stopRow => Sys2Proof.Machine.execEsave k stopRow s
  | .erestore k => Sys2Proof.Machine.execErestore k s
  | .ewr k => Sys2Proof.Machine.execEwr k s
  | .nmodeWrite ag k v => Sys2Proof.Machine.execNmodeWrite ag k v s
  | .discard ag k resumeToo => Sys2Proof.Machine.execDiscard ag k resumeToo s
  | .resume ag k => Sys2Proof.Machine.execResume ag k s
  | .engCsumqClear ag k => Sys2Proof.Machine.execEngCsumqClear ag k s
  | .coreDtabDataWrite ag k v => Sys2Proof.Machine.execCoreDtabDataWrite ag k v s
  | .tprobe k v => Sys2Proof.Machine.execTprobe k v s
  | .tlockLock k slot va => Sys2Proof.Machine.execTlockLock k slot va s
  | .tlockUnlock k slot va => Sys2Proof.Machine.execTlockUnlock k slot va s
  | .tlbiAll k die => Sys2Proof.Machine.execTlbiAll k die s
  | .tlbiAsid k die asid => Sys2Proof.Machine.execTlbiAsid k die asid s
  | .tlbiVa k die asid va => Sys2Proof.Machine.execTlbiVa k die asid va s
  | .tlbiVaAll k die va => Sys2Proof.Machine.execTlbiVaAll k die va s
  | .tlbiComplete k => Sys2Proof.Machine.execTlbiComplete k s
  | .vatAddrwWrite ag c w => Sys2Proof.Machine.execVatAddrwWrite ag c w s
  | .vatEnable ag c => Sys2Proof.Machine.execVatEnable ag c s
  | .vatDisable ag c => Sys2Proof.Machine.execVatDisable ag c s
  | .inv ag c => Sys2Proof.Machine.execInv ag c s
  | .clean ag c => Sys2Proof.Machine.execClean ag c s
  | .cleanInv ag c => Sys2Proof.Machine.execCleanInv ag c s
  | .zero ag c => Sys2Proof.Machine.execZero ag c s
  | .invAll ag c => Sys2Proof.Machine.execInvAll ag c s
  | .cleanInvAll ag c => Sys2Proof.Machine.execCleanInvAll ag c s
  | .rangeComplete c => Sys2Proof.Machine.execRangeComplete c s
  | .vatWaydisWrite ag c sl v => Sys2Proof.Machine.execVatWaydisWrite ag c sl v s
  | .wayErrorPeriod c => Sys2Proof.Machine.execWayErrorPeriod c s
  | .vatOffer k line => Sys2Proof.Machine.execVatOffer k line s
  | .vatFill c line kind ecc => Sys2Proof.Machine.execVatFill c line kind ecc s
  | .patrolScrubStep p ecc => Sys2Proof.Machine.execPatrolScrubStep p ecc s
  | .loftScrubBurst p eccs => Sys2Proof.Machine.execLoftScrubBurst p eccs s
  | .stackTempReadout p temp => Sys2Proof.Machine.execStackTempReadout p temp s
  | .memMapWrite ag v => Sys2Proof.Machine.execMemMapWrite ag v s
  | .memCntctl p => Sys2Proof.Machine.execMemCntctl p s
  | .holCntctl k => Sys2Proof.Machine.execHolCntctl k s
  | .vatCntctl c => Sys2Proof.Machine.execVatCntctl c s
  | .vatCerrctl c => Sys2Proof.Machine.execVatCerrctl c s
  | .linkBlock p b => Sys2Proof.Machine.execLinkBlock p b s
  | .creditTimeout p vl => Sys2Proof.Machine.execCreditTimeout p vl s
  | .park p => Sys2Proof.Machine.execPark p s
  | .linkTrainingDone p partner pport lanes => Sys2Proof.Machine.execLinkTrainingDone p partner pport lanes s
  | .linkTrainingTimeout p => Sys2Proof.Machine.execLinkTrainingTimeout p s
  | .flitRoute src vl => Sys2Proof.Machine.execFlitRoute src vl s
  | .requestTimeout tag => Sys2Proof.Machine.execRequestTimeout tag s
  | .noticeSend p n => Sys2Proof.Machine.execNoticeSend p n s
  | .coalescerHold r => Sys2Proof.Machine.execCoalescerHold r s
  | .dlnFcclose r => Sys2Proof.Machine.execDlnFcclose r s
  | .chainFlitProcess bucket => Sys2Proof.Machine.execChainFlitProcess bucket s
  | .bktpost bucket => Sys2Proof.Machine.execBktpost bucket s
  | .bktpostRet bucket => Sys2Proof.Machine.execBktpostRet bucket s
  | .bktctlReset bucket step => Sys2Proof.Machine.execBktctlReset bucket step s
  | .dlnPcfgWrite p role => Sys2Proof.Machine.execDlnPcfgWrite p role s
  | .moverGo ag q v => Sys2Proof.Machine.execMoverGo ag q v s
  | .moverBatchDone q hostData hostEnd => Sys2Proof.Machine.execMoverBatchDone q hostData hostEnd s
  | .takePost ag ch => Sys2Proof.Machine.execTakePost ag ch s
  | .mbxDbset ag ch v => Sys2Proof.Machine.execMbxDbset ag ch v s
  | .mbxDbClear ag ch v => Sys2Proof.Machine.execMbxDbClear ag ch v s
  | .mbxCrst ag ch => Sys2Proof.Machine.execMbxCrst ag ch s
  | .mbxHpost ag area v => Sys2Proof.Machine.execMbxHpost ag area v s
  | .hostRead bar off size => Sys2Proof.Machine.execHostRead bar off size s
  | .hostWrite bar off data => Sys2Proof.Machine.execHostWrite bar off data s
  | .pcap v => Sys2Proof.Machine.execPcap v s
  | .smbusLoft v => Sys2Proof.Machine.execSmbusLoft v s
  | .apply ch => Sys2Proof.Machine.execApply ch s
  | .swap ch => Sys2Proof.Machine.execSwap ch s
  | .selftestDone failed => Sys2Proof.Machine.execSelftestDone failed s
  | .sensorSample sensor reading => Sys2Proof.Machine.execSensorSample sensor reading s
  | .throttleUpdate est => Sys2Proof.Machine.execThrottleUpdate est s
  | .pwrCapWrite ag v => Sys2Proof.Machine.execPwrCapWrite ag v s
  | .clrpeak ag => Sys2Proof.Machine.execClrpeak ag s
  | .errRptrWrite ag v => Sys2Proof.Machine.execErrRptrWrite ag v s
  | .clrlost ag => Sys2Proof.Machine.execClrlost ag s
  | .coreEvctl k => Sys2Proof.Machine.execCoreEvctl k s
  | .registerWrite ag off size v => Sys2Proof.Machine.execRegisterWrite ag off size v s
  | .samplePreload pins preload => Sys2Proof.Machine.execSamplePreload pins preload s
  | .debug op => Sys2Proof.Machine.execDebug op s
  | .completionTimeout q => Sys2Proof.Machine.execCompletionTimeout q s
  | .hostPortLinkUp rate width flit => Sys2Proof.Machine.execHostPortLinkUp rate width flit s
  | .configurationWrite w => Sys2Proof.Machine.execConfigurationWrite w s
  | .laneSignalLoss p => Sys2Proof.Machine.execLaneSignalLoss p s
  | .linkBlockSend p => Sys2Proof.Machine.execLinkBlockSend p s
  | .parkTimeout p => Sys2Proof.Machine.execParkTimeout p s
  | .imageReadTimeout => Sys2Proof.Machine.execImageReadTimeout s
  | .retry => Sys2Proof.Machine.execRetry s
  | .queueResume => Sys2Proof.Machine.execQueueResume s
  | .rd => Sys2Proof.Machine.execRd s
  | .wr => Sys2Proof.Machine.execWr s
  | .rdrsp => Sys2Proof.Machine.execRdrsp s
  | .wrack => Sys2Proof.Machine.execWrack s
  | .nack => Sys2Proof.Machine.execNack s
  | .notice => Sys2Proof.Machine.execNotice s
  | .chain => Sys2Proof.Machine.execChain s
  | .returnFlit => Sys2Proof.Machine.execReturnFlit s
  | .dlnCerrctl => Sys2Proof.Machine.execDlnCerrctl s
  | .dlnCntctl => Sys2Proof.Machine.execDlnCntctl s
  | .hostPortReset => Sys2Proof.Machine.execHostPortReset s
  | .id => Sys2Proof.Machine.execId s
  | .state => Sys2Proof.Machine.execState s
  | .temp => Sys2Proof.Machine.execTemp s
  | .power => Sys2Proof.Machine.execPower s
  | .watermark => Sys2Proof.Machine.execWatermark s
  | .errcnt => Sys2Proof.Machine.execErrcnt s
  | .errpop => Sys2Proof.Machine.execErrpop s
  | .loftEnter => Sys2Proof.Machine.execLoftEnter s
  | .loftExit => Sys2Proof.Machine.execLoftExit s
  | .loftEntry => Sys2Proof.Machine.execLoftEntry s
  | .loftTimeout => Sys2Proof.Machine.execLoftTimeout s
  | .loftExitRun => Sys2Proof.Machine.execLoftExitRun s
  | .quiesceTimeout => Sys2Proof.Machine.execQuiesceTimeout s
  | .watchdogExpiry => Sys2Proof.Machine.execWatchdogExpiry s
  | .pllLockLost => Sys2Proof.Machine.execPllLockLost s
  | .fatal => Sys2Proof.Machine.execFatal s
  | .bypass => Sys2Proof.Machine.execBypass s
  | .idcode => Sys2Proof.Machine.execIdcode s
  | .extest => Sys2Proof.Machine.execExtest s
  | .clamp => Sys2Proof.Machine.execClamp s
  | .highz => Sys2Proof.Machine.execHighz s
  | .extestPulse => Sys2Proof.Machine.execExtestPulse s
  | .extestTrain => Sys2Proof.Machine.execExtestTrain s
  | .resetNAsserted => Sys2Proof.Machine.execResetNAsserted s

end Sys2Proof.Machine
end

