-- ==== Sys2Proof/Machine/Step.lean ====
section
/-! DEFINITION. One step: the command at the front of the queue, or a period of the die's clock when none waits. -/

namespace Sys2Proof.Machine

/-- One step. With a command waiting: take it off the queue and run it. With none: the block idles, and its cycle counter counts one period once RESET_N is released (R449, log 1). -/
def step (s : State) : Host.Outcome State Fault Refusal :=
  match s.pending with
  | [] => .next (tick s)
  | c :: rest => exec c { s with pending := rest }

/-- No row of the operation table has bits, so no word spells a command: the state is unchanged (log 7). -/
def State.withFetchWord (s : State) (nbits w : Nat) : State :=
  match decodeTableWord nbits w with
  | some c => { s with pending := c :: s.pending }
  | none => s

end Sys2Proof.Machine
end

