-- ==== Sys2Proof/WellFormed.lean ====
section
/-! DEFINITION. Well-formed commands: the unit numbers that a command names exist on the die (R9, R282, R324, R362, R395, R399, R402). Every other operand may hold any value. -/

namespace Sys2Proof

/-- The mailbox channels of R402. -/
def chanOk (ch : Nat) : Bool := decide (ch ≤ 40) || ch == 48 || ch == 49 || ch == 50

/-- Every unit number of the command exists. -/
def Instr.wf : Instr → Bool
  | .powerUpReset _ => true
  | .stackTrainingDone p _ => decide (p < 8)
  | .stackTrainingTimeout p => decide (p < 8)
  | .hostboot _ _ _ => true
  | .nop k => decide (k < 40)
  | .halt k => decide (k < 40)
  | .syncx k => decide (k < 40)
  | .isync k => decide (k < 40)
  | .fenceFull k => decide (k < 40)
  | .fenceLl k => decide (k < 40)
  | .fenceSs k => decide (k < 40)
  | .fenceAcq k => decide (k < 40)
  | .fenceRel k => decide (k < 40)
  | .fenceDev k => decide (k < 40)
  | .trap k => decide (k < 40)
  | .eret k => decide (k < 40)
  | .crd k _ _ => decide (k < 40)
  | .cwr k _ _ => decide (k < 40)
  | .csum k _ => decide (k < 40)
  | .post k _ _ => decide (k < 40)
  | .postGrant ch => chanOk ch
  | .slli k _ _ _ => decide (k < 40)
  | .srli k _ _ _ => decide (k < 40)
  | .srai k _ _ _ => decide (k < 40)
  | .lih k _ _ _ => decide (k < 40)
  | .add k _ _ _ _ => decide (k < 40)
  | .sub k _ _ _ _ => decide (k < 40)
  | .and k _ _ _ _ => decide (k < 40)
  | .or k _ _ _ _ => decide (k < 40)
  | .xor k _ _ _ _ => decide (k < 40)
  | .sll k _ _ _ _ => decide (k < 40)
  | .srl k _ _ _ _ => decide (k < 40)
  | .sra k _ _ _ _ => decide (k < 40)
  | .slt k _ _ _ _ => decide (k < 40)
  | .sltu k _ _ _ _ => decide (k < 40)
  | .min k _ _ _ _ => decide (k < 40)
  | .max k _ _ _ _ => decide (k < 40)
  | .minu k _ _ _ _ => decide (k < 40)
  | .maxu k _ _ _ _ => decide (k < 40)
  | .mul k _ _ _ _ => decide (k < 40)
  | .mulh k _ _ _ _ => decide (k < 40)
  | .mulhu k _ _ _ _ => decide (k < 40)
  | .div k _ _ _ _ => decide (k < 40)
  | .divu k _ _ _ _ => decide (k < 40)
  | .rem k _ _ _ _ => decide (k < 40)
  | .remu k _ _ _ _ => decide (k < 40)
  | .clz k _ _ _ => decide (k < 40)
  | .popc k _ _ _ => decide (k < 40)
  | .brev k _ _ _ => decide (k < 40)
  | .addi k _ _ _ => decide (k < 40)
  | .andi k _ _ _ => decide (k < 40)
  | .ori k _ _ _ => decide (k < 40)
  | .xori k _ _ _ => decide (k < 40)
  | .ldb k _ => decide (k < 40)
  | .ldbu k _ => decide (k < 40)
  | .ldh k _ => decide (k < 40)
  | .ldhu k _ => decide (k < 40)
  | .ldw k _ => decide (k < 40)
  | .ldwu k _ => decide (k < 40)
  | .ldd k _ => decide (k < 40)
  | .stb k _ => decide (k < 40)
  | .sth k _ => decide (k < 40)
  | .stw k _ => decide (k < 40)
  | .std k _ => decide (k < 40)
  | .fldw k _ => decide (k < 40)
  | .fldd k _ => decide (k < 40)
  | .fstw k _ => decide (k < 40)
  | .fstd k _ => decide (k < 40)
  | .ldud k _ => decide (k < 40)
  | .stud k _ => decide (k < 40)
  | .vld k _ => decide (k < 40)
  | .vst k _ => decide (k < 40)
  | .fadd k _ _ _ _ => decide (k < 40)
  | .fsub k _ _ _ _ => decide (k < 40)
  | .fmul k _ _ _ _ => decide (k < 40)
  | .ffma k _ _ _ _ _ => decide (k < 40)
  | .fmin k _ _ _ _ => decide (k < 40)
  | .fmax k _ _ _ _ => decide (k < 40)
  | .fabs k _ _ _ => decide (k < 40)
  | .fneg k _ _ _ => decide (k < 40)
  | .fcmp k _ _ _ _ _ => decide (k < 40)
  | .fdiv k _ _ _ _ => decide (k < 40)
  | .fsqrt k _ _ _ => decide (k < 40)
  | .fmvgf k _ _ => decide (k < 40)
  | .fmvfg k _ _ => decide (k < 40)
  | .fcvt k _ _ _ _ => decide (k < 40)
  | .vop k _ _ _ _ _ => decide (k < 40)
  | .beq k _ _ _ => decide (k < 40)
  | .bne k _ _ _ => decide (k < 40)
  | .blt k _ _ _ => decide (k < 40)
  | .bge k _ _ _ => decide (k < 40)
  | .bltu k _ _ _ => decide (k < 40)
  | .bgeu k _ _ _ => decide (k < 40)
  | .j k _ => decide (k < 40)
  | .jal k _ => decide (k < 40)
  | .jalr k _ _ _ => decide (k < 40)
  | .customerInstruction k _ _ _ _ _ => decide (k < 40)
  | .interruptTaken k => decide (k < 40)
  | .engineException k => decide (k < 40)
  | .sheetDispatch k _ _ _ _ => decide (k < 40)
  | .sheetDry k => decide (k < 36)
  | .sheetSquash k => decide (k < 36)
  | .slotRelease k => decide (k < 36)
  | .hmv k => decide (k < 36)
  | .copy k _ => decide (k < 36)
  | .fill k _ => decide (k < 36)
  | .holUadd k _ => decide (k < 36)
  | .holUmax k _ => decide (k < 36)
  | .holUmin k _ => decide (k < 36)
  | .vfetch k _ => decide (k < 36)
  | .descriptorComplete k _ => decide (k < 36)
  | .updateRequest p _ => decide (p < 8)
  | .vcmd k => decide (k < 36)
  | .commandWindowPost ag c sl slot _ => decide (ag < 42) && decide (c < 4) && decide (sl < 32) && decide (slot < 64)
  | .vnop c sl => decide (c < 4) && decide (sl < 32)
  | .kvgather c sl => decide (c < 4) && decide (sl < 32)
  | .qload c sl => decide (c < 4) && decide (sl < 32)
  | .score c sl => decide (c < 4) && decide (sl < 32)
  | .vatUadd c sl => decide (c < 4) && decide (sl < 32)
  | .vatUmax c sl => decide (c < 4) && decide (sl < 32)
  | .vatUmin c sl => decide (c < 4) && decide (sl < 32)
  | .sumsq c sl => decide (c < 4) && decide (sl < 32)
  | .meanvar c sl => decide (c < 4) && decide (sl < 32)
  | .vatCommandComplete c sl => decide (c < 4) && decide (sl < 32)
  | .tld k => decide (k < 36)
  | .tst k => decide (k < 36)
  | .bld k => decide (k < 36)
  | .mma k => decide (k < 36)
  | .chout k => decide (k < 36)
  | .chainBlockArrival k => decide (k < 36)
  | .cal k => decide (k < 36)
  | .calComplete k => decide (k < 36)
  | .enop k => decide (k < 36)
  | .ebar k => decide (k < 36)
  | .esave k _ => decide (k < 36)
  | .erestore k => decide (k < 36)
  | .ewr k => decide (k < 36)
  | .nmodeWrite ag k _ => decide (ag < 42) && decide (k < 36)
  | .discard ag k _ => decide (ag < 42) && decide (k < 36)
  | .resume ag k => decide (ag < 42) && decide (k < 36)
  | .engCsumqClear ag k => decide (ag < 42) && decide (k < 36)
  | .coreDtabDataWrite ag k _ => decide (ag < 42) && decide (k < 40)
  | .tprobe k _ => decide (k < 40)
  | .tlockLock k _ _ => decide (k < 40)
  | .tlockUnlock k _ _ => decide (k < 40)
  | .tlbiAll k _ => decide (k < 40)
  | .tlbiAsid k _ _ => decide (k < 40)
  | .tlbiVa k _ _ _ => decide (k < 40)
  | .tlbiVaAll k _ _ => decide (k < 40)
  | .tlbiComplete k => decide (k < 40)
  | .vatAddrwWrite ag c _ => decide (ag < 42) && decide (c < 4)
  | .vatEnable ag c => decide (ag < 42) && decide (c < 4)
  | .vatDisable ag c => decide (ag < 42) && decide (c < 4)
  | .inv ag c => decide (ag < 42) && decide (c < 4)
  | .clean ag c => decide (ag < 42) && decide (c < 4)
  | .cleanInv ag c => decide (ag < 42) && decide (c < 4)
  | .zero ag c => decide (ag < 42) && decide (c < 4)
  | .invAll ag c => decide (ag < 42) && decide (c < 4)
  | .cleanInvAll ag c => decide (ag < 42) && decide (c < 4)
  | .rangeComplete c => decide (c < 4)
  | .vatWaydisWrite ag c sl _ => decide (ag < 42) && decide (c < 4) && decide (sl < 32)
  | .wayErrorPeriod c => decide (c < 4)
  | .vatOffer k _ => decide (k < 36)
  | .vatFill c _ _ _ => decide (c < 4)
  | .patrolScrubStep p _ => decide (p < 8)
  | .loftScrubBurst p _ => decide (p < 8)
  | .stackTempReadout p _ => decide (p < 8)
  | .memMapWrite ag _ => decide (ag < 42)
  | .memCntctl p => decide (p < 8)
  | .holCntctl k => decide (k < 36)
  | .vatCntctl c => decide (c < 4)
  | .vatCerrctl c => decide (c < 4)
  | .linkBlock p _ => decide (p < 24)
  | .creditTimeout p _ => decide (p < 24)
  | .park p => decide (p < 24)
  | .linkTrainingDone p _ _ _ => decide (p < 24)
  | .linkTrainingTimeout p => decide (p < 24)
  | .flitRoute src _ => decide (src < 25)
  | .requestTimeout _ => true
  | .noticeSend p _ => decide (p < 24)
  | .coalescerHold r => decide (r < 65)
  | .dlnFcclose _ => true
  | .chainFlitProcess _ => true
  | .bktpost _ => true
  | .bktpostRet _ => true
  | .bktctlReset _ _ => true
  | .dlnPcfgWrite p _ => decide (p < 24)
  | .moverGo ag q _ => decide (ag < 42) && decide (q < 4)
  | .moverBatchDone q _ _ => decide (q < 4)
  | .takePost ag ch => decide (ag < 42) && chanOk ch
  | .mbxDbset ag ch _ => decide (ag < 42) && chanOk ch
  | .mbxDbClear ag ch _ => decide (ag < 42) && chanOk ch
  | .mbxCrst ag _ => decide (ag < 42)
  | .mbxHpost ag area _ => decide (ag < 42) && decide (area < 3)
  | .hostRead _ _ _ => true
  | .hostWrite _ _ _ => true
  | .pcap _ => true
  | .smbusLoft _ => true
  | .apply ch => (ch == 48 || ch == 50)
  | .swap ch => (ch == 48 || ch == 50)
  | .selftestDone _ => true
  | .sensorSample _ _ => true
  | .throttleUpdate _ => true
  | .pwrCapWrite ag _ => decide (ag < 42)
  | .clrpeak ag => decide (ag < 42)
  | .errRptrWrite ag _ => decide (ag < 42)
  | .clrlost ag => decide (ag < 42)
  | .coreEvctl k => decide (k < 40)
  | .registerWrite ag _ _ _ => decide (ag < 42)
  | .samplePreload _ _ => true
  | .debug _ => true
  | .completionTimeout q => decide (q < 4)
  | .hostPortLinkUp _ _ _ => true
  | .configurationWrite _ => true
  | .laneSignalLoss p => decide (p < 24)
  | .linkBlockSend p => decide (p < 24)
  | .parkTimeout p => decide (p < 24)
  | .imageReadTimeout => true
  | .retry => true
  | .queueResume => true
  | .rd => true
  | .wr => true
  | .rdrsp => true
  | .wrack => true
  | .nack => true
  | .notice => true
  | .chain => true
  | .returnFlit => true
  | .dlnCerrctl => true
  | .dlnCntctl => true
  | .hostPortReset => true
  | .id => true
  | .state => true
  | .temp => true
  | .power => true
  | .watermark => true
  | .errcnt => true
  | .errpop => true
  | .loftEnter => true
  | .loftExit => true
  | .loftEntry => true
  | .loftTimeout => true
  | .loftExitRun => true
  | .quiesceTimeout => true
  | .watchdogExpiry => true
  | .pllLockLost => true
  | .fatal => true
  | .bypass => true
  | .idcode => true
  | .extest => true
  | .clamp => true
  | .highz => true
  | .extestPulse => true
  | .extestTrain => true
  | .resetNAsserted => true

end Sys2Proof
end

