-- ==== Sys2Proof/Safety.lean ====
section
/-! DEFINITION. What counts as a safe run, and the words in which the statements about the die are written: a command that runs, a core that is ready, and a state that differs from another in bookkeeping only. -/

namespace Sys2Proof

/-- The outcome is a next state. -/
def Machine.completes (o : Host.Outcome Machine.State Machine.Fault Machine.Refusal) : Prop := ∃ t, o = .next t

/-- A state from which `n` steps all complete. -/
def Machine.safeFor : Nat → Machine.State → Prop
  | 0, _ => True
  | n + 1, s => ∃ t, Machine.step s = .next t ∧ Machine.safeFor n t

namespace Machine

/-- The registers of a core's block that count events or note pending ones: CORE_IPEND (R226), the event counters (R474) and the hollander's counters (R281). -/
def bookRegs : List Nat :=
  [CORE_IPEND, CORE_EVCNT, CORE_EVCNT + 8, CORE_EVCNT + 16, CORE_EVCNT + 24, CORE_EVCTL, HOL_BYTES, HOL_RAUSE, HOL_RADROP, HOL_CNTCTL]

/-- Core `d` is core `c` but for the registers of `bookRegs`. -/
def SameCore (c d : Core) : Prop := { d with regs := c.regs } = c ∧ ∀ off, off ∉ bookRegs → d.reg off = c.reg off

/-- `t` is `s` but for bookkeeping: counters and pending bits of cores, the error log's entries and its count of lost ones with its OVF bit, pending MSI-X vectors, and messages that have gone out. Every general, floating and vector register, every other register, all memory and every queue agree. -/
def Book (s t : State) : Prop :=
  (∀ k, SameCore (s.core k) (t.core k)) ∧ (∃ p, t.host = { s.host with pba := p }) ∧ t.err.rptr = s.err.rptr ∧
  s.err.wptr ≤ t.err.wptr ∧ (∀ off, off ≠ ERR_CFG → t.errReg off = s.errReg off) ∧
  t.errReg ERR_CFG ||| 0x20000 = s.errReg ERR_CFG ||| 0x20000 ∧ (∃ l, t.outbox = s.outbox ++ l) ∧
  { t with cores := s.cores, host := s.host, err := s.err, outbox := s.outbox } = s

/-- The command runs at `s` and leaves `u`, up to bookkeeping. -/
def Runs (i : Instr) (s u : State) : Prop := ∃ t, exec i s = .next t ∧ Book u t

/-- The state in which the instruction of a core that is ready executes: its word has been fetched, with what that changes in translation caches, caches and the error log, and an error of the core's logic that is due has been logged (R353, R463). FetchKeeps states what it leaves as it was. -/
def begun (s : State) (k : Nat) : State :=
  match s.fetch k (s.core k).pc with
  | .ok u => u.strike (fun l => decide (l = .logic k))
  | _ => s

/-- Core `k` can run, the word at its pc can be fetched, and no uncorrectable error of the core's logic, of a mesh flit or of a directory comes to light with it, which is fatal (R218, R353, R463). -/
def Ready (s : State) (k : Nat) : Prop := k < 40 ∧ s.canRun k = true ∧ (∃ u, s.fetch k (s.core k).pc = .ok u) ∧ (begun s k).tripped = false

/-- The instruction of core `k` takes an exception of its own, precisely: nothing but the fetch goes before it (R221, R222). -/
def excAt (s : State) (k code sub : Nat) (addr : Word) : State :=
  ((begun s k).forgetReads k).takeException k code sub false addr (s.core k).pc none

/-- Core `k` goes on at `target`; a debugger's single step ends (R218, R476). -/
def goAt (s : State) (k : Nat) (target : Word) : State := s.updCore k (fun c => { c with pc := target, dbgStep := false })

/-- Core `k` goes on after its instruction's word. -/
def goNext (s : State) (k : Nat) : State := goAt s k ((s.core k).pc + 4)

/-- `t` is `s` but for bookkeeping, what core `k`'s predictors hold, and the number of choices the die has made; `e`: the engines of the core, as a wrong prediction leaves them (R219). -/
def Predicted (s t : State) (k : Nat) (e : Eng) : Prop :=
  ∃ h b r n, Book { s.updCore k (fun c => { c with eng := e, hist := h, btb := b, ras := r }) with free := n } t

/-- Two states hold the same memory, byte by byte: stacks and vat windows, and every felt. -/
def SameMemory (s t : State) : Prop := (∀ a, t.mem.read a = s.mem.read a) ∧ ∀ k a, t.feltByte k a = s.feltByte k a

end Machine

end Sys2Proof
end

