-- ==== Sys2Proof/Certificates/Slice0/Obligations.lean ====
section
/-! DEFINITION. The statements about the die, for the provers. -/

open Sys2Proof Sys2Proof.Machine

/-- A step runs the command at the front of the queue, and on an empty queue is one period of the clock. For every command c and state s, the step of s with c at the front of its queue is exec of c on s with the queue's rest. When no command waits, a step answers a next state that differs at most in CLK_CYCLE, which is one more once RESET_N is released and unchanged before. That a period passes on an empty queue is the model's choice (log 1); that CLK_CYCLE counts periods from the release of RESET_N is R449. -/
def Obligations.StepRunsFrontOrIdles : Prop :=
  (∀ (c : Instr) (s : State) (rest : List Instr), step { s with pending := c :: rest } = exec c { s with pending := rest }) ∧
  (∀ s : State, s.pending = [] →
    ∃ t, step s = .next t ∧ { t with clk := s.clk } = s ∧ (∀ off, off ≠ CLK_CYCLE → t.clkReg off = s.clkReg off) ∧
      t.clkReg CLK_CYCLE = if s.powered then s.clkReg CLK_CYCLE + 1 else s.clkReg CLK_CYCLE)

/-- Every command on units that exist answers a next state. For every command whose unit numbers exist and every state, exec answers a next state: no command faults and none is refused. A command on a unit that the die does not have faults as noSuchUnit (the model's choice, log 3). -/
def Obligations.WellFormedCommandsComplete : Prop :=
  ∀ (c : Instr) (s : State), (c.wf = true → completes (exec c s)) ∧ (c.wf = false → exec c s = .fault .noSuchUnit)

namespace Sys2Proof.Machine

/-- The registers of a vat that its cache ways change: the counters (R323) and the ways that are disabled (R301). -/
def vatBookRegs : List Nat := [VAT_HITS, VAT_MISSES, VAT_DECLINED, VAT_CECNT, VAT_CNTCTL] ++ (List.range 32).map (fun sl => VAT_WAYDIS + 8 * sl)

/-- Vat `w` is vat `v` but for what its cache ways hold, their replacement, error counts and stream marks, and the registers of `vatBookRegs`: its queues, command windows, split, range operation and every other register agree. -/
def SameVat (v w : Vat) : Prop :=
  { w with regs := v.regs, lines := v.lines, kept := v.kept, plru := v.plru, wayCe := v.wayCe, stream := v.stream } = v ∧
  ∀ off, off ∉ vatBookRegs → w.reg off = v.reg off

/-- `t` is `s` but for the replacement trees of the vats, which a read that a cache way serves moves (R294). -/
def Touched (s t : State) : Prop := (∀ c, { t.vat c with plru := (s.vat c).plru } = s.vat c) ∧ { t with vats := s.vats } = s

/-- Stack port `q` is port `p` but for its error counters and the address of the first error (R333, R342): its update requests, its scrub position and every other register agree. -/
def SamePort (p q : Port) : Prop :=
  { q with regs := p.regs } = p ∧ ∀ off, off ∉ [MEM_CE, MEM_UE, MEM_CNTCTL, MEM_ERRADDR] → q.reg off = p.reg off

/-- `t` is `s` but for memory, what translation caches, caches and the vats' cache ways hold, the stacks' older copies of lines, poison marks, the counters of cores, vats and memory controllers, new entries of the error log with its outputs, storage errors that have come to light (and whether one of them was an error of logic, which is fatal), and the number of choices the die has made: every core keeps its pc, its general, floating and vector registers, its engines and every register but counters and pending bits, every vat its queues and windows, every port its update requests, and every other block is as before. -/
def CachesOnly (s t : State) : Prop :=
  (∀ j, let c := s.core j
    { t.core j with regs := c.regs, itlb := c.itlb, dtlb := c.dtlb, tlb := c.tlb, htlb := c.htlb, wcache := c.wcache, l2 := c.l2, kept := c.kept, l1d := c.l1d } = c ∧
    ∀ off, off ∉ bookRegs → t.creg j off = s.creg j off) ∧
  (∀ c, SameVat (s.vat c) (t.vat c)) ∧ (∀ p, SamePort (s.port p) (t.port p)) ∧
  (∃ b, t.host = { s.host with pba := b }) ∧ t.err.rptr = s.err.rptr ∧ s.err.wptr ≤ t.err.wptr ∧ (∀ off, off ≠ ERR_CFG → t.errReg off = s.errReg off) ∧
  t.errReg ERR_CFG ||| 0x20000 = s.errReg ERR_CFG ||| 0x20000 ∧
  (∃ b, t.mill = { s.mill with doomed := s.mill.doomed || b }) ∧ t.upsets.Sublist s.upsets ∧ s.free ≤ t.free ∧ (∃ l, t.outbox = s.outbox ++ l) ∧
  { t with cores := s.cores, mem := s.mem, stale := s.stale, poison := s.poison, vats := s.vats, ports := s.ports, host := s.host, err := s.err,
           mill := s.mill, upsets := s.upsets, free := s.free, outbox := s.outbox } = s

/-- No copy of a line that core `k` may be given differs from memory: neither its own L2 nor its cluster's vat keeps one (R295, R334). -/
def NoOldCopies (s : State) (k : Nat) : Prop := (s.core k).kept = [] ∧ (s.vat (clusterOf k)).kept = []

end Sys2Proof.Machine

/-- What the fetch of an instruction leaves as it was. On a core that is ready, the state in which its instruction executes differs from the state before it in memory, in what translation caches, caches and the vats' cache ways hold, in poison marks, in the counters of cores, vats and memory controllers, in new entries of the error log with its outputs, and in the storage errors and choices that it has used up, alone: every core keeps its pc, its general, floating and vector registers, its engines, its predictors and every register but counters and pending bits; every vat keeps its queues, command windows, split and range operation, and every memory controller its update requests and scrub position; and every other block of the die is as before. Without an error that the storage reports, and with no copy of a line that differs from memory in the core's caches or its vat, each byte of memory is as before or has its bit 6 set, which is a table entry's A bit (R349). -/
def Obligations.FetchKeeps : Prop :=
  ∀ (s : State) (k : Nat), Ready s k →
    let t := begun s k
    CachesOnly s t ∧
    (s.upsets = [] → NoOldCopies s k → ∀ a, t.mem.read a = s.mem.read a ∨ t.mem.read a = s.mem.read a ||| 0x40)

namespace Sys2Proof.Machine

/-- An instruction of the integer ALU gives `f` of its sources at 64 bits, and at 32 bits `f` of their low halves, sign-extended from bit 31 (R208). -/
def AluLaw (mk : Nat → Bool → Reg → Reg → Reg → Instr) (f : ∀ w : Nat, BitVec w → BitVec w → BitVec w) : Prop :=
  ∀ (s : State) (k : Nat) (d a b : Reg), Ready s k →
    let u := begun s k
    Runs (mk k false d a b) s (goNext (u.setG k d (f 64 (u.greg k a) (u.greg k b))) k) ∧
    Runs (mk k true d a b) s (goNext (u.setG k d ((f 32 ((u.greg k a).setWidth 32) ((u.greg k b).setWidth 32)).signExtend 64)) k)

/-- A register shift gives `f` of its source and its amount when the amount is below the width; a greater amount leaves the value open (log 22), and the instruction completes all the same. -/
def ShiftLaw (mk : Nat → Bool → Reg → Reg → Reg → Instr) (f : ∀ w : Nat, BitVec w → Nat → BitVec w) : Prop :=
  ∀ (s : State) (k : Nat) (d a b : Reg), Ready s k →
    let u := begun s k
    (∃ v, Runs (mk k false d a b) s (goNext (u.setG k d v) k) ∧ ((u.greg k b).toNat < 64 → v = f 64 (u.greg k a) (u.greg k b).toNat)) ∧
    (∃ v : Half, Runs (mk k true d a b) s (goNext (u.setG k d (v.signExtend 64)) k) ∧
      (((u.greg k b).setWidth 32).toNat < 32 → v = f 32 ((u.greg k a).setWidth 32) ((u.greg k b).setWidth 32).toNat))

/-- An instruction of one source, at both widths. -/
def AluLaw1 (mk : Nat → Bool → Reg → Reg → Instr) (f : ∀ w : Nat, BitVec w → BitVec w) : Prop :=
  ∀ (s : State) (k : Nat) (d a : Reg), Ready s k →
    let u := begun s k
    Runs (mk k false d a) s (goNext (u.setG k d (f 64 (u.greg k a))) k) ∧
    Runs (mk k true d a) s (goNext (u.setG k d ((f 32 ((u.greg k a).setWidth 32)).signExtend 64)) k)

/-- An instruction of one source and an immediate value. -/
def ImmLaw (i : Nat → Reg → Reg → Instr) (f : Word → Word) : Prop :=
  ∀ (s : State) (k : Nat) (d a : Reg), Ready s k → Runs (i k d a) s (goNext ((begun s k).setG k d (f ((begun s k).greg k a))) k)

/-- 1 or 0. -/
def bit01 {w : Nat} (b : Bool) : BitVec w := if b then 1 else 0

end Sys2Proof.Machine

/-- ADD, SUB, MUL, MULH, MULHU, AND, OR, XOR, SLT, SLTU, MIN, MAX, MINU and MAXU, and DIV, DIVU, REM and REMU. On a core that can run, ADD, SUB and MUL write the wrapped sum, difference and product of Ga and Gb, MULH and MULHU the high half of the signed and the unsigned product; the bitwise operations, the signed and unsigned comparisons (1 or 0) and the signed and unsigned minimum and maximum write theirs: at 64 bits and, sign-extended from bit 31, at 32 bits. The core goes on after the instruction, and nothing else but counters changes. On a core that can run, DIV and REM divide toward zero as signed numbers, DIVU and REMU as unsigned ones. A zero divisor gives all ones for the quotient and the dividend for the remainder; the most negative value divided by -1 gives that value and remainder 0. At 64 bits and, sign-extended, at 32 bits; nothing else but the pc and counters changes. -/
def Obligations.IntegerArithmetic : Prop :=
  ((AluLaw .add (fun _ x y => x + y) ∧ AluLaw .sub (fun _ x y => x - y) ∧ AluLaw .mul (fun _ x y => x * y) ∧
    AluLaw .mulh (fun w x y => ((x.signExtend (2 * w) * y.signExtend (2 * w)) >>> w).setWidth w) ∧
    AluLaw .mulhu (fun w x y => ((x.setWidth (2 * w) * y.setWidth (2 * w)) >>> w).setWidth w)) ∧
  (AluLaw .and (fun _ x y => x &&& y) ∧ AluLaw .or (fun _ x y => x ||| y) ∧ AluLaw .xor (fun _ x y => x ^^^ y) ∧
    AluLaw .slt (fun _ x y => bit01 (x.slt y)) ∧ AluLaw .sltu (fun _ x y => bit01 (x.ult y)) ∧
    AluLaw .min (fun _ x y => if x.slt y then x else y) ∧ AluLaw .max (fun _ x y => if x.slt y then y else x) ∧
    AluLaw .minu (fun _ x y => if x.ult y then x else y) ∧ AluLaw .maxu (fun _ x y => if x.ult y then y else x))) ∧
  ((AluLaw .div (fun w x y => if y = 0 then BitVec.allOnes w else x.sdiv y) ∧ AluLaw .divu (fun w x y => if y = 0 then BitVec.allOnes w else x / y) ∧
    AluLaw .rem (fun _ x y => if y = 0 then x else x.srem y) ∧ AluLaw .remu (fun _ x y => if y = 0 then x else x % y)) ∧
  ∀ (s : State) (k : Nat) (d a b : Reg), Ready s k → (begun s k).greg k a = BitVec.intMin 64 → (begun s k).greg k b = BitVec.allOnes 64 →
    Runs (.div k false d a b) s (goNext ((begun s k).setG k d (BitVec.intMin 64)) k) ∧ Runs (.rem k false d a b) s (goNext ((begun s k).setG k d 0) k))

/-- The shifts, CLZ, POPC, BREV, the immediate operations and LIH. On a core that can run, a register shift by less than the width gives the shifted value, and by the width or more it completes with a value that the spec does not state (log 22). SLLI, SRLI and SRAI shift by imm16[5:0]. Nothing else but the pc and counters changes. On a core that can run: the count of leading zeros, the count of ones and the reversed bits, at both widths; ADDI with a sign-extended imm16, ANDI, ORI and XORI with a zero-extended one; and LIH, which replaces bits [16k + 15:16k] of Gd and keeps the others. Nothing else but the pc and counters changes. -/
def Obligations.ShiftsBitsAndImmediates : Prop :=
  (ShiftLaw .sll (fun _ x n => x <<< n) ∧ ShiftLaw .srl (fun _ x n => x >>> n) ∧ ShiftLaw .sra (fun _ x n => x.sshiftRight n) ∧
  ∀ sh : BitVec 6, ImmLaw (fun k d a => .slli k d a sh) (fun x => x <<< sh.toNat) ∧ ImmLaw (fun k d a => .srli k d a sh) (fun x => x >>> sh.toNat) ∧
    ImmLaw (fun k d a => .srai k d a sh) (fun x => x.sshiftRight sh.toNat)) ∧
  (AluLaw1 .clz (fun _ x => x.clz) ∧ AluLaw1 .popc (fun _ x => x.cpop) ∧ AluLaw1 .brev (fun _ x => x.reverse) ∧
  (∀ imm : BitVec 16, ImmLaw (fun k d a => .addi k d a imm) (fun x => x + imm.signExtend 64) ∧ ImmLaw (fun k d a => .andi k d a imm) (fun x => x &&& imm.setWidth 64) ∧
    ImmLaw (fun k d a => .ori k d a imm) (fun x => x ||| imm.setWidth 64) ∧ ImmLaw (fun k d a => .xori k d a imm) (fun x => x ^^^ imm.setWidth 64)) ∧
  ∀ (s : State) (k : Nat) (d : Reg) (sel : BitVec 2) (imm : BitVec 16), Ready s k →
    ∃ v, Runs (.lih k d sel imm) s (goNext ((begun s k).setG k d v) k) ∧
      (v >>> (16 * sel.toNat)).setWidth 16 = imm ∧
      ∀ i, i < 64 → (i < 16 * sel.toNat ∨ 16 * sel.toNat + 16 ≤ i) → v.getLsbD i = ((begun s k).greg k d).getLsbD i)

namespace Sys2Proof.Machine

/-- The pc of every core is a word address. -/
def PcAligned (s : State) : Prop := ∀ k, (s.core k).pc &&& 3 = 0

/-- A branch goes to its target when `p` of Ga and Gb holds, else on (R208); its offset is in words from its own address (R201). The wet sheets go when its prediction was wrong: for a branch without an entry in the predictor's tables, backward is taken and forward not (R219). -/
def BranchLaw (mk : Nat → Reg → Reg → BitVec 16 → Instr) (p : Word → Word → Bool) : Prop :=
  ∀ (s : State) (k : Nat) (a b : Reg) (off : BitVec 16), Ready s k → PcAligned s →
    let u := begun s k
    let taken := p (u.greg k a) (u.greg k b)
    ∃ t e, exec (mk k a b off) s = .next t ∧
      Predicted (if taken then goAt u k ((s.core k).pc + 4 * off.signExtend 64) else goNext u k) t k e ∧
      (e = (u.core k).eng ∨ e = (u.core k).eng.squash.1) ∧
      ((s.core k).hist.contains (s.core k).pc = false → e = if off.getLsbD 15 = taken then (u.core k).eng else (u.core k).eng.squash.1)

end Sys2Proof.Machine

/-- BEQ, BNE, BLT, BGE, BLTU, BGEU, J, JAL and JALR, and the IADDR exception of a JALR target that is no word address. On a core that can run and whose pc is a word address (an invariant: PcAlignedKept), a branch whose condition on Ga and Gb holds goes on at its own address plus its offset in words, and else after it, and changes no register; J goes to its address plus its offset in words; JAL writes the address after it to G31 and does the same; JALR goes to Ga plus the sign-extended imm16, formed before Gd takes the return address. A JALR target that is not a multiple of 4 writes no register and raises IADDR, with the target in CORE_EADDR. Where the prediction was wrong the wet sheets go; a branch that has no entry in the predictor's tables is predicted taken when it goes backward and not taken when it goes forward. Nothing else but the predictors and counters changes. -/
def Obligations.ControlTransfers : Prop :=
  (BranchLaw .beq (fun x y => x == y) ∧ BranchLaw .bne (fun x y => x != y) ∧ BranchLaw .blt (fun x y => x.slt y) ∧
    BranchLaw .bge (fun x y => !x.slt y) ∧ BranchLaw .bltu (fun x y => x.ult y) ∧ BranchLaw .bgeu (fun x y => !x.ult y)) ∧
  ∀ (s : State) (k : Nat), Ready s k → PcAligned s →
    let u := begun s k
    (∀ off, ∃ t, exec (.j k off) s = .next t ∧ Predicted (goAt u k ((s.core k).pc + 4 * off.signExtend 64)) t k (u.core k).eng) ∧
    (∀ off, ∃ t, exec (.jal k off) s = .next t ∧
      Predicted (goAt (u.setG k 31 ((s.core k).pc + 4)) k ((s.core k).pc + 4 * off.signExtend 64)) t k (u.core k).eng) ∧
    (∀ d a (imm : BitVec 16), (u.greg k a + imm.signExtend 64) &&& 3 = 0 → ∃ t e, exec (.jalr k d a imm) s = .next t ∧
      Predicted (goAt (u.setG k d ((s.core k).pc + 4)) k (u.greg k a + imm.signExtend 64)) t k e ∧
      (e = (u.core k).eng ∨ e = (u.core k).eng.squash.1)) ∧
    (∀ d a (imm : BitVec 16), (u.greg k a + imm.signExtend 64) &&& 3 ≠ 0 →
      exec (.jalr k d a imm) s = .next (excAt s k excIaddr 0 (u.greg k a + imm.signExtend 64)))

/-- The pc of every core stays a word address. For every state in which the pc of every core is a multiple of 4, if a step answers a next state, the pc of every core is a multiple of 4 there too. -/
def Obligations.PcAlignedKept : Prop :=
  ∀ s t : State, PcAligned s → step s = .next t → PcAligned t

/-- NOP, HALT, ISYNC, ERET, the fences and SYNCX. On a core that can run: NOP and the fences of kinds LL and ACQ only go on; the fences of the other kinds go on when no earlier store of the core is still open, and wait otherwise; HALT in supervisor mode halts the core after the instruction; ISYNC squashes the wet sheets; and ERET in supervisor mode squashes them too, goes to CORE_EPC and takes MODE, IE and EE from PMODE, PIE and PEE, which keep their values (that ERET discards the wet sheets is the model's choice, log 54). HALT and ERET in user mode raise the privileged-instruction exception, precisely. Every one answers a next state. On a core that can run, unless it would change translation while the hollander holds untranslated work, SYNCX makes every staged core control register and the staged decode table the active ones, squashes the wet sheets and goes on; when it would, it waits, and nothing changes (which registers make it wait, CORE_GUARD among them, is the model's choice, log 54). -/
def Obligations.SystemControl : Prop :=
  (∀ (s : State) (k : Nat), Ready s k →
    let u := begun s k
    (∃ t, exec (.nop k) s = .next t ∧ Book (goNext u k) t) ∧
    (∃ t, exec (.fenceLl k) s = .next t ∧ Book (goNext u k) t) ∧ (∃ t, exec (.fenceAcq k) s = .next t ∧ Book (goNext u k) t) ∧
    (u.storesOpen k = false →
      (∃ t, exec (.fenceFull k) s = .next t ∧ Book (goNext u k) t) ∧ (∃ t, exec (.fenceSs k) s = .next t ∧ Book (goNext u k) t) ∧
      (∃ t, exec (.fenceRel k) s = .next t ∧ Book (goNext u k) t) ∧ (∃ t, exec (.fenceDev k) s = .next t ∧ Book (goNext u k) t)) ∧
    (u.storesOpen k = true → ∀ i ∈ [Instr.fenceFull k, .fenceSs k, .fenceRel k, .fenceDev k], exec i s = .next s) ∧
    ((u.core k).sup = true → ∃ t, exec (.halt k) s = .next t ∧ Book (goNext (u.updCore k (fun c => { c with run := .halted })) k) t) ∧
    (∃ t, exec (.isync k) s = .next t ∧ Book (goNext (u.updCore k (fun c => { c with eng := c.eng.squash.1 })) k) t) ∧
    ((u.core k).sup = true → ∃ (t : State) (e : Word), exec (.eret k) s = .next t ∧
      Book (goAt (u.updCore k (fun c => { c.setReg CORE_ESTATE e with eng := c.eng.squash.1 })) k (u.creg k CORE_EPC &&& ~~~3)) t ∧
      (∀ i, i < 3 → e.getLsbD i = (u.creg k CORE_ESTATE).getLsbD (i + 4)) ∧ (∀ i, 4 ≤ i → i < 7 → e.getLsbD i = (u.creg k CORE_ESTATE).getLsbD i)) ∧
    ((u.core k).sup = false → exec (.halt k) s = .next (excAt s k excPriv 0 0) ∧ exec (.eret k) s = .next (excAt s k excPriv 0 0))) ∧
  (∀ (s : State) (k : Nat), Ready s k →
    let u := begun s k
    (((u.core k).translationStaged && (u.core k).eng.untranslated) = true → exec (.syncx k) s = .next s) ∧
    (((u.core k).translationStaged && (u.core k).eng.untranslated) = false → ∃ (t : State) (c : Core), exec (.syncx k) s = .next t ∧
      Book (goNext (u.setCore k c) k) t ∧ (∀ off, isControlClass off = true → c.actReg off = u.creg k off) ∧ c.dtabAct = (u.core k).dtab ∧
      c.eng = (u.core k).eng.squash.1 ∧ { c with act := (u.core k).act, dtabAct := (u.core k).dtabAct, eng := (u.core k).eng } = u.core k))

/-- Taking an exception. After an exception or interrupt of core k is taken: CORE_EPC holds the boundary's address, CORE_ECAUSE the code, subclass and ASYNC, CORE_EADDR the address and CORE_EINFO the micro-op of a customer instruction; PMODE, PIE and PEE hold MODE, IE and EE; the core is in supervisor mode with IE and EE clear and goes on at the active CORE_EVEC; the wet sheets are gone and the dry ones stay; no general, floating or vector register, no memory and no other core but its counters changes. Cites R222. -/
def Obligations.ExceptionEntry : Prop :=
  ∀ (s : State) (k code sub : Nat) (async : Bool) (addr epc : Word) (uidx : Option Nat), code < 256 → sub < 256 → (∀ u ∈ uidx, u < 32) →
    let t := s.takeException k code sub async addr epc uidx
    t.creg k CORE_EPC = epc &&& ~~~3 ∧
    t.creg k CORE_ECAUSE = BitVec.ofNat 64 (code + 2 ^ 8 * sub + if async then 2 ^ 31 else 0) ∧
    t.creg k CORE_EADDR = addr ∧
    t.creg k CORE_EINFO = (match uidx with | some u => BitVec.ofNat 64 (2 ^ 8 + u) | none => 0) ∧
    (t.core k).sup = true ∧ (t.core k).ie = false ∧ (t.core k).ee = false ∧
    (∀ i, i < 3 → (t.creg k CORE_ESTATE).getLsbD (i + 4) = (s.creg k CORE_ESTATE).getLsbD i) ∧
    (t.core k).pc = (s.core k).actReg CORE_EVEC &&& ~~~3 ∧ (t.core k).run = .running ∧
    (t.core k).eng.headbox = (s.core k).eng.headbox.filter (fun h => !h.wet) ∧
    { (t.core k).eng with headbox := (s.core k).eng.headbox, nextSeq := (s.core k).eng.nextSeq } = (s.core k).eng ∧
    (∀ r, t.greg k r = s.greg k r) ∧ (∀ r, t.freg k r = s.freg k r) ∧ (t.core k).v = (s.core k).v ∧ SameMemory s t ∧
    ∀ j, j ≠ k → SameCore (s.core j) (t.core j)

/-- TRAP, INTERRUPT_TAKEN and ENGINE_EXCEPTION take their exceptions. On a core that can run, TRAP takes the exception TRAP at its own address. At an instruction boundary with IE set, INTERRUPT_TAKEN takes the highest-numbered source that is pending and enabled, ASYNC set, SUB naming it; without one nothing happens. At a boundary with EE set and the fault record VALID, ENGINE_EXCEPTION takes ENGINE with ASYNC set. A core whose own remote read is outstanding stands at no boundary (the model's choice, logs 42 and 53). -/
def Obligations.TrapAndAsynchronousExceptions : Prop :=
  ∀ (s : State) (k : Nat),
    (Ready s k → exec (.trap k) s = .next (excAt s k excTrap 0 0)) ∧
    (k < 40 → s.atBoundary k = true → (s.core k).ie = true →
      (∀ src, src < 34 → (s.ipend k &&& s.creg k CORE_IEN).getLsbD src = true → (∀ j, src < j → j < 34 → (s.ipend k &&& s.creg k CORE_IEN).getLsbD j = false) →
        exec (.interruptTaken k) s = .next (s.takeException k excInterrupt src true 0 (s.core k).pc none)) ∧
      ((∀ j, j < 34 → (s.ipend k &&& s.creg k CORE_IEN).getLsbD j = false) → exec (.interruptTaken k) s = .next s)) ∧
    (k < 40 → s.atBoundary k = true → (s.core k).ee = true → (s.core k).frecValid = true →
      exec (.engineException k) s = .next (s.takeException k excEngine 0 true 0 (s.core k).pc none)) ∧
    (∀ q ∈ s.dln.reqs, q.core = k → q.desc = none → q.write = false → s.atBoundary k = false)

namespace Sys2Proof.Machine

/-- The registers that a CWR stores as their map's masks say, without an effect of their own. -/
def plainReg (k off : Nat) : Bool :=
  (rowAt coreMap off).isSome && (isSlot k || !isEngineReg off) &&
  !([ENG_NMODE, ENG_RNG, ENG_SROW, ENG_FCTL, ENG_CSUMQ, HOL_CNTCTL, CORE_EVCTL, CORE_DTAB_DATA, CORE_TLBI, CORE_TLOCK, CORE_TPROBE].contains off)

/-- A CWR of core `k` from Gr stores RW bits, clears the W1C bits and sets the W1S bits written 1 (R7) in the register at an offset; no other register, no active value and nothing else of any core changes, and the core goes on. -/
def CwrStores (s : State) (k : Nat) (r : Reg) (n : BitVec 16) : Prop :=
  let u := begun s k
  let off := n.toNat * 8
  ∃ (t : State) (c : Core), exec (.cwr k r n) s = .next t ∧ Book (goNext (u.setCore k c) k) t ∧
    (∀ row, rowAt coreMap off = some row →
      c.reg off = ((((u.creg k off &&& ~~~row.rw) ||| (u.greg k r &&& row.rw)) &&& ~~~(u.greg k r &&& row.w1c)) ||| (u.greg k r &&& row.w1s))) ∧
    (∀ o, o ≠ off → c.reg o = u.creg k o) ∧ { c with regs := (u.core k).regs } = u.core k

end Sys2Proof.Machine

/-- CRD and CWR in user mode. In user mode a CRD or CWR of any offset outside 0x1000 to 0x1FFF raises the privileged-instruction exception, precisely: it changes nothing else. Inside that range CRD reads the register, and CWR stores the RW bits and clears the W1C bits written 1 of a register that has no effect of its own, ignores an offset without a register and every one of a core without engines, acts on ENG_FCTL as EngineRegisterWrites states, leaves the summary queue of a running core, clears the hollander's counters through HOL_CNTCTL, and raises the illegal-instruction exception for the numeric mode registers of a core with engines; but for that and the pc nothing changes. Cites R206. -/
def Obligations.UserModeControlRegisters : Prop :=
  ∀ (s : State) (k : Nat) (r : Reg) (n : BitVec 16), Ready s k →
    let u := begun s k
    let off := n.toNat * 8
    let v := u.greg k r
    (u.core k).sup = false →
    ((off < 0x1000 ∨ 0x1FFF < off) →
      exec (.crd k r n) s = .next (excAt s k excPriv 0 0) ∧ exec (.cwr k r n) s = .next (excAt s k excPriv 0 0)) ∧
    (0x1000 ≤ off → off ≤ 0x1FFF →
      (∃ t, exec (.crd k r n) s = .next t ∧ Book (goNext (u.setG k r (u.coreRead k off)) k) t) ∧
      (plainReg k off = true → CwrStores s k r n) ∧
      ((rowAt coreMap off = none ∨ (isSlot k = false ∧ isEngineReg off = true) ∨ off = ENG_CSUMQ) → Runs (.cwr k r n) s (goNext u k)) ∧
      (isSlot k = true → numericMode off = true → exec (.cwr k r n) s = .next (excAt s k excIllegal 0 0)) ∧
      (isSlot k = true → off = ENG_FCTL → Runs (.cwr k r n) s (goNext (u.updCore k (fun c => c.writeFctl (v.getLsbD 1) (v.getLsbD 0))) k)) ∧
      (isSlot k = true → off = HOL_CNTCTL → ∃ t, exec (.cwr k r n) s = .next t ∧ Book (goNext u k) t ∧
        (v.getLsbD 8 = true → ∀ o ∈ [HOL_BYTES, HOL_RAUSE, HOL_RADROP], t.creg k o = 0)))

/-- CRD and CWR in supervisor mode, CSUM and the clearing of the summary queue. In supervisor mode CRD writes Gd with what a read of the core's register at 8n gives, zero where there is none. CWR stores RW bits and clears W1C bits written 1 (R7), staged where the register is of the core control class: the active values stay; an offset without a register ignores the write. On a core that can run, CSUM Gd with d at most 28 takes the oldest summary: its sequence number and ANYNAN into Gd, COUNT into Gd+1, SUM into Gd+2, MAX into Gd+3. With an empty queue it waits while an earlier sheet can still post one, and else sets bit 63 of Gd alone. ENG_CSUMQ.CLEAR empties the queue of a halted or held core whose headbox is empty. -/
def Obligations.ControlRegistersAndSummaries : Prop :=
  (∀ (s : State) (k : Nat), Ready s k →
    let u := begun s k
    (u.core k).sup = true →
    (∀ d (n : BitVec 16), (∃ t, exec (.crd k d n) s = .next t ∧ Book (goNext (u.setG k d (u.coreRead k (n.toNat * 8))) k) t) ∧
      (rowAt coreMap (n.toNat * 8) = none → u.coreRead k (n.toNat * 8) = 0)) ∧
    (∀ g (n : BitVec 16), plainReg k (n.toNat * 8) = true → CwrStores s k g n) ∧
    (∀ g (n : BitVec 16), rowAt coreMap (n.toNat * 8) = none → ∃ t, exec (.cwr k g n) s = .next t ∧ Book (goNext u k) t)) ∧
  ((∀ (s : State) (k : Nat) (d : Reg), Ready s k → k < 36 → d.toNat ≤ 28 →
      let u := begun s k
      (∀ m ms, (u.core k).eng.sums = m :: ms → ∃ t, exec (.csum k d) s = .next t ∧ (t.core k).eng.sums = ms ∧ (t.core k).pc = (u.core k).pc + 4 ∧
        t.greg k d = BitVec.ofNat 64 (m.seq % 2 ^ 48 + if m.anyNan then 2 ^ 62 else 0) ∧ t.greg k (d + 1) = BitVec.ofNat 64 m.count ∧
        t.greg k (d + 2) = m.sum ∧ t.greg k (d + 3) = m.max ∧ (∀ r, r ≠ d → r ≠ d + 1 → r ≠ d + 2 → r ≠ d + 3 → t.greg k r = u.greg k r) ∧
        (∀ r, t.freg k r = u.freg k r) ∧ SameMemory u t) ∧
      ((u.core k).eng.sums = [] → (u.core k).eng.sumPending = true → exec (.csum k d) s = .next s) ∧
      ((u.core k).eng.sums = [] → (u.core k).eng.sumPending = false →
        ∃ t, exec (.csum k d) s = .next t ∧ Book (goNext (u.setG k d 0x8000000000000000) k) t)) ∧
  (∀ (s : State) (ag k : Nat), ag < 42 → k < 36 → (s.core k).modeWritable = true →
      exec (.engCsumqClear ag k) s = .next (s.updCore k (fun c => { c with eng := { c.eng with sums := [] } }))))

namespace Sys2Proof.Machine

/-- The access of `n` bytes at `va` lies in one line of stack memory, at `pa`; its translation, when it is checked and when it is made, changes nothing; the bytes carry no poison, no error is to be reported, and no cache keeps a copy that differs from memory. -/
structure PlainLine (s : State) (k va n : Nat) (kind : AccKind) (user : Bool) (pa mt : Nat) : Prop where
  size : 1 ≤ n
  line : va % 64 + n ≤ 64
  low : va < 2 ^ 64
  xlat : ∀ mode ∈ [XMode.check, .read, .set], s.xlat k (BitVec.ofNat 64 va) kind user mode false = (s, .ok pa mt)
  same : pa % 64 = va % 64
  stack : s.target pa = .stack
  good : Tab.get false s.poison (pa / 64) = false
  quiet : s.upsets = []
  alone : NoOldCopies s k

end Sys2Proof.Machine

namespace Sys2Proof.Machine

/-- A load of `z` bytes from stack memory, in a mode that exists, writes its register with them as `put` says, after the update of its base or index register (R202, R204), and goes on; but for that and what caches hold, nothing changes. -/
def LoadLaw (z : Nat) (user : Bool) (mk : Nat → MOp → Instr) (put : Reg → Core → Nat → Core) : Prop :=
  ∀ (s : State) (k : Nat) (m : MOp) (pa mt : Nat), Ready s k → mopBad m = false → (user = true → m.am = 0) → m.ecc = .clean →
    let f := begun s k
    PlainLine f k (mopAddr m (f.core k) z) z .load (asUser f k user) pa mt →
    ∃ t u, exec (mk k m) s = .next t ∧
      Book (goNext (u.updCore k (fun c => put m.t (c.applyUpdate (mopUpdate m (f.core k) z)) (leNat (f.mem.readN pa z)))) k) t ∧
      CachesOnly f u ∧ SameMemory f u

/-- A store of the low `z` bytes of a register to stack memory writes them there, updates its base or index register and goes on; but for that and what caches hold, nothing changes. -/
def StoreLaw (z : Nat) (user : Bool) (mk : Nat → MOp → Instr) (get : Reg → Core → Nat) : Prop :=
  ∀ (s : State) (k : Nat) (m : MOp) (pa mt : Nat), Ready s k → mopBad m = false → (user = true → m.am = 0) → m.ecc = .clean →
    let f := begun s k
    PlainLine f k (mopAddr m (f.core k) z) z .store (asUser f k user) pa mt → f.openStores k < 64 →
    ∃ t u, exec (mk k m) s = .next t ∧ Book (goNext (u.updCore k (fun c => c.applyUpdate (mopUpdate m (f.core k) z))) k) t ∧
      CachesOnly f u ∧ u.mem.readN pa z = leBytes z (get m.t (f.core k)) ∧ ∀ a, (a < pa ∨ pa + z ≤ a) → u.mem.read a = f.mem.read a

/-- Translation is off, and the 8,192 bytes at `a`, a multiple of 64, are stack memory without poison, without an error to report, and without a copy that differs from memory. -/
def PlainVector (f : State) (k a : Nat) : Prop :=
  ((f.core k).actReg CORE_TCTL).getLsbD 0 = false ∧ a % 64 = 0 ∧ f.upsets = [] ∧ NoOldCopies f k ∧
  ∀ i, i < 8192 → f.target (a + i) = .stack ∧ Tab.get false f.poison ((a + i) / 64) = false

end Sys2Proof.Machine

/-- The scalar loads and stores, VLD and VST. On a core that can run, a load in an addressing mode that exists, from bytes of one line of stack memory that its translation allows and that carry no poison, writes its register with them, lowest address first, zero- or sign-extended as its mnemonic says, after the update of the base or index register, so that the loaded value wins (R204); LDUD accesses as user. VLD with AM 0 or 1 and V0 to V15, of 8,192 bytes of stack memory at a multiple of 64, writes all of its V register. The core goes on after the instruction, and but for that and what caches hold nothing changes. On a core that can run, a store in an addressing mode that exists, to bytes of one line of stack memory that its translation allows, with room in the store buffer, writes the low bytes of its register there and then updates its base or index register; STUD accesses as user. VST writes all 8,192 bytes of its V register to stack memory at a multiple of 64. No other byte of memory changes, and but for that and what caches hold nothing else does. -/
def Obligations.LoadsAndStores : Prop :=
  ((LoadLaw 1 false .ldb (fun t c v => c.setG t.toNat ((BitVec.ofNat 8 v).signExtend 64)) ∧ LoadLaw 1 false .ldbu (fun t c v => c.setG t.toNat (BitVec.ofNat 64 v)) ∧
    LoadLaw 2 false .ldh (fun t c v => c.setG t.toNat ((BitVec.ofNat 16 v).signExtend 64)) ∧ LoadLaw 2 false .ldhu (fun t c v => c.setG t.toNat (BitVec.ofNat 64 v)) ∧
    LoadLaw 4 false .ldw (fun t c v => c.setG t.toNat ((BitVec.ofNat 32 v).signExtend 64)) ∧ LoadLaw 4 false .ldwu (fun t c v => c.setG t.toNat (BitVec.ofNat 64 v)) ∧
    LoadLaw 8 false .ldd (fun t c v => c.setG t.toNat (BitVec.ofNat 64 v)) ∧ LoadLaw 8 true .ldud (fun t c v => c.setG t.toNat (BitVec.ofNat 64 v)) ∧
    LoadLaw 4 false .fldw (fun t c v => c.setFlow 32 t.toNat v) ∧ LoadLaw 8 false .fldd (fun t c v => c.setFlow 64 t.toNat v)) ∧
  ∀ (s : State) (k : Nat) (m : MOp), Ready s k → vBad m = false → m.ecc = .clean →
    let f := begun s k
    let a := mopAddr m (f.core k) vsize
    PlainVector f k a →
    ∃ t u, exec (.vld k m) s = .next t ∧ Book (goNext (u.updCore k (fun c => { c with v := c.v.writeN (8192 * m.t.toNat) (f.mem.readN a 8192) })) k) t ∧
      CachesOnly f u ∧ SameMemory f u) ∧
  ((StoreLaw 1 false .stb (fun t c => (c.greg t.toNat).toNat) ∧ StoreLaw 2 false .sth (fun t c => (c.greg t.toNat).toNat) ∧
    StoreLaw 4 false .stw (fun t c => (c.greg t.toNat).toNat) ∧ StoreLaw 8 false .std (fun t c => (c.greg t.toNat).toNat) ∧
    StoreLaw 8 true .stud (fun t c => (c.greg t.toNat).toNat) ∧ StoreLaw 4 false .fstw (fun t c => (c.freg t.toNat).toNat) ∧
    StoreLaw 8 false .fstd (fun t c => (c.freg t.toNat).toNat)) ∧
  ∀ (s : State) (k : Nat) (m : MOp), Ready s k → vBad m = false → m.ecc = .clean →
    let f := begun s k
    let a := mopAddr m (f.core k) vsize
    PlainVector f k a → f.openStores k < 64 →
    ∃ t u, exec (.vst k m) s = .next t ∧ Book (goNext u k) t ∧ CachesOnly f u ∧ u.mem.readN a 8192 = (f.core k).v.readN (8192 * m.t.toNat) 8192 ∧
      ∀ b, (b < a ∨ a + 8192 ≤ b) → u.mem.read b = f.mem.read b)

/-- The addressing modes of the M format. For an access of z bytes: the address of AM 0 to 5, and the register update of each mode as R202 and R203 give them; AM 6 and 7, and AM 5 with a disp8 that is not zero, raise the illegal-instruction exception in every load and store that uses the mode. Cites R203. -/
def Obligations.AddressingModes : Prop :=
  (∀ (c : Core) (m : MOp) (z : Nat),
    let gb := c.greg m.b.toNat
    let x := (m.disp.toNat / 2 ^ 8) % 32
    let gx := c.greg x
    let d13 : Word := m.disp.signExtend 64
    let d8 : Word := (m.disp.setWidth 8).signExtend 64
    (m.am = 0 → BitVec.ofNat 64 (mopAddr m c z) = gb + d13 ∧ mopUpdate m c z = none) ∧
    (m.am = 1 → BitVec.ofNat 64 (mopAddr m c z) = gb + gx * BitVec.ofNat 64 z + d8 ∧ mopUpdate m c z = none) ∧
    (m.am = 2 → BitVec.ofNat 64 (mopAddr m c z) = gb ∧ mopUpdate m c z = some (m.b.toNat, gb + d13)) ∧
    (m.am = 3 → BitVec.ofNat 64 (mopAddr m c z) = gb + d13 ∧ mopUpdate m c z = some (m.b.toNat, gb + d13)) ∧
    (m.am = 4 → BitVec.ofNat 64 (mopAddr m c z) = gb + (gx.setWidth 32).setWidth 64 ∧
      ∃ o : Nat, mopUpdate m c z = some (x, BitVec.ofNat 64 (gx.toNat / 2 ^ 32 * 2 ^ 32 + o)) ∧
        (o : Int) = (((gx.toNat % 2 ^ 32 : Nat) : Int) + d8.toInt) % (if gx.toNat / 2 ^ 32 = 0 then 2 ^ 32 else (gx.toNat / 2 ^ 32 : Nat) : Int)) ∧
    (m.am = 5 → BitVec.ofNat 64 (mopAddr m c z) = gb + (gx.setWidth 32).setWidth 64 ∧
      ((gx.toNat / 2 ^ 32) % 32 = 0 → mopUpdate m c z = some (x, gx)))) ∧
  (∀ (c : Core) (m : MOp) (l : Nat) (b : Nat), l ∈ [0, 1, 2, 3] → m.am = 5 → 1 ≤ b → b ≤ 24 →
    let x := (m.disp.toNat / 2 ^ 8) % 32
    let gx := (c.greg x).toNat
    ((gx / 2 ^ 32) % 32 = b ∨ (25 ≤ (gx / 2 ^ 32) % 32 ∧ b = 24)) →
    let j := (gx % 2 ^ 32 / 2 ^ l) % 2 ^ b
    let next : BitVec b := ((BitVec.ofNat b j).reverse + 1).reverse
    mopUpdate m c (2 ^ l) = some (x, BitVec.ofNat 64 (gx / 2 ^ 32 * 2 ^ 32 + next.toNat * 2 ^ l))) ∧
  (∀ (s : State) (k : Nat) (m : MOp), Ready s k → (m.am = 6 ∨ m.am = 7 ∨ (m.am = 5 ∧ m.disp.setWidth 8 ≠ 0)) →
    ∀ i ∈ [Instr.ldb k m, .ldbu k m, .ldh k m, .ldhu k m, .ldw k m, .ldwu k m, .ldd k m, .ldud k m, .fldw k m, .fldd k m,
        .stb k m, .sth k m, .stw k m, .std k m, .stud k m, .fstw k m, .fstd k m],
      exec i s = .next (excAt s k excIllegal 0 0))

/-- What a load of stack memory reads and what a store to it writes. A core's load of bytes that lie in one line of stack memory, whose translation is done without a table walk, that carry no poison, in which no error is found and of which no cache keeps a copy that differs from memory, answers those bytes of memory, lowest address first, and changes no byte of memory, no register of a core but counters, and nothing else but what caches hold. A core's store of bytes to one line of stack memory, whose translation is done without a table walk, in which no error is found and of which no cache keeps a copy that differs from memory, is performed, with room in the store buffer: at the physical address that the translation gives, those bytes of memory hold the stored bytes, every other byte of memory and of every felt is as before, no register of a core but counters changes, and nothing else but what caches hold. A misaligned access to a felt window or to control space raises ALIGN, and changes nothing before it, for a store and for a load (R252). -/
def Obligations.StackAccesses : Prop :=
  (∀ (s : State) (k va n pa mt : Nat) (user : Bool), PlainLine s k va n .load user pa mt →
    ∃ u, s.coreLoad k va n user .clean = .ok u (s.mem.readN pa n) ∧ SameMemory s u ∧ CachesOnly s u) ∧
  ((∀ (s : State) (k va pa mt : Nat) (bs : List Byte) (user : Bool), PlainLine s k va bs.length .store user pa mt → s.openStores k < 64 →
    ∃ u, s.coreStore k va bs user .clean = .ok u () ∧ u.mem.readN pa bs.length = bs ∧
      (∀ a, (a < pa ∨ pa + bs.length ≤ a) → u.mem.read a = s.mem.read a) ∧ CachesOnly s u) ∧
  (∀ (s : State) (k va : Nat) (ps : List Piece) (bs : List Byte) (user : Bool) (ecc : Ecc), s.checkAccess k .store user (chunks 4096 va bs.length) = .ok ps →
    s.misaligned va bs.length ps = true → s.coreStore k va bs user ecc = .exc s excAlign 0 (BitVec.ofNat 64 va)) ∧
  ∀ (s : State) (k va n : Nat) (ps : List Piece) (user : Bool) (ecc : Ecc), s.checkAccess k .load user (chunks 4096 va n) = .ok ps →
    s.misaligned va n ps = true → s.coreLoad k va n user ecc = .exc s excAlign 0 (BitVec.ofNat 64 va))

/-- The rounding of a quotient by a power of two, and the encodings of every number format. The rounding of m / 2^sh with sign neg gives one of the two neighbours of the exact quotient, the quotient itself with no inexactness when it is whole: to nearest, the nearer one and of two equally near ones the even one; toward zero the lower magnitude; toward +inf and -inf the neighbour on that side of the signed value; and stochastically the greater magnitude exactly when the first 16 bits of the discarded fraction and the draw sum to 65,536 or more. For every element format and every encoding of it that is no NaN, under every rounding, the value that the encoding holds converts back to that same encoding, with no flag raised: no format loses a bit of what it holds, subnormal values and both zeros included. An encoding of an IEEE format that is a quiet NaN also comes back. -/
def Obligations.NumberFormats : Prop :=
  (∀ (neg : Bool) (m sh : Nat), (∀ rm, m % 2 ^ sh = 0 → roundShift rm neg m sh = (m / 2 ^ sh, false)) ∧
    (m % 2 ^ sh ≠ 0 →
      (∀ rm, (roundShift rm neg m sh).2 = true ∧ ((roundShift rm neg m sh).1 = m / 2 ^ sh ∨ (roundShift rm neg m sh).1 = m / 2 ^ sh + 1)) ∧
      (∀ n, n = (roundShift .nearest neg m sh).1 →
        2 * n * 2 ^ sh ≤ 2 * m + 2 ^ sh ∧ 2 * m ≤ 2 * n * 2 ^ sh + 2 ^ sh ∧ (2 * n * 2 ^ sh = 2 * m + 2 ^ sh ∨ 2 * m = 2 * n * 2 ^ sh + 2 ^ sh → n % 2 = 0)) ∧
      (roundShift .zero neg m sh).1 = m / 2 ^ sh ∧
      (roundShift .up neg m sh).1 = m / 2 ^ sh + (if neg then 0 else 1) ∧ (roundShift .down neg m sh).1 = m / 2 ^ sh + (if neg then 1 else 0) ∧
      ∀ d, d < 65536 → (roundShift (.stoch d) neg m sh).1 = m / 2 ^ sh + (if 65536 ≤ (m % 2 ^ sh) * 65536 / 2 ^ sh + d then 1 else 0))) ∧
  (∀ (f : Fmt) (rm : RMode) (b : Nat), b < 2 ^ f.bits →
    ((decodeElem f b).isNan = false → (convElem f rm false (decodeElem f b)).bits = b ∧ (convElem f rm false (decodeElem f b)).flags = {}) ∧
    ((decodeElem f b).isNan = true → (decodeElem f b).isSig = false → f ∈ [Fmt.fp32, .fp16, .fp64] →
      (convElem f rm false (decodeElem f b)).bits = b ∧ (convElem f rm false (decodeElem f b)).flags = {}))

namespace Sys2Proof.Machine

/-- The instruction of core `k` takes FPTRAP: it has set its flags and written no destination (R228). -/
def fpTrapAt (s : State) (k : Nat) (fl : Flags) : State :=
  ((((begun s k).updCore k (fun c => c.setFctl fl)).forgetReads k).takeException k excFptrap 0 false 0 (s.core k).pc none)

/-- A floating instruction with an F destination (R210, R228): the exact result of `op`, rounded once to the format under CORE_FCTL.RMODE. Without an enabled trap it sets its flags and writes Fd; with one it sets them, writes nothing and takes FPTRAP. -/
def FloatLaw (mk : Nat → Bool → Instr) (d : Reg) (op : Fmt → Core → FV × Flags) : Prop :=
  ∀ (s : State) (k : Nat) (dbl : Bool), Ready s k →
    let u := begun s k
    let c := u.core k
    let f := fpFmt dbl
    let r := rnd f c.frm false (op f c)
    (c.fpTraps r.2 = false → Runs (mk k dbl) s (goNext (u.updCore k (fun c => (c.setFctl r.2).setFlow f.bits d.toNat r.1)) k)) ∧
    (c.fpTraps r.2 = true → exec (mk k dbl) s = .next (fpTrapAt s k r.2))

end Sys2Proof.Machine

/-- FADD, FSUB, FMUL, FFMA, FDIV, FSQRT, FMIN, FMAX, FABS, FNEG, FCMP, FMVGF, FMVFG and FCVT. On a core that can run, each floating operation, FP32 or FP64, rounds its exact result once under CORE_FCTL.RMODE, sets its sticky flags and writes Fd; the bits of Fd above an FP32 value are open (log 23). When it raises a condition whose trap is enabled, it writes no destination, sets the flags, and takes FPTRAP. Nothing else but the pc and counters changes. On a core that can run: FABS and FNEG clear and flip the sign bit and raise nothing; FCMP with a condition of R159 writes 1 or 0 to Gd, and one it does not list is an encoding error (log 25); FMVGF and FMVFG move bits; FCVT between FP32, FP16, FP64 and I32 converts under CORE_FCTL.RMODE with its flags, an I32 value standing sign-extended in a G register (log 24), and any other format code is an encoding error. An enabled trap writes no destination and takes FPTRAP. -/
def Obligations.FloatingInstructions : Prop :=
  (∀ d a b e : Reg,
    FloatLaw (fun k x => .fadd k x d a b) d (fun f c => addFV c.frm (c.fval f a) (c.fval f b)) ∧
    FloatLaw (fun k x => .fsub k x d a b) d (fun f c => subFV c.frm (c.fval f a) (c.fval f b)) ∧
    FloatLaw (fun k x => .fmul k x d a b) d (fun f c => mulFV (c.fval f a) (c.fval f b)) ∧
    FloatLaw (fun k x => .ffma k x d a b e) d (fun f c => fmaFV c.frm (c.fval f a) (c.fval f b) (c.fval f e)) ∧
    FloatLaw (fun k x => .fdiv k x d a b) d (fun f c => divFV (c.fval f a) (c.fval f b)) ∧
    FloatLaw (fun k x => .fsqrt k x d a) d (fun f c => sqrtFV (c.fval f a)) ∧
    FloatLaw (fun k x => .fmin k x d a b) d (fun f c => minmaxFV false (c.fval f a) (c.fval f b)) ∧
    FloatLaw (fun k x => .fmax k x d a b) d (fun f c => minmaxFV true (c.fval f a) (c.fval f b))) ∧
  (∀ (s : State) (k : Nat) (d a b : Reg), Ready s k →
    let u := begun s k
    (∀ dbl : Bool,
      let w := if dbl then 64 else 32
      let x := (u.freg k a).toNat % 2 ^ w
      Runs (.fabs k dbl d a) s (goNext (u.updCore k (fun c => c.setFlow w d.toNat (x % 2 ^ (w - 1)))) k) ∧
      Runs (.fneg k dbl d a) s (goNext (u.updCore k (fun c => c.setFlow w d.toNat (x ^^^ 2 ^ (w - 1)))) k)) ∧
    (∀ (dbl : Bool) (cond : BitVec 5),
      let c := u.core k
      let r := cmpFV cond.toNat (c.fval (fpFmt dbl) a) (c.fval (fpFmt dbl) b)
      (6 ≤ cond.toNat → exec (.fcmp k dbl d a b cond) s = .next (excAt s k excIllegal 0 0)) ∧
      (cond.toNat < 6 → c.fpTraps r.2 = false →
        Runs (.fcmp k dbl d a b cond) s (goNext (u.updCore k (fun c => (c.setFctl r.2).setG d.toNat (if r.1 then 1 else 0))) k)) ∧
      (cond.toNat < 6 → c.fpTraps r.2 = true →
        exec (.fcmp k dbl d a b cond) s = .next (fpTrapAt s k r.2))) ∧
    Runs (.fmvgf k d a) s (goNext (u.setG k d (u.freg k a)) k) ∧ Runs (.fmvfg k d a) s (goNext (u.setF k d (u.greg k a)) k) ∧
    (∀ df sf : BitVec 5,
      (fcvtFmt df.toNat = none ∨ fcvtFmt sf.toNat = none → exec (.fcvt k d a df sf) s = .next (excAt s k excIllegal 0 0)) ∧
      (∀ g f, fcvtFmt df.toNat = some g → fcvtFmt sf.toNat = some f →
        let c := u.core k
        let v := if f = .i32 then FV.ofInt ((u.greg k a).setWidth 32).toInt else c.fval f a
        let r := convElem g c.frm false v
        (c.fpTraps r.flags = false → Runs (.fcvt k d a df sf) s (goNext (u.updCore k (fun c =>
          if g = .i32 then (c.setFctl r.flags).setG d.toNat ((BitVec.ofNat 32 r.bits).signExtend 64) else (c.setFctl r.flags).setFlow g.bits d.toNat r.bits)) k)) ∧
        (c.fpTraps r.flags = true →
          exec (.fcvt k d a df sf) s = .next (fpTrapAt s k r.flags)))))

namespace Sys2Proof.Machine

/-- Lane `i` of `z` bytes of a V register. -/
def vLane (c : Core) (r z i : Nat) : Nat := c.v.readLE (8192 * r + i * z) z

end Sys2Proof.Machine

/-- VOP. On a core that can run, a VOP of a kind that its element type allows, on V0 to V15, writes to every lane of Vd the operation on the same lanes of Va and Vb (and Vd, for FMA), and changes no byte of another V register, when no enabled trap is raised; its flags are those of every lane. With an enabled trap it writes nothing, sets the flags and takes FPTRAP. A kind or a type that does not exist, or a V register above V15, is an encoding error (the model's choice, logs 25 and 63). Which comparison CMP makes, which operand SEL takes and which format CVT rounds to are open (log 26): the statement holds whichever they are; a CVT to a scaled format takes one scale for each 32 lanes. -/
def Obligations.LongVectorOperations : Prop :=
  ∀ (s : State) (k : Nat) (kind : BitVec 6) (d a b : Reg) (et : BitVec 5), Ready s k →
    ((vopOk kind.toNat et.toNat = false ∨ 16 ≤ d.toNat ∨ 16 ≤ a.toNat ∨ 16 ≤ b.toNat) →
      exec (.vop k kind d a b et) s = .next (excAt s k excIllegal 0 0)) ∧
    (vopOk kind.toNat et.toNat = true → d.toNat < 16 → a.toNat < 16 → b.toNat < 16 →
      let u := begun s k
      let c := u.core k
      let f := vopFmt et.toNat
      let z := f.bits / 8
      let fmt := vopCvtFmt et.toNat
      let scale := fun i => if kind.toNat = 0x0B ∧ fmt.scaled = true
        then some (scaleFor fmt.elem ((List.range 32).map (fun j => decodeElem f (vLane c a.toNat z (i / 32 * 32 + j))))) else none
      let lane := fun i => if et.toNat = 2 then (vopInt kind.toNat (vLane c a.toNat z i) (vLane c b.toNat z i), ({} : Flags))
        else vopFloat f c.frm kind.toNat et.toNat (vLane c a.toNat z i) (vLane c b.toNat z i) (vLane c d.toNat z i) (scale i)
      ∃ fl : Flags, (∀ n, fl.fctl.testBit n = (List.range (8192 / z)).any (fun i => (lane i).2.fctl.testBit n)) ∧
        (c.fpTraps fl = true → exec (.vop k kind d a b et) s = .next (fpTrapAt s k fl)) ∧
        (c.fpTraps fl = false → ∃ v : Mem, Runs (.vop k kind d a b et) s (goNext (u.updCore k (fun c => { c.setFctl fl with v := v })) k) ∧
          (∀ i, i < 8192 / z → v.readLE (8192 * d.toNat + i * z) z = (lane i).1 % 2 ^ f.bits) ∧
          (∀ o, (o < 8192 * d.toNat ∨ 8192 * d.toNat + 8192 ≤ o) → v.read o = c.v.read o)))

namespace Sys2Proof.Machine

/-- The micro-ops of a customer instruction run one after another: each answers and hands its state on (R215). -/
def MicrosRun : State → List (State → Res (Option Word)) → State → Prop
  | s, [], t => t = s
  | s, b :: bs, t => ∃ u target, b s = .ok u target ∧ MicrosRun u bs t

end Sys2Proof.Machine

/-- CUSTOMER_INSTRUCTION. On a core that can run, a customer opcode whose active VALID bit is 0 is an encoding error. One whose micro-ops are all valid and all answer has the effect of the micro-ops in order and goes on after its one word, counting their number. A micro-op that is not valid raises the illegal-instruction exception with its index in CORE_EINFO; one that faults leaves every register and memory location as before the instruction, and its exception is taken at the instruction with its index. -/
def Obligations.CustomerInstructions : Prop :=
  ∀ (s : State) (k : Nat) (op : BitVec 4) (rd ra rb : Reg) (imm : BitVec 7), Ready s k →
    let u := begun s k
    let c := s.core k
    let es := custEntries c op.toNat 32
    ((c.actReg CORE_DTAB_SEL).getLsbD (16 + op.toNat) = false →
      ∃ i, exec (.customerInstruction k op rd ra rb imm) s = .next (u.takeException k excIllegal 0 false 0 c.pc (some i))) ∧
    ((c.actReg CORE_DTAB_SEL).getLsbD (16 + op.toNat) = true →
      (∀ i, custMicros k ⟨rd, ra, rb, imm⟩ 0 es = .error i →
        exec (.customerInstruction k op rd ra rb imm) s = .next (u.takeException k excIllegal 0 false 0 c.pc (some i))) ∧
      (∀ bs, custMicros k ⟨rd, ra, rb, imm⟩ 0 es = .ok bs →
        (∀ t, MicrosRun u bs t → ∃ v, exec (.customerInstruction k op rd ra rb imm) s = .next v ∧ Book (goNext t k) v) ∧
        (∀ as b cs w t code sub addr, bs = as ++ b :: cs → MicrosRun u as w → b w = .exc t code sub addr →
          ∃ v : State, exec (.customerInstruction k op rd ra rb imm) s = .next (v.takeException k code sub false addr c.pc (some as.length)) ∧
            (u.upsets = [] → v.mem = u.mem ∧ ∀ j, SameCore (u.core j) (v.core j)))))

namespace Sys2Proof.Machine

/-- `t` is `s` but for caches (CachesOnly) and the engines of core `k`, which are `e`. -/
def CachesAndEng (s t : State) (k : Nat) (e : Eng) : Prop :=
  CachesOnly s (t.updCore k (fun c => { c with eng := (s.core k).eng })) ∧ (t.core k).eng = e

end Sys2Proof.Machine

/-- SHEET_DISPATCH. On a core slot that dispatches, a sheet of slots that can stand in one sheet, with no encoding error, at a word address from which all its words can be fetched, enters the headbox wet when it has room: it takes the next sequence number, keeps its address and slots, and the count of slots gone is 0. Dispatch changes nothing else of the die but caches and counters, run-ahead or not: no other core's engines, no register of any core, and, without an error that the storage reports, no byte of memory but for a table entry's A bit, which the fetch sets. -/
def Obligations.SheetDispatch : Prop :=
  ∀ (s u : State) (k : Nat) (addr : Word) (slots : List Word) (hval : Word) (ahead : Bool),
    let e := (s.core k).eng
    k < 36 → s.dispatches k = true → sheetForm slots = true → addr &&& 3 = 0 → s.fetchSheet k addr (2 * slots.length) 0 = some (u, none) →
    sheetBad slots = false → e.headbox.length < 256 → (e.headbox.filter Sheet.wet).length < 64 →
    ∃ t reads, exec (.sheetDispatch k addr slots hval ahead) s = .next t ∧
      CachesAndEng s t k { e with
        headbox := e.headbox ++ [⟨e.nextSeq, addr, true, slots.length, 0, slots.map (fun w => ⟨w, []⟩), hval, !(s.core k).sup, [], reads⟩],
        nextSeq := (e.nextSeq + 1) % 2 ^ 48 } ∧
      (ahead = false → reads = []) ∧
      (s.upsets = [] → ∀ a, t.mem.read a = s.mem.read a ∨ t.mem.read a = s.mem.read a ||| 0x40)

namespace Sys2Proof.Machine

/-- The operation that a slot of a sheet becomes when it leaves the headbox: a C slot takes the 256 bytes of its descriptor with it, where its address allows that (R144), and notes a bad felt unit among them (R254). -/
def releasedOp (e : Eng) (h : Sheet) (x : Slot) : EngOp :=
  let off := (x.gv.headD 0).toNat
  let readable : Prop := slotUnit x.word = unitC ∧ off % 64 = 0 ∧ off + 256 ≤ feltSize
  { seq := h.seq, pos := h.gone, word := x.word, gv := x.gv, user := h.user, vcap := if slotUnit x.word = unitC then h.vcap else [],
    desc := if readable then e.felt.readN off 256 else [], bad := if readable then badUnit e.feltBad off 256 else none }

end Sys2Proof.Machine

/-- SHEET_DRY, SHEET_SQUASH and SLOT_RELEASE. The oldest wet sheet of a core that can run, when it stands at the pc and holds no EBAR that must wait, dries: its slots capture the G registers that they name, a sheet with a C slot the V registers, the pc moves past its slots, and its operations are the next in program order; one that DISCARD has emptied leaves at once (the model's choice, log 55). SHEET_SQUASH drops every wet sheet, keeps the dry ones, and gives their numbers again. Neither changes a register or memory. The next slot of the oldest sheet, when that is dry, no fault record holds the slots, a C slot's descriptor can be read, and the storage has no error to report: a slot whose check fails leaves, takes no place and no claim, and is recorded as the fault with its lowest code; one whose checks pass and for which its unit's queue and the claim lists have room leaves the headbox, an H slot as its descriptors or vat commands at the hollander, any other at the end of its unit's queue with its claims; without room it stays. -/
def Obligations.SheetProgress : Prop :=
  ((∀ (s : State) (k : Nat) (h : Sheet), k < 36 → s.canRun k = true → (s.core k).eng.headbox.find? Sheet.wet = some h → h.addr = (s.core k).pc →
      (hasEbar (h.slots.map Slot.word) = false ∨ (s.ebarReady k = true ∧ ((s.core k).frecValid = false ∨ ((s.core k).sup = true ∧ (s.core k).ee = false)))) →
      let caught := h.slots.map (fun x => (⟨x.word, (slotRegs x.word).map (s.core k).greg⟩ : Slot))
      let h' : Sheet := { h with wet := false, user := !(s.core k).sup, slots := caught, vcap := if h.slots.any (fun x => slotUnit x.word == unitC) then (s.core k).v else [] }
      Runs (.sheetDry k) s (goAt (s.updCore k (fun c => { c with eng := { c.eng with headbox := if h.slots = [] then c.eng.headbox.filter (fun x => x.seq != h.seq) else c.eng.headbox.map (fun x => if x.seq = h.seq then h' else x), nextDry := (h.seq + 1) % 2 ^ 48 } }))
        k ((s.core k).pc + BitVec.ofNat 64 (8 * h.nslots)))) ∧
  (∀ (s : State) (k : Nat), k < 36 → ∃ n, Runs (.sheetSquash k) s (s.updCore k (fun c => { c with eng := { c.eng with headbox := c.eng.headbox.filter (fun h => !h.wet), nextSeq := n } })) ∧
      (∀ h, (s.core k).eng.headbox.find? Sheet.wet = some h → n = h.seq) ∧ ((s.core k).eng.headbox.find? Sheet.wet = none → n = (s.core k).eng.nextSeq))) ∧
  (∀ (s : State) (k : Nat) (h : Sheet) (hs : List Sheet) (x : Slot), k < 36 → (s.core k).eng.headbox = h :: hs → h.slots[h.gone]? = some x →
    h.wet = false → (s.core k).frecHold = false → s.upsets = [] →
    let e := (s.core k).eng
    let o := releasedOp e h x
    (slotUnit x.word = unitC → e.descReady h.seq h.gone (x.gv.headD 0).toNat = true) →
    let room := e.queueRoom x.word && e.claimRoom (slotClaims o)
    (∀ code detail, lowest (s.slotChecks k o) = some (code, detail) →
      exec (.slotRelease k) s = .next ((s.updCore k (fun c => { c with eng := c.eng.slotGone })).engFault k ⟨h.seq, h.gone, 0, slotUnit x.word, code, 0, detail⟩)) ∧
    (lowest (s.slotChecks k o) = none → room = false → exec (.slotRelease k) s = .next s) ∧
    (lowest (s.slotChecks k o) = none → room = true → slotUnit x.word = unitH →
      exec (.slotRelease k) s = .next (s.updCore k (fun c => { c with eng := { c.eng.slotGone with hol := c.eng.hol ++ holEntries h h.gone x } }))) ∧
    (lowest (s.slotChecks k o) = none → room = true → slotUnit x.word ≠ unitH →
      exec (.slotRelease k) s = .next (s.updCore k (fun c => { c with eng := ({ c.eng.slotGone with claims := c.eng.claims ++ slotClaims o }).enqueue o }))))

/-- HMV. The hollander's next unread entry, when no barrier holds it, no earlier operation still writes the felt bytes that it reads, and the storage has no error to report: a descriptor whose 64 bytes lie in the felt and pass the check, with no poison under them or under its index arrays and no fault held from run-ahead, is ready with those bytes and its index array as it stands, and what it read ahead is kept exactly when the bytes are still the same; one whose check fails is recorded as the fault of that entry and goes, with those of its slot behind it. Memory and registers but counters and the fault record stay. -/
def Obligations.HmvReadsDescriptors : Prop :=
  ∀ (s : State) (k : Nat) (h : HolEntry), k < 36 → (s.core k).eng.hol.find? (fun x => decide (x.phase = .unread)) = some h → h.vcmd = false →
    s.upsets = [] → (s.core k).eng.syncWaits h.seq = false → h.off % 64 = 0 → h.off + 64 ≤ feltSize →
    let e := (s.core k).eng
    let bs := e.felt.readN h.off 64
    let d := holDescOf bs
    e.feltWaits h.seq h.pos h.idx (if d.bad then [(h.off, h.off + 64, false)] else holCheckSpans h.off d) = false → e.feltPoison h.off 64 = [] →
    (holCheck h.off e.felt d = none → (∀ p ∈ holCheckSpans h.off d, e.feltPoison p.1 (p.2.1 - p.1) = []) →
      (∀ w ∈ h.stage, w.bytes = bs → w.held = none) →
      Runs (.hmv k) s (s.updCore k (fun c => { c with eng := c.eng.updHol h (fun x =>
        { x with phase := .ready, bytes := bs, stage := h.stage.filter (fun w => decide (w.bytes = bs)), ix := d.indices e.felt }) }))) ∧
    (∀ code a, holCheck h.off e.felt d = some (code, a) →
      ∃ u, Book s u ∧ exec (.hmv k) s = .next (u.holFail k h.seq h.pos h.idx code a))

namespace Sys2Proof.Machine

/-- The hollander without an entry. -/
def Eng.dropHol (e : Eng) (h : HolEntry) : Eng := { e with hol := e.hol.filter (fun x => !(x.seq == h.seq && x.pos == h.pos && x.idx == h.idx)) }

/-- The rows of the hollander's element operations, with the op of their descriptors (R265). -/
def holOps (k i : Nat) : List (Instr × Nat) :=
  [(.copy k i, hopCopy), (.fill k i, hopFill), (.holUadd k i, hopUadd), (.holUmax k i, hopUmax), (.holUmin k i, hopUmin)]

/-- The remote reads that a descriptor has outstanding, in order. -/
def State.holReads (s : State) (k : Nat) (h : HolEntry) : List RemReq := (s.holReqs k h).filter (fun r => !r.write)

/-- The bytes that a descriptor's run-ahead has placed. -/
def HolEntry.placed (h : HolEntry) : List (List Byte) := match h.stage with | some w => w.data | none => []

/-- Elements of a descriptor that may move now: those that the limits on stage buffers, remote reads and remote writes leave room for; an update leaves a run that its next element may still join; another command moves nothing while a remote write of its own waits for its acknowledgement, and stops behind the first element that it writes to a device (R12, R278, R280, R336; DEDUCED, log 87). -/
def State.movable (s : State) (k : Nat) (h : HolEntry) (d : HolDesc) (es : List HElem) : Nat :=
  let own := ((s.holReqs k h).filter RemReq.write).length
  let m := holFit (256 - (s.eng k).stageUse - s.farOthers k h false) (128 - s.farOthers k h true - own) es
  if d.isUpd then updCut es m else if 0 < own then 0 else farCut es m

end Sys2Proof.Machine

/-- COPY, FILL, UADD, UMAX, UMIN, VFETCH and DESCRIPTOR_COMPLETE. An entry of the hollander whose turn it is, and whose remaining elements are located and read without a fault or a wait, moves the elements that the limits leave room for, and none while a remote write of its own is unacknowledged (the model's choice, log 87): when those have sources on other devices that have not been asked for, it asks for them; once their data is there, COPY and FILL write the elements in logical order, and UADD, UMAX and UMIN send their update requests to the ports of their granules. With its last element every write has been issued. VFETCH brings its lines into the vat and is issued. An issued entry with nothing outstanding completes: it writes its completion flag when it has one, adds the bytes of its elements to HOL_BYTES, which stops at its largest value, and goes. -/
def Obligations.HollanderOperations : Prop :=
  ∀ (s : State) (k i : Nat) (h : HolEntry) (d : HolDesc), k < 36 →
    (∀ c op u es, (c, op) ∈ holOps k i → s.holReady k i op = some (h, d) →
      let n := h.written / d.size
      let reads := s.holReads k h
      let came := reads.map (fun r => (r.data.getD [], r.bad))
      s.gather k d h.ix (h.user || d.uperm) (d.total - n) n h.placed came = (u, es, none, false) →
      let m := s.movable k h d es
      let far := remoteSrcs (es.take m)
      (reads.length < far.length →
        exec c s = .next ((far.drop reads.length).foldl (fun t x => t.sendRemote k false x.1 x.2 d.size [] (some (h.seq, h.pos, h.idx))) s)) ∧
      (far.length ≤ reads.length → (m = 0 ∨ reads.any RemReq.open = true) → exec c s = .next s) ∧
      (far.length ≤ reads.length → reads.any RemReq.open = false → 0 < m → ∀ v now, s.gather k d h.ix (h.user || d.uperm) m n h.placed came = (v, now, none, false) →
        let w := (reads.take far.length).foldl (fun t r => t.dropReq r.tag) v
        (d.isUpd = false → exec c s = .next (State.holMoved { w.scatter k h d s.free false 0 now with free := s.free + 2 * m } k h d m (now.filter HElem.farDst).length)) ∧
        (d.isUpd = true → exec c s = .next (State.holMoved { w.sendUpdates k h d n now with free := s.free + 2 * m } k h d m (updRuns now).length)))) ∧
    (∀ t, s.holReady k i hopVfetch = some (h, d) → s.fetchLines k d h.ix (h.user || d.uperm) d.total 0 none = some (t, none) →
      exec (.vfetch k i) s = .next (t.updCore k (fun c => { c with eng := c.eng.updHol h (fun x => { x with phase := .issued, stage := none }) }))) ∧
    ((s.core k).eng.hol[i]? = some h → h.vcmd = false → h.phase = .issued → h.outstanding = 0 → d = holDescOf h.bytes →
      ∃ t, exec (.descriptorComplete k i) s = .next t ∧
        Book (s.updCore k (fun c => { c with eng := Eng.dropHol (if d.flag then c.eng.writeFelt d.flagoff (flagBytes h.seq h.idx) else c.eng) h })) t ∧
        t.creg k HOL_BYTES = BitVec.ofNat 64 (Nat.min ((s.creg k HOL_BYTES).toNat + h.written) (2 ^ 64 - 1)))

/-- UPDATE_REQUEST and the values of memory updates. A memory controller applies the first request of its queue in one step, once the earlier requests of its descriptor are applied: with one element to a granule that carries no poison and in which no error is found, the element's bytes of memory hold the old value combined with the request's value as the operation and type say, every other byte of memory is as before, and the request has left the queue, which takes as many of those that wait in the mesh as it has room for. An I32 update gives the wrapped sum, the signed maximum or the signed minimum of the memory value and the request's value. A floating update adds with rounding to nearest even, or takes the greater or lesser of two finite values. -/
def Obligations.MemoryUpdates : Prop :=
  (∀ (s : State) (p : Nat) (u : UpdReq) (rest : List UpdReq) (o v : Nat), p < 8 → (s.port p).upd = u :: rest → s.upsets = [] →
    s.updBefore u = false → u.elems = [(o, v)] → s.target u.granule = .stack → Tab.get false s.poison (u.granule / 64) = false →
    let n := if u.utype = 2 then 8 else 4
    ∃ t, exec (.updateRequest p .clean) s = .next t ∧ (t.port p).upd = rest ++ (s.port p).mesh.take (192 - rest.length) ∧
      t.mem.readLE (u.granule + o) n = updateElem u.op u.utype u.ftz (s.mem.readLE (u.granule + o) n) v % 256 ^ n ∧
      (∀ a, (a < u.granule + o ∨ u.granule + o + n ≤ a) → t.mem.read a = s.mem.read a) ∧ (∀ j r, t.greg j r = s.greg j r) ∧ ∀ j r, t.freg j r = s.freg j r) ∧
  ((∀ (ftz : Bool) (m v : BitVec 32),
      updateElem 0 1 ftz m.toNat v.toNat = (m + v).toNat ∧ updateElem 1 1 ftz m.toNat v.toNat = (if m.slt v then v else m).toNat ∧
      updateElem 2 1 ftz m.toNat v.toNat = (if v.slt m then v else m).toNat) ∧
  (∀ (t m v : Nat), t ∈ [0, 2] →
      let f := if t = 2 then Fmt.fp64 else Fmt.fp32
      m < 2 ^ f.bits → v < 2 ^ f.bits → (decodeElem f m).isNan = false → (decodeElem f v).isNan = false →
      (((decodeElem f m).lt (decodeElem f v) = true → updateElem 1 t false m v = v ∧ updateElem 2 t false m v = m) ∧
        ((decodeElem f v).lt (decodeElem f m) = true → updateElem 1 t false m v = m ∧ updateElem 2 t false m v = v)) ∧
      updateElem 0 t false m v = (convElem f .nearest false (addFV .nearest (decodeElem f m) (decodeElem f v)).1).bits))

/-- COMMAND_WINDOW_POST and VCMD put commands into slice queues. A store to the last word of a command-window slot posts the slot's 64 bytes as a command at the end of its slice's queue, when the queue has room, no store waits for it already, no hollander's command goes first and the cluster is not held against the agent, and else waits for room, last of the stores that wait, with the cycle in which it came (that it waits behind the stores that wait already is the model's choice, log 68); the host's store to a held cluster is dropped and logged. A VCMD that no barrier, fence or earlier operation holds, whose checks pass and whose addresses translate, is put at the end of the queue of every slice that it goes to when all have room and neither a store nor a hollander that came earlier, nor in the same cycle the hollander of a lower core slot, goes first; its entry is then issued and waits for that many completions. A command notes whether its vat was disabled when it came (the model's choice, log 59). No other queue changes. -/
def Obligations.VatCommandsPosted : Prop :=
  (∀ (s : State) (ag c sl slot : Nat) (data : Word), ag < 42 → c < 4 → sl < 32 → slot < 64 →
      let bs := (List.range 7).flatMap (fun w => leBytes 8 (Tab.get 0 (s.vat c).win (winKey sl slot w)).toNat) ++ leBytes 8 data.toNat
      let m := windowCmd ag bs
      let free := s.windowRoom ag c sl s.cycle && !s.waiters.any (Waiter.atSlice c sl)
      (ag = 41 ∧ s.held c = true → exec (.commandWindowPost ag c sl slot data) s =
        .next (s.log logHostAccess 41 (freeUnit logHostAccess) (ctlPa (windowOff c sl slot 7)) (8 + 0x100))) ∧
      (¬(ag = 41 ∧ s.held c = true) → ∃ t, exec (.commandWindowPost ag c sl slot data) s = .next t ∧ t.mem = s.mem ∧ t.cores = s.cores ∧
        (free = true → (t.vat c).q sl = (s.vat c).q sl ++ [{ m with late := !(s.vat c).accepts }] ∧ t.waiters = s.waiters) ∧
        (free = false → (t.vat c).q sl = (s.vat c).q sl ∧ t.waiters = s.waiters ++ [.window ag c sl slot m s.cycle]) ∧
        ∀ c' sl', (c', sl') ≠ (c, sl) → (t.vat c').q sl' = (s.vat c').q sl')) ∧
  (∀ (s u : State) (k : Nat) (h : HolEntry) (home inA outA c : Nat) (sls : List Nat), k < 36 → s.upsets = [] →
      let e := (s.core k).eng
      let bs := e.felt.readN h.off 64
      let n := (vcSizes bs none).2.1
      e.hol.find? (fun x => decide (x.phase = .unread)) = some h → h.vcmd = true → e.syncWaits h.seq = false →
      h.off % 64 = 0 → h.off + 64 ≤ feltSize → e.feltWaits h.seq h.pos h.idx [(h.off, h.off + 64, false)] = false → e.vcmdChecks h bs = none →
      e.feltWaits h.seq h.pos h.idx (vcFeltSpans bs) = false → e.fenceMet h bs = true →
      s.vcResolve k bs h.user = (u, some (.ok (home, inA, outA))) → u.upsets = [] → u.vcSlices bs home = some (c, sls) → sls ≠ [] →
      u.vcmdWaits k c sls (u.cameAt h c sls) = false →
      (let q := if vcOp bs = 3 then u.qAhead c (sls.headD 0) else none
       lowest (vcFelt bs q ++ vcSpan bs (vcHome bs) (vcIn bs) (vcOut bs) (vcFlaga bs) q) = none) →
      (vcIspace bs = 0 → (u.core k).eng.feltPoison inA n = []) →
      let m : VCmd :=
        { agent := k, core := some (k, h.seq, h.pos, h.idx), window := false, ftz := bit ((u.core k).nmode h.seq) 0, nmode := (u.core k).nmode h.seq,
          bytes := bs, home := home, inAddr := inA, outAddr := outA, flagAddr := vcFlaga bs,
          inData := if vcIspace bs = 0 then (u.core k).eng.felt.readN inA n else [], late := !(u.vat c).accepts }
      ∃ t, exec (.vcmd k) s = .next t ∧ (∀ sl ∈ sls, (t.vat c).q sl = (u.vat c).q sl ++ [m]) ∧ (∀ sl, sl ∉ sls → (t.vat c).q sl = (u.vat c).q sl) ∧
        (t.core k).eng = (u.core k).eng.updHol h (fun x => { x with phase := .issued, bytes := bs, outstanding := sls.length, want := none }))

namespace Sys2Proof.Machine

/-- The rows of the vat engines, with the OP of their commands (R304). -/
def vatOps (c sl : Nat) : List (Instr × Nat) :=
  [(.vnop c sl, 0), (.kvgather c sl, 1), (.qload c sl, 2), (.score c sl, 3), (.vatUadd c sl, 4), (.vatUmax c sl, 5), (.vatUmin c sl, 6), (.sumsq c sl, 7),
    (.meanvar c sl, 8)]

end Sys2Proof.Machine

/-- VNOP, KVGATHER, QLOAD, SCORE, UADD, UMAX, UMIN, SUMSQ and MEANVAR. The front command of a slice's queue, when it has the operation, no operand lies in another cluster's window that is held, and the storage has no error to report: where its checks and the poison marks of its operands find nothing, it computes from operands read before any byte is written, writes its HOME and OUT bytes, puts the query buffer it loads into the slice, leaves the queue, and stands at the end of the commands of the slice that have run, with its flags. A command whose check finds a fault is dropped with nothing written, and nothing of it completes: a VCMD's fault goes to the fault record of its core, and its entry at the hollander goes; a window command's goes to VAT_CERR0, with slice, code and CMDTAG, and VAT_CERR1 when VALID is clear, else counts in MORE up to 255, and is logged (the ADDR of an encoding error is open, log 14). A disable that waited for the queue to drain then goes on. What it reads moves the replacement trees of the vats whose cache ways serve it, and nothing else. VNOP writes nothing. -/
def Obligations.VatCommandsRun : Prop :=
  ∀ (s : State) (c sl : Nat) (m : VCmd) (rest : List VCmd) (i : Instr) (op : Nat), c < 4 → sl < 32 → (i, op) ∈ vatOps c sl →
    (s.vat c).q sl = m :: rest → s.tripped = false → s.upsets = [] → vcOp m.bytes = op →
    (vcIspace m.bytes = 1 → s.vcHeld c m.inAddr = false) → (vcOspace m.bytes = 1 → s.vcHeld c m.outAddr = false) →
    let p := s.setVat c { s.vat c with queue := Tab.set [] (s.vat c).queue sl rest }
    let found := (lowest (p.vcChecks c sl m)).or (lowest ((p.vcReads c sl m).flatMap (fun x => p.vcPoison c x.1 x.2)))
    (∀ f, found = some f → ∃ y u, Touched p y ∧ exec i s = .next (u.vatDrain c) ∧ SameMemory s u ∧ u.poison = s.poison ∧
      (u.vat c).q sl = rest ∧ (u.vat c).done = (s.vat c).done ∧ (u.vat c).qbuf = (s.vat c).qbuf ∧
      (∀ k q pos ix, m.core = some (k, q, pos, ix) → u = y.updCore k (fun d =>
        let d := d.engFault ⟨q, pos, ix, unitH, f.1, 0, f.2⟩
        { d with eng := { d.eng with hol := d.eng.hol.filter (fun h => !(h.seq == q && h.pos == pos && h.idx == ix)) } })) ∧
      (m.core = none → ∃ v : Vat,
        u = (y.setVat c v).log logVatWindowCmd m.agent (c * 32 + sl) (if f.1 = 0x70 then freeAddr logVatWindowCmd else f.2) f.1 ∧
        { v with regs := (s.vat c).regs } = y.vat c ∧ (∀ r, r ≠ VAT_CERR0 → r ≠ VAT_CERR1 → v.reg r = (s.vat c).reg r) ∧
        let old := (s.vat c).reg VAT_CERR0
        (old.getLsbD 63 = false → v.reg VAT_CERR0 = BitVec.ofNat 64 (2 ^ 63 + sl * 2 ^ 40 + f.1 * 2 ^ 32 + leNat ((m.bytes.drop 4).take 4)) ∧
          v.reg VAT_CERR1 = BitVec.ofNat 64 f.2) ∧
        (old.getLsbD 63 = true → v.reg VAT_CERR0 = wset old 48 8 (Nat.min (wfld old 48 8 + 1) 255) ∧ v.reg VAT_CERR1 = (s.vat c).reg VAT_CERR1))) ∧
    (found = none → ∃ y, Touched p y ∧
      let r := p.vcCompute c sl m
      let u := r.out.foldl (fun s (o, bs) => s.vcWrite m o bs) (if r.home = [] then y else y.physWrite m.agent m.home r.home)
      ∃ t, exec i s = .next t ∧ t.mem = u.mem ∧ t.cores = u.cores ∧ t.poison = u.poison ∧ (t.vat c).q sl = (u.vat c).q sl ∧
        Tab.get [] (t.vat c).done sl = Tab.get [] (u.vat c).done sl ++ [⟨m, r.flags.nstat⟩] ∧
        t.qbuf c sl = (match r.q with | some q => some q | none => u.qbuf c sl) ∧ (op = 0 → SameMemory s t ∧ t.qbuf c sl = s.qbuf c sl))

/-- VAT_COMMAND_COMPLETE. The oldest command of a slice that has run completes. A window command writes its flag, bit 63 and its CMDTAG, when it has one, and sets the bits of its conditions in VAT_ESTAT. A VCMD sets its conditions in ENG_NSTAT; when it still has other slices to wait for, its entry counts one completion, and with the last its flag is written and its place at the hollander is free; an enabled condition raises its numeric fault, 0x40 and the number of the lowest enabled condition with all of them in CAUSE, which fills an empty fault record and else counts in its MORE. -/
def Obligations.VatCommandComplete : Prop :=
  ∀ (s : State) (c sl : Nat) (x : VDone) (rest : List VDone), c < 4 → sl < 32 → Tab.get [] (s.vat c).done sl = x :: rest → s.tripped = false → (s.vat c).closing = false →
    let p := s.setVat c { s.vat c with done := Tab.set [] (s.vat c).done sl rest }
    let a := x.cmd.flagAddr
    (x.cmd.core = none → vcFlag x.cmd.bytes = false →
      exec (.vatCommandComplete c sl) s = .next (p.setVat c ((p.vat c).setReg VAT_ESTAT ((s.vat c).reg VAT_ESTAT ||| BitVec.ofNat 64 (estatOf x.flags))))) ∧
    (x.cmd.core = none → vcFlag x.cmd.bytes = true → s.vcHeld c a = false → a % 8 = 0 → s.upsets = [] →
      (s.target a = .stack ∨ ∃ d off, s.target a = .vat d off ∧ (s.vat d).reaches off = true ∧ (s.vat d).offDisabled off = false) →
      ∃ t, exec (.vatCommandComplete c sl) s = .next t ∧ t.mem.readLE a 8 = 2 ^ 63 + leNat ((x.cmd.bytes.drop 4).take 4) ∧
        (∀ b, (b < a ∨ a + 8 ≤ b) → t.mem.read b = s.mem.read b) ∧ (∀ j, (t.core j).eng = (s.core j).eng) ∧
        (t.vat c).reg VAT_ESTAT = (s.vat c).reg VAT_ESTAT ||| BitVec.ofNat 64 (estatOf x.flags)) ∧
    (∀ k q pos i, x.cmd.core = some (k, q, pos, i) → k < 36 →
      let e := (s.core k).eng
      let here := fun (h : HolEntry) => h.seq == q && h.pos == pos && h.idx == i
      let cause := (x.flags &&& 0xF ||| (x.flags >>> 5 &&& 1) <<< 4) &&& (x.cmd.nmode >>> 8 &&& 0x1F)
      ∃ t, exec (.vatCommandComplete c sl) s = .next t ∧ t.mem = s.mem ∧ Tab.get [] (t.vat c).done sl = rest ∧ (∀ j, j ≠ k → t.core j = s.core j) ∧
        (t.core k).reg ENG_NSTAT = s.creg k ENG_NSTAT ||| BitVec.ofNat 64 (x.flags % 256) ∧
        (∀ h, e.hol.find? here = some h → h.outstanding ≤ 1 →
          (t.core k).eng.hol = e.hol.filter (fun y => !here y) ∧
          (∀ b, (t.core k).eng.felt.read b =
            if vcFlag h.bytes = true ∧ vcFlaga h.bytes ≤ b ∧ b < vcFlaga h.bytes + 8 then (leBytes 8 (2 ^ 63 + i % 32 * 2 ^ 48 + q % 2 ^ 48)).getD (b - vcFlaga h.bytes) 0
            else e.felt.read b)) ∧
        (∀ h, e.hol.find? here = some h → 1 < h.outstanding →
          (t.core k).eng.hol = e.hol.map (fun y => if here y then { y with outstanding := y.outstanding - 1 } else y) ∧ (t.core k).eng.felt = e.felt) ∧
        (e.hol.find? here = none → (t.core k).eng.hol = e.hol ∧ (t.core k).eng.felt = e.felt) ∧
        (cause = 0 → ∀ r, r ≠ ENG_NSTAT → (t.core k).reg r = s.creg k r) ∧
        (cause ≠ 0 → (s.core k).frecValid = false →
          (t.core k).reg ENG_FREC0 = BitVec.ofNat 64 (2 ^ 63 + 2 ^ 62 + q % 2 ^ 48) ∧
          (t.core k).reg ENG_FREC1 = BitVec.ofNat 64 (unitH * 2 ^ 40 + (0x40 + ((List.range 5).find? (fun b => cause.testBit b)).getD 0) * 2 ^ 32 + cause) ∧
          (t.core k).reg ENG_FREC2 = 0) ∧
        (cause ≠ 0 → (s.core k).frecValid = true → ∃ more, (t.core k).reg ENG_FREC1 >>> 56 = BitVec.ofNat 64 more ∧ more = Nat.min ((s.creg k ENG_FREC1 >>> 56).toNat + 1) 255))

namespace Sys2Proof.Machine

/-- Of the registers of the cores only those of core `k`'s fault record have changed, as a fault `f` changes them (R235). -/
def Recorded (s t : State) (k : Nat) (f : FaultAt) : Prop := ∀ j off, t.creg j off = if j = k then ((s.core k).engFault f).reg off else s.creg j off

end Sys2Proof.Machine

/-- TLD, TST and BLD. A TLD at the front of its unit's queue whose tile claims and felt bytes are free completes, here while the storage has no error to report: row r of the deckle's footprint in the tile file holds the felt bytes from BASE + r × PITCH, and the scale array of a scaled format those from its third operand; every other tile byte, the felt, the stacks and every register but the fault record stay; the slot and its claims are gone. The first unit that it read with an uncorrectable error is its fault FELT_POISON, 0x69, at its slot, which the fault record takes as R235 says. A TST so placed completes: when the pitch is no less than a row, the felt bytes from BASE + r × PITCH hold row r of the footprint; a felt byte outside the rows and the scale array stays, and so do the tile file, the stacks and every register but the fault record, which takes TILE_POISON, 0x6A, for the first unit that it read with such an error; the slot and its claims are gone. A BLD whose earlier MMAs have started, whose claim is free and that no barrier holds, while the storage has no error to report, puts its footprint into the B buffer that is not active, which is then loaded with its deckle and waits for the next swap; the active buffer, the tiles, the reams, the felt and memory stay; the slot and its claims are gone. -/
def Obligations.TileTransfersAndPreload : Prop :=
  ((∀ (s : State) (k : Nat) (o : EngOp), k < 36 → s.lReady k 0 = some o → s.upsets = [] →
    let e := (s.core k).eng
    let d := deckleOf (slotDeck o.word)
    let g := fun i => (o.gv.getD i 0).toNat
    let t0 := slotTile o.word * 32768
    ∃ t, exec (.tld k) s = .next t ∧
      (∀ r j, r < d.rows → j < d.rowbytes → (t.core k).eng.tiles.read (t0 + r * d.rowbytes + j) = e.felt.read (g 0 + r * g 1 + j)) ∧
      (∀ j, j < d.scales → (t.core k).eng.tiles.read (t0 + d.body + j) = e.felt.read (g 2 + j)) ∧
      (∀ a, (a < t0 ∨ t0 + d.size ≤ a) → (t.core k).eng.tiles.read a = e.tiles.read a) ∧
      SameMemory s t ∧ (t.core k).eng.lq = e.lq.drop 1 ∧ (∀ c ∈ (t.core k).eng.claims, ¬(c.seq = o.seq ∧ c.pos = o.pos)) ∧
      (∀ j r, t.greg j r = s.greg j r) ∧ (∀ j r, t.freg j r = s.freg j r) ∧
      ((∀ m ∈ lMoves o, e.feltPoison m.1 m.2.2 = []) → ∀ j off, t.creg j off = s.creg j off) ∧
      ∀ f rest, (lMoves o).flatMap (fun m => e.feltPoison m.1 m.2.2) = f :: rest → f.1 = 0x69 ∧ Recorded s t k ⟨o.seq, o.pos, 0, unitL, f.1, 0, f.2⟩) ∧
  (∀ (s : State) (k : Nat) (o : EngOp), k < 36 → s.lReady k 1 = some o → s.upsets = [] →
    let e := (s.core k).eng
    let d := deckleOf (slotDeck o.word)
    let g := fun i => (o.gv.getD i 0).toNat
    let t0 := slotTile o.word * 32768
    ∃ t, exec (.tst k) s = .next t ∧
      (d.rowbytes ≤ g 1 → d.scales = 0 → ∀ r j, r < d.rows → j < d.rowbytes → (t.core k).eng.felt.read (g 0 + r * g 1 + j) = e.tiles.read (t0 + r * d.rowbytes + j)) ∧
      (∀ j, j < d.scales → (t.core k).eng.felt.read (g 2 + j) = e.tiles.read (t0 + d.body + j)) ∧
      (∀ a, (∀ r, r < d.rows → a < g 0 + r * g 1 ∨ g 0 + r * g 1 + d.rowbytes ≤ a) → (d.scales = 0 ∨ a < g 2 ∨ g 2 + d.scales ≤ a) →
        (t.core k).eng.felt.read a = e.felt.read a) ∧
      (t.core k).eng.tiles = e.tiles ∧ t.mem = s.mem ∧ (t.core k).eng.lq = e.lq.drop 1 ∧ (∀ c ∈ (t.core k).eng.claims, ¬(c.seq = o.seq ∧ c.pos = o.pos)) ∧
      (∀ j r, t.greg j r = s.greg j r) ∧ (∀ j r, t.freg j r = s.freg j r) ∧
      ((∀ m ∈ lMoves o, e.tilePoison m.2.1 m.2.2 = []) → ∀ j off, t.creg j off = s.creg j off) ∧
      ∀ f rest, (lMoves o).flatMap (fun m => e.tilePoison m.2.1 m.2.2) = f :: rest → f.1 = 0x6A ∧ Recorded s t k ⟨o.seq, o.pos, 0, unitL, f.1, 0, f.2⟩)) ∧
  (∀ (s : State) (k : Nat) (before : List EngOp) (o : EngOp), k < 36 →
    let e := (s.core k).eng
    let d := deckleOf (slotDeck o.word)
    splitAtOp 0 e.mq = some (before, o) → mmasStarted e before = true → e.claimed o.seq o.pos = false → e.syncWaits o.seq = false → s.tripped = false → s.upsets = [] →
    ∃ t, exec (.bld k) s = .next t ∧
      let u := (t.core k).eng
      u.bWait = true ∧ u.bActive = e.bActive ∧ (u.buf (!e.bActive)).loaded = true ∧ (u.buf (!e.bActive)).deckle = slotDeck o.word ∧
      (∀ j, j < d.size → (u.buf (!e.bActive)).bytes.read j = e.tiles.read (slotTile o.word * 32768 + j)) ∧ u.buf e.bActive = e.buf e.bActive ∧
      u.tiles = e.tiles ∧ u.reamW = e.reamW ∧ u.reamC = e.reamC ∧ SameMemory s t ∧
      u.mq = e.mq.filter (fun x => !(x.seq == o.seq && x.pos == o.pos)) ∧ (∀ c ∈ u.claims, ¬(c.seq = o.seq ∧ c.pos = o.pos)) ∧ (∀ j r, t.greg j r = s.greg j r) ∧
      (e.tilePoison (slotTile o.word * 32768) d.size = [] → ∀ j off, t.creg j off = s.creg j off) ∧
      ∀ f rest, e.tilePoison (slotTile o.word * 32768) d.size = f :: rest → f.1 = 0x6A ∧ Recorded s t k ⟨o.seq, o.pos, 0, unitM, f.1, 0, f.2⟩)

/-- MMA: an uninterrupted pass into a ream. An MMA that can start, finds no fault at its start, takes no chain block and waits for no CHOUT of its ream, while the couch queue is empty and the storage has no error to report, completes in one command: every element of the ream in its deckle's rows, from its start row on, and its operand's columns becomes the pass's element, of the old element, the tile row and the operand column, under the sheet's numeric mode; every other element of every ream, the tiles and both operands stay; with TOK it posts one couch token for each block of 32 rows that it has written, in order; the run counter is what R119 gives; the MMA and its claims are gone, and the other slots of its queue are as they were, but that an earlier CHOUT of the ream keeps the width and the run that it carries. Stack memory and the general registers stay. -/
def Obligations.MatrixPass : Prop :=
  ∀ (s : State) (k : Nat) (o : EngOp), k < 36 → s.tripped = false → s.mmaReady k = some o → (s.core k).eng.mrun = none → lowest ((s.core k).mmaStartFaults o) = none →
    mChin o.word = false → (s.core k).eng.couch = [] → (∀ x, (s.core k).eng.choutReads o x = false) → s.upsets = [] →
    let c := (s.core k).mmaStart o
    let e := c.eng
    let a := deckleOf (slotDeck o.word)
    let buf := e.buf e.bActive
    let b := deckleOf buf.deckle
    let n := if mAcc o.word then Tab.get 0 (s.core k).eng.runs (mReam o.word) + 1 else 1
    let kind := (passKind a.fmt b.fmt).getD .floating
    let m : MmaCtx := ⟨kind, bit (c.nmode o.seq) 0, bit (c.nmode o.seq) 4, o.word, a, b, decide (mRun o.word ≤ n), none⟩
    let sr := ((s.core k).modeReg rselSrow o.seq).toNat
    let r0 := if mSrow o.word && bit sr 15 then fld sr 0 7 else 0
    a.rows ≤ 128 → b.epr ≤ 512 →
    ∃ t, exec (.mma k) s = .next t ∧
      let u := (t.core k).eng
      (∀ i j, r0 ≤ i → i < a.rows → j < b.epr → u.reamElem (mReam o.word) i j = ((m.elem e buf.bytes i j).w % 2 ^ 32, (m.elem e buf.bytes i j).c % 2 ^ 32)) ∧
      (∀ q i j, i < 128 → j < 512 → (q ≠ mReam o.word ∨ i < r0 ∨ a.rows ≤ i ∨ b.epr ≤ j) → u.reamElem q i j = (s.core k).eng.reamElem q i j) ∧
      u.tiles = (s.core k).eng.tiles ∧ u.b0 = (s.core k).eng.b0 ∧ u.b1 = (s.core k).eng.b1 ∧ u.mrun = none ∧
      u.couch = (if mTok o.word then ((List.range (ceilDiv a.rows 32)).filter (fun x => decide (r0 / 32 ≤ x))).map (fun x => (⟨mReam o.word, x, b.epr - 1⟩ : Token)) else []) ∧
      u.mq.map (fun x => { x with chain := none }) = ((s.core k).eng.mq.filter (fun x => !(x.seq == o.seq && x.pos == o.pos))).map (fun x => { x with chain := none }) ∧ (∀ x ∈ u.claims, ¬(x.seq = o.seq ∧ x.pos = o.pos)) ∧
      Tab.get 0 u.runs (mReam o.word) = (if kind = .floating ∧ mTotal o.word = true ∧ n < mRun o.word then n % 64 else 0) ∧
      t.mem = s.mem ∧ ∀ j r, t.greg j r = s.greg j r

/-- CHOUT and CHAIN_BLOCK_ARRIVAL. A CHOUT that no barrier holds and that has sent nothing: with no destination enabled it ends in the fault CHN_NEXT, 0x30, and sends nothing; else, while it holds both credits, it sends its first two blocks in order, or its only one, once every earlier MMA into its ream has ended (the model's choice, log 78), each with the ream's elements of its 32 rows, and leaves the ream as it is. The oldest block on its way to a core is accepted, behind the one it holds, when the core's active ENG_CHAIN names its sender; with the CHOUT's last block, when none of its others is still on its way, the sender's CHOUT leaves its queue with its claims, and nothing else changes unless a unit of its ream had an uncorrectable error. A refused block ends the CHOUT in the fault CHN_REFUSED, 0x31, at the sender, and none of its blocks arrives later. A block to a core that holds two (the model's choice, log 78), or to a held core, stays on its way. -/
def Obligations.ChainBlocks : Prop :=
  (∀ (s : State) (k : Nat) (before : List EngOp) (o : EngOp), k < 36 → splitAtOp 2 (s.core k).eng.mq = some (before, o) →
      (s.core k).eng.syncWaits o.seq = false → s.tripped = false → (s.core k).eng.chSent = 0 →
      let r := (s.core k).actReg ENG_CHAIN
      let dst := wfld r 24 6
      let n := Nat.min 2 (choutTotal o.word)
      ((r.getLsbD 31 = false ∨ s.slotEnabled dst = false) →
        exec (.chout k) s = .next ((s.updCore k (fun c => { c with eng := c.eng.mDone o })).engFault k ⟨o.seq, o.pos, 0, unitM, 0x30, 0, dst⟩)) ∧
      (r.getLsbD 31 = true → s.slotEnabled dst = true → s.upsets = [] → s.chainOut k = 0 →
        (s.core k).eng.mmaBefore o = false →
        ∃ t, exec (.chout k) s = .next t ∧
          t.transit = s.transit ++ (List.range n).map (fun j => (s.core k).eng.chainBlock k dst o (mBlk0 o.word + j)) ∧
          (t.core k).eng.chSent = n ∧ (t.core k).eng.reamW = (s.core k).eng.reamW ∧ (t.core k).eng.reamC = (s.core k).eng.reamC ∧ SameMemory s t)) ∧
  (∀ (s : State) (k : Nat) (b : ChainBlock), k < 36 → s.transit.find? (fun x => x.dst == k) = some b → b.src ≠ k →
      let r := (s.core k).actReg ENG_CHAIN
      let named := r.getLsbD 23 && wfld r 16 6 == b.src
      ((s.held (clusterOf k) = true ∨ (named = true ∧ 2 ≤ (s.core k).eng.chainIn.length)) → exec (.chainBlockArrival k) s = .next s) ∧
      (s.held (clusterOf k) = false → named = true → (s.core k).eng.chainIn.length < 2 →
        let u := { s with transit := s.transit.erase b }.updCore k (fun c => { c with eng := { c.eng with chainIn := c.eng.chainIn ++ [b] } })
        let e := (s.core b.src).eng
        let more := (s.transit.erase b).any (fun x => x.src == b.src)
        ∃ t, exec (.chainBlockArrival k) s = .next t ∧ t.transit = s.transit.erase b ∧
          (t.core k).eng.chainIn = (s.core k).eng.chainIn ++ [b] ∧ SameMemory s t ∧
          (splitAtOp 2 e.mq = none → t = u) ∧ ∀ bf o, splitAtOp 2 e.mq = some (bf, o) →
            ((e.chSent < choutTotal o.word ∨ more = true) → t = u) ∧
            (choutTotal o.word ≤ e.chSent → more = false → (t.core b.src).eng = { e.mDone o with chSent := 0 } ∧
              (e.reamPoison (mReam o.word) (32 * mBlk0 o.word) (32 * choutTotal o.word) 512 = [] →
                t = u.updCore b.src (fun c => { c with eng := { c.eng.mDone o with chSent := 0 } })))) ∧
      (s.held (clusterOf k) = false → named = false →
        let u := { s with transit := s.transit.filter (fun x => x.src != b.src) }
        ∃ t, exec (.chainBlockArrival k) s = .next t ∧ t.transit = s.transit.filter (fun x => x.src != b.src) ∧
          (t.core k).eng.chainIn = (s.core k).eng.chainIn ∧ SameMemory s t ∧
          (splitAtOp 2 (s.core b.src).eng.mq = none → t = u) ∧ ∀ bf o, splitAtOp 2 (s.core b.src).eng.mq = some (bf, o) →
            t = (u.updCore b.src (fun c => { c with eng := { c.eng.mDone o with chSent := 0 } })).engFault b.src ⟨o.seq, o.pos, 0, unitM, 0x31, 0, k⟩))

/-- CAL. The calender's next operation, when fewer than two wait to complete, none of them for room in the summary queue, its tile claims and felt bytes are free no barrier holds it, and the storage has no error to report, runs: one that drains no ream at once; a drain once the couch holds its tokens, which must name its ream and its width, or else it ends in the fault CAL_COUCH. It leaves the queue with its claims and its tokens and waits to complete, with its tally choice, its flags and, when SUMQ is set, its summary. Stack memory, the reams, the general, floating and vector registers, every register of the core's block but its event counters, ENG_RNG and ENG_NSTAT among them, and the summary queue do not change before it completes. -/
def Obligations.CalenderOperation : Prop :=
  ∀ (s : State) (k : Nat) (o : EngOp) (rest : List EngOp), k < 36 →
    let e := (s.core k).eng
    let d := calDescOf o.desc
    let toks := e.couch.take d.s0.ntok
    e.cq = o :: rest → s.tripped = false → e.calDone.length < 2 → e.sumsFull = false → s.upsets = [] → e.claimed o.seq o.pos = false → e.syncWaits o.seq = false → e.feltWaits o.seq o.pos 0 (cSpans o) = false →
    (d.s0.kind = 3 → (∃ t ∈ toks, t.ream ≠ d.s0.ream ∨ t.n1 + 1 ≠ d.cols) →
      exec (.cal k) s = .next ((s.updCore k (fun c => { c with eng := { c.eng with cq := c.eng.cq.drop 1 }.unclaim o.seq o.pos })).engFault k ⟨o.seq, o.pos, 0, unitC, 0x51, 0, 0⟩)) ∧
    ((d.s0.kind ≠ 3 ∨ (toks.length = d.s0.ntok ∧ ∀ t ∈ toks, t.ream = d.s0.ream ∧ t.n1 + 1 = d.cols)) →
      ∃ t x, exec (.cal k) s = .next t ∧
        let u := (t.core k).eng
        u.cq = rest ∧ u.calDone = e.calDone ++ [x] ∧ x.seq = o.seq ∧ x.pos = o.pos ∧ x.tally = cTally o.word ∧ x.nmode = (s.core k).nmode o.seq ∧ x.sum.isSome = d.sumq ∧
        u.couch = (if d.s0.kind = 3 then e.couch.drop d.s0.ntok else e.couch) ∧ (∀ c ∈ u.claims, ¬(c.seq = o.seq ∧ c.pos = o.pos)) ∧
        u.reamW = e.reamW ∧ u.reamC = e.reamC ∧ u.sums = e.sums ∧ t.mem = s.mem ∧ (∀ off, off ∉ bookRegs → t.creg k off = s.creg k off) ∧
        (∀ j r, t.greg j r = s.greg j r) ∧ (∀ j r, t.freg j r = s.freg j r) ∧ ∀ j, (t.core j).v = (s.core j).v)

namespace Sys2Proof.Machine

/-- A felt stream that is not broadcast, in an unscaled format of whole bytes. -/
def Stream.plain (s : Stream) : Prop := s.kind = 1 ∧ s.bcast = 0 ∧ (Fmt.ofCode s.fmt).scaled = false ∧ 8 ≤ (Fmt.ofCode s.fmt).bits

/-- Bytes of an element of a stream. -/
def Stream.size (s : Stream) : Nat := (Fmt.ofCode s.fmt).bits / 8

/-- The offset of element (r, c) of a felt stream (R148). -/
def Stream.at (s : Stream) (r c : Nat) : Nat := s.base + r * s.pitch + c * s.size

/-- No byte of `rows` rows of `cols` elements of stream `s` lies in the run of bytes that `n` rows of `m` elements of stream `t` span. -/
def Stream.clearOf (s t : Stream) (rows cols n m : Nat) : Prop :=
  ∀ r c, r < rows → c < cols → s.at r c + s.size ≤ t.base ∨ t.base + (n - 1) * t.pitch + m * t.size ≤ s.at r c

/-- The elements of a stream of `rows` rows of `cols` elements share no byte. -/
def Stream.apart (s : Stream) (rows cols : Nat) : Prop := rows = 1 ∨ cols * s.size ≤ s.pitch

/-- A chain whose result at an element is fixed by the operands there: no draw, no block scale, no EXPAND, SCUPD or HIST. -/
def plainNip (n : Nip) : Prop :=
  n.kind ≠ nkExpand ∧ n.kind ≠ nkScupd ∧ n.kind ≠ nkHist ∧ (n.kind = nkCvt → n.rnd ≠ 3 ∧ (Fmt.ofCode n.fmt).scaled = false)

/-- An operation over plain felt inputs, S1 left out or not, with no mask and a plain chain. -/
def CalDesc.plainIn (d : CalDesc) : Prop :=
  1 ≤ d.rows ∧ 1 ≤ d.cols ∧ d.s0.plain ∧ (d.s1.kind = 0 ∨ d.s1.plain) ∧ d.mkind = 0 ∧ ∀ n ∈ d.nips, plainNip n

/-- Element (r, c) of an input as it enters the chain: read from the felt, in the working type (R148, R151); of a stream of kind none, zero. -/
def CalCtx.inputAt (x : CalCtx) (s : Stream) (r c : Nat) : FV × Flags :=
  let f := Fmt.ofCode s.fmt
  x.toWork f (if s.kind = 0 then (FV.zero, {}) else readElem x.ftz f (x.eng.felt.readLE (s.at r c) s.size))

/-- Element (r, c) as it leaves the chain: its nips in order, each on what the one before gave (R146). -/
def CalCtx.laneAt (x : CalCtx) (r c : Nat) : Lane :=
  let a := x.inputAt x.d.s0 r c
  let b := x.inputAt x.d.s1 r c
  x.d.nips.foldl (fun l n => x.nip n 0 0 none l) ⟨a.1, b.1, a.1, true, a.2.or b.2, true⟩

/-- What two I32 operands of a nip give, where the result is a word of the two words (R159). -/
def nipWord (kind : Nat) (a b : BitVec 32) : Option (BitVec 32) :=
  match kind with
  | 0x05 => some (if b.slt a then b else a)
  | 0x06 => some (if a.slt b then b else a)
  | 0x10 => some (a <<< (b.toNat % 32))
  | 0x11 => some (a >>> (b.toNat % 32))
  | 0x12 => some (a.sshiftRight (b.toNat % 32))
  | 0x13 => some (a &&& b)
  | 0x14 => some (a ||| b)
  | 0x15 => some (a ^^^ b)
  | 0x16 => some (~~~a)
  | _ => none

/-- The exact integer that an I32 nip narrows to I32 (R159). -/
def nipExact (kind : Nat) (a b : Int) : Option Int :=
  match kind with
  | 0x01 => some (a + b)
  | 0x02 => some (a - b)
  | 0x03 => some (a * b)
  | 0x07 => some a.natAbs
  | 0x08 => some (-a)
  | _ => none

/-- An integer brought into a range. -/
def clampTo (lo hi v : Int) : Int := Max.max lo (Min.min hi v)

end Sys2Proof.Machine

/-- CAL: the values of a chain and of its conversions. A CAL that can run, over felt inputs without broadcast in unscaled formats of whole bytes, with no mask and a chain that neither draws nor takes block scales, completes, and its OUT in the felt, clear of the inputs, holds for every element the conversion of what the chain's nips, in order, make of the elements of S0 and S1 there; no other felt byte changes. Its counts take in each element once, saturated, flushed, NaN, infinite and zero by its conversion and by the marks of its chain, and its flags are those of all elements. In the I32 working type ADD, SUB, MUL, ABS and NEG narrow the exact integer to I32, clamped with SATC when the nip saturates and else wrapped; MIN, MAX, the shifts and the logic of words give their word; an element converts to an integer format clamped, and counted as saturated, or wrapped. -/
def Obligations.CalenderChain : Prop :=
  (∀ (s : State) (k : Nat) (o : EngOp) (rest : List EngOp), k < 36 →
      let e := (s.core k).eng
      let d := calDescOf o.desc
      let x := s.calCtx k o d
      e.cq = o :: rest → s.tripped = false → e.calDone.length < 2 → e.sumsFull = false → s.upsets = [] → e.claimed o.seq o.pos = false → e.syncWaits o.seq = false →
      e.feltWaits o.seq o.pos 0 (cSpans o) = false → d.plainIn → d.term = none → d.out.plain →
      d.out.apart d.rows d.cols → d.s0.clearOf d.out d.rows d.cols d.rows d.cols → (d.s1.kind = 0 ∨ d.s1.clearOf d.out d.rows d.cols d.rows d.cols) →
      let conv := fun r c => x.convOut d.out (x.laneAt r c).v
      let all := (List.range d.rows).flatMap (fun r => (List.range d.cols).map (fun c => (r, c)))
      let count := fun (p : Conv → Flags → Bool) => (all.filter (fun q => p (conv q.1 q.2) (x.laneAt q.1 q.2).flags)).length
      ∃ t y, exec (.cal k) s = .next t ∧ (t.core k).eng.calDone = e.calDone ++ [y] ∧
        (∀ r c, r < d.rows → c < d.cols → (t.core k).eng.felt.readLE (d.out.at r c) d.out.size = (conv r c).bits % 256 ^ d.out.size) ∧
        (∀ a, (∀ r c, r < d.rows → c < d.cols → a < d.out.at r c ∨ d.out.at r c + d.out.size ≤ a) → (t.core k).eng.felt.read a = e.felt.read a) ∧
        y.counts = ⟨count (fun v f => v.sat || f.satc), count (fun v f => v.flush || f.zeroed), count (fun v f => v.nan || f.nanZero), count (fun v _ => v.inf),
          count (fun v f => v.zero || f.zeroed), d.rows * d.cols, 0⟩ ∧
        (d.sumq = false → y.flags = (all.foldl (fun (g : Flags) q => (g.or (x.laneAt q.1 q.2).flags).or (conv q.1 q.2).flags) {}).nstat)) ∧
  (∀ (x : CalCtx) (n : Nip) (l : Lane) (a b : BitVec 32), x.d.wtype = 2 → n.kind ≠ nkExpand →
      x.operand n l n.opa = FV.ofInt a.toInt → x.operand n l n.opb = FV.ofInt b.toInt →
      let r := x.nip n 0 0 none l
      (∀ w, nipWord n.kind a b = some w → r.v = FV.ofInt w.toInt ∧ r.flags = l.flags) ∧
      (∀ z, nipExact n.kind a.toInt b.toInt = some z →
        (x.saturates n.sat = false → r.v = FV.ofInt (BitVec.ofInt 32 z).toInt ∧ r.flags = l.flags) ∧
        (x.saturates n.sat = true → r.v = FV.ofInt (clampTo (-2 ^ 31) (2 ^ 31 - 1) z) ∧
          r.flags.satc = (l.flags.satc || decide (z < -2 ^ 31 ∨ 2 ^ 31 - 1 < z))))) ∧
  (∀ (x : CalCtx) (s : Stream) (v : Int) (code w : Nat) (lo hi : Int), x.d.wtype = 2 → s.kind = 1 → s.fmt = code →
      (code, w, lo, hi) ∈ [(7, 8, (-128 : Int), (127 : Int)), (8, 8, 0, 255), (9, 4, -8, 7), (10, 16, -32768, 32767), (11, 32, -2 ^ 31, 2 ^ 31 - 1)] →
      let c := x.convOut s (FV.ofInt v)
      (c.bits : Int) = (if x.saturates s.sat then clampTo lo hi v else v) % 2 ^ w ∧ c.sat = (x.saturates s.sat && decide (v < lo ∨ hi < v)))

/-- CAL: REDUCE and the reduction tree. A reduction of two or more floating values combines, rounded to nearest even, the reduction of the first m of them and that of the rest, m the largest power of two below their number: sums for SUM and for SUMSQ, whose leaves are the rounded squares, the IEEE maximum or minimum for the others; one value is its own reduction, and no value reduces to +0, −∞ and +∞. In I32 the sum and the sum of squares are exact and are clamped once at the end. A CAL that can run, over plain felt inputs, whose chain ends in such a REDUCE along rows or columns with AUX in the felt and OUT none, completes with the conversion of each row's or column's reduction in AUX, and counts each result once. -/
def Obligations.CalenderReductions : Prop :=
  (∀ (w : Nat) (ftz : Bool) (vs : List FV), w < 2 → vs.length ≤ 2 ^ 40 →
      let f := wFmt w
      let red := fun (sub : Nat) (l : List FV) => (reduceVals w ftz sub l).1
      let fl := fun (v : FV) => decodeF f.info (convF f .nearest ftz v).bits
      (∀ j, 2 ^ j < vs.length → vs.length ≤ 2 ^ (j + 1) →
        let a := vs.take (2 ^ j)
        let b := vs.drop (2 ^ j)
        (∀ sub ∈ [0, 3], red sub vs = fl (addFV .nearest (red sub a) (red sub b)).1) ∧
        red 1 vs = (minmaxFV true (red 1 a) (red 1 b)).1 ∧ red 2 vs = (minmaxFV false (red 2 a) (red 2 b)).1) ∧
      (∀ v, vs = [v] → let u := (flushIn f ftz v).1
        red 0 vs = u ∧ red 1 vs = u ∧ red 2 vs = u ∧ red 3 vs = fl (mulFV u u).1) ∧
      (vs = [] → red 0 vs = FV.zero ∧ red 3 vs = FV.zero ∧ red 1 vs = .inf true ∧ red 2 vs = .inf false)) ∧
  (∀ (ftz : Bool) (xs : List (BitVec 32)),
      let vs := xs.map (fun a => FV.ofInt a.toInt)
      let zs := xs.map BitVec.toInt
      (∀ sub t, (sub, t) ∈ [(0, zs.sum), (3, (zs.map (fun z => z * z)).sum)] →
        (reduceVals 2 ftz sub vs).1 = FV.ofInt (clampTo (-2 ^ 31) (2 ^ 31 - 1) t) ∧ (reduceVals 2 ftz sub vs).2.2 = decide (t < -2 ^ 31 ∨ 2 ^ 31 - 1 < t)) ∧
      (∃ m, (reduceVals 2 ftz 1 vs).1 = FV.ofInt m ∧ (m ∈ zs ∨ (zs = [] ∧ m = -2 ^ 31)) ∧ ∀ z ∈ zs, z ≤ m) ∧
      (∃ m, (reduceVals 2 ftz 2 vs).1 = FV.ofInt m ∧ (m ∈ zs ∨ (zs = [] ∧ m = 2 ^ 31 - 1)) ∧ ∀ z ∈ zs, m ≤ z)) ∧
  (∀ (s : State) (k : Nat) (o : EngOp) (rest : List EngOp) (n : Nip), k < 36 →
      let e := (s.core k).eng
      let d := calDescOf o.desc
      let x := s.calCtx k o d
      e.cq = o :: rest → s.tripped = false → e.calDone.length < 2 → e.sumsFull = false → s.upsets = [] → e.claimed o.seq o.pos = false → e.syncWaits o.seq = false →
      e.feltWaits o.seq o.pos 0 (cSpans o) = false → d.plainIn → d.term = some n → n.kind = nkReduce → n.sub < 4 → d.out.kind = 0 → d.aux.plain →
      let cols := bit n.fmt 0
      let rows' := if cols then 1 else d.rows
      let cols' := if cols then d.cols else 1
      d.aux.apart rows' cols' → d.s0.clearOf d.aux d.rows d.cols rows' cols' → (d.s1.kind = 0 ∨ d.s1.clearOf d.aux d.rows d.cols rows' cols') →
      let group := fun i => if cols then (List.range d.rows).map (fun r => (x.laneAt r i).v) else (List.range d.cols).map (fun c => (x.laneAt i c).v)
      let at_ := fun i => if cols then d.aux.at 0 i else d.aux.at i 0
      ∃ t y, exec (.cal k) s = .next t ∧ (t.core k).eng.calDone = e.calDone ++ [y] ∧
        (∀ i, i < rows' * cols' → (t.core k).eng.felt.readLE (at_ i) d.aux.size =
          (x.convOut d.aux (reduceVals d.wtype x.ftz n.sub (group i)).1).bits % 256 ^ d.aux.size) ∧
        (∀ a, (∀ i, i < rows' * cols' → a < at_ i ∨ at_ i + d.aux.size ≤ a) → (t.core k).eng.felt.read a = e.felt.read a) ∧
        y.counts.elems = rows' * cols' ∧
        y.counts.sat = ((List.range (rows' * cols')).filter (fun i =>
          let r := reduceVals d.wtype x.ftz n.sub (group i)
          (x.convOut d.aux r.1).sat || r.2.2)).length)

/-- CAL_COMPLETE. The oldest calender operation that has run completes, while the storage has no error to report, unless it posts a summary and 16 are queued, in which case it waits: ENG_RNG holds the generator as the operation left it, its conditions are set in ENG_NSTAT and none is cleared, its summary is at the end of the queue, and it is gone; with no tally, scale-table entry or history record to write the felt stays as it is. With a tally alone its record takes its counts, or each counter the sum of what it held and the count: each at most 0xFFFFFFFF, with its OVF bit set when it gets there, and TOVF with that, and no other felt byte changes. A condition that its numeric mode traps raises the numeric fault at its slot: an empty fault record takes its sheet's number, the calender's unit code, the code and the causes, and one that holds a fault is replaced or counts as R235 says. -/
def Obligations.CalenderCompletes : Prop :=
  ∀ (s : State) (k : Nat) (x : CalDone) (rest : List CalDone), k < 36 → (s.core k).eng.calDone = x :: rest → s.tripped = false → s.upsets = [] →
    (x.sum.isSome = true → 16 ≤ (s.core k).eng.sums.length → exec (.calComplete k) s = .next s) ∧
    ((x.sum.isSome = false ∨ (s.core k).eng.sums.length < 16) → ∃ t, exec (.calComplete k) s = .next t ∧
      (t.core k).eng.calDone = rest ∧ (t.core k).eng.sums = (s.core k).eng.sums ++ x.sum.toList ∧ t.creg k ENG_RNG = x.rng ∧
      (∀ i, i < 7 → (t.creg k ENG_NSTAT).getLsbD i = ((s.creg k ENG_NSTAT).getLsbD i || x.flags.testBit i)) ∧
      (x.tally = 0 → x.scup = none → x.hist = none → SameMemory s t) ∧
      (x.tally ≠ 0 → x.scup = none → x.hist = none →
        let e := (s.core k).eng
        let u := (t.core k).eng
        let n := x.counts
        let list := [(0, 0, n.sat), (1, 1, n.flush), (2, 2, n.nan), (3, 3, n.inf), (4, 4, n.zero), (5, 5, n.elems), (7, 6, n.raised)]
        let sum := fun (i m : Nat) => (if 2 ≤ x.tally then e.felt.readLE (x.toff + 4 * i) 4 else 0) + m
        (∀ i b m, (i, b, m) ∈ list →
          u.felt.readLE (x.toff + 4 * i) 4 = Nat.min (sum i m) 0xFFFFFFFF ∧
          (u.felt.readLE (x.toff + 24) 4).testBit b = (decide (0xFFFFFFFF ≤ sum i m) || (decide (2 ≤ x.tally) && (e.felt.readLE (x.toff + 24) 4).testBit b))) ∧
        u.felt.readLE (x.toff + 24) 4 < 128 ∧
        ((t.creg k ENG_NSTAT).getLsbD 7 = true ↔ (s.creg k ENG_NSTAT).getLsbD 7 = true ∨ x.flags.testBit 7 = true ∨
          ∃ i b m, (i, b, m) ∈ list ∧ 0 < m ∧ 0xFFFFFFFF ≤ sum i m) ∧
        ∀ a, (a < x.toff ∨ x.toff + 32 ≤ a) → u.felt.read a = e.felt.read a) ∧ t.mem = s.mem ∧ (t.core k).eng.tiles = (s.core k).eng.tiles ∧
      (trapCause x.nmode x.flags ≠ 0 →
        let cause := trapCause x.nmode x.flags
        ((s.core k).frecValid = false → t.creg k ENG_FREC0 = BitVec.ofNat 64 (2 ^ 63 + 2 ^ 62 + x.seq % 2 ^ 48) ∧
          t.creg k ENG_FREC1 = BitVec.ofNat 64 (unitC * 2 ^ 40 + numCode cause * 2 ^ 32 + cause) ∧ t.creg k ENG_FREC2 = 0) ∧
        ∀ off ∈ [ENG_FREC0, ENG_FREC1, ENG_FREC2], t.creg k off = ((s.core k).engFault ⟨x.seq, x.pos, 0, unitC, numCode cause, cause, 0⟩).reg off) ∧
      (∀ j r, t.greg j r = s.greg j r) ∧ ∀ j r, t.freg j r = s.freg j r)

/-- ENOP, EBAR and EWR. The slot at the front of the sync unit's queue: ENOP and EBAR only leave it; EWR leaves it, and the register of the numeric mode class that it names holds its captured value, in the fields that can be written, for the fourth sheet after it and later ones, and its old value for the sheets before. No other register of the class, no general register and no memory changes. -/
def Obligations.SyncUnitSlots : Prop :=
  ∀ (s : State) (k : Nat) (o : EngOp) (rest : List EngOp), k < 36 → (s.core k).eng.yq = o :: rest →
    (yOp o.word = yEnop → exec (.enop k) s = .next (s.updCore k (fun c => { c with eng := { c.eng with yq := rest, saving := none } }))) ∧
    (yOp o.word = yEbar → exec (.ebar k) s = .next (s.updCore k (fun c => { c with eng := { c.eng with yq := rest, saving := none } }))) ∧
    (yOp o.word = yEwr → yRsel o.word < 3 → (s.core k).eng.ewr = [] → seqBefore (((s.core k).eng.nextDry + 2 ^ 48 - 1024) % 2 ^ 48) ((o.seq + 4) % 2 ^ 48) = true →
      ∃ t, exec (.ewr k) s = .next t ∧ (t.core k).eng.yq = rest ∧
        (∀ q, seqBefore q ((o.seq + 4) % 2 ^ 48) = false →
          (t.core k).modeReg (yRsel o.word) q = applyEwr (yRsel o.word) (s.creg k (rselOff (yRsel o.word))) (ewrValue (yRsel o.word) (o.gv.headD 0))) ∧
        (∀ q, seqBefore q ((o.seq + 4) % 2 ^ 48) = true → (t.core k).modeReg (yRsel o.word) q = s.creg k (rselOff (yRsel o.word))) ∧
        (∀ r q, r < 3 → r ≠ yRsel o.word → (t.core k).modeReg r q = s.creg k (rselOff r)) ∧
        (∀ j r, t.greg j r = s.greg j r) ∧ SameMemory s t)

namespace Sys2Proof.Machine

/-- The little-endian number in the `n` bytes from `a` on. -/
def leRun (f : Nat → Byte) (a n : Nat) : Nat := leNat ((List.range n).map (fun i => f (a + i)))

/-- The bytes of the parts `parts` of core `k`'s save area, as the ESAVE of sheet `q` that stops no MMA lays them out (R77): `area` gives the byte at each offset. -/
def SaveLayout (c : Core) (q parts : Nat) (area : Nat → Byte) : Prop :=
  let e := c.eng
  let buf := fun (b : BBuf) => (if b.loaded then 2 ^ 31 else 0) + b.deckle % 2 ^ 24
  let run := fun r => Tab.get 0 e.runs r % 64
  leRun area 0 4 = 0x1D080C01 ∧ leRun area 4 4 = parts ∧ leRun area 8 4 = (c.modeReg rselNmode q).toNat % 2 ^ 32 ∧
  leRun area 0xC 4 = (c.reg ENG_NSTAT).toNat % 2 ^ 32 ∧ leRun area 0x10 8 = (c.modeReg rselRng q).toNat ∧ leRun area 0x18 8 = (c.modeReg rselSrow q).toNat ∧
  leRun area 0x20 4 = buf e.b0 ∧ leRun area 0x24 4 = buf e.b1 ∧ leRun area 0x28 4 = (if e.bActive then 1 else 0) + (if e.bWait then 2 else 0) ∧
  leRun area 0x2C 4 = e.couch.length % 16 + run 0 * 2 ^ 4 + run 1 * 2 ^ 10 + run 2 * 2 ^ 16 + run 3 * 2 ^ 22 ∧
  (∀ i, i < 8 → leRun area (0x30 + 4 * i) 4 = match e.couch[i]? with | some t => t.ream % 4 + t.block % 4 * 4 + t.n1 % 512 * 16 | none => 0) ∧
  (∀ r, r < 4 → leRun area (0x50 + 2 * r) 2 = Tab.get 511 e.latestN r % 512) ∧
  (∀ a, 0x58 ≤ a → a < 0x1000 → area a = 0) ∧
  (parts.testBit 0 = true → ∀ a, a < 0x80000 → area (0x1000 + a) = e.tiles.read a) ∧
  (parts.testBit 1 = true → ∀ a, a < 0x80000 → area (0x81000 + a) = e.b0.bytes.read a ∧ area (0x101000 + a) = e.b1.bytes.read a) ∧
  (parts.testBit 2 = true → ∀ r i j, r < 4 → i < 128 → j < 512 →
    leRun area (0x181000 + r * 0x80000 + (i * 512 + j) * 4) 4 = (e.reamElem r i j).1 ∧ leRun area (0x1C1000 + r * 0x80000 + (i * 512 + j) * 4) 4 = (e.reamElem r i j).2)

/-- What an ERESTORE of sheet `q` makes of core `c`, from the save area whose byte at each offset `area` gives (R78, R121): the header's fields, and of each part that PARTS selects its bytes, of each other one what was there. Of the writes of the class of ENG_NMODE none was in force, and all of them go. -/
def Restored (c c' : Core) (q : Nat) (area : Nat → Byte) : Prop :=
  let e := c.eng
  let u := c'.eng
  let parts := leRun area 4 4
  let w := leRun area 0x2C 4
  let later := fun n => seqBefore n ((q + 1) % 2 ^ 48) = false
  u.yq = e.yq.drop 1 ∧ u.saving = none ∧ c'.reg ENG_NSTAT = BitVec.ofNat 64 (leRun area 0xC 4 % 256) ∧
  ((∀ x ∈ e.ewr, seqBefore q x.1 = true) → seqBefore ((e.nextDry + 2 ^ 48 - 1024) % 2 ^ 48) ((q + 1) % 2 ^ 48) = true →
    (∀ n, later n → c'.modeReg rselNmode n = BitVec.ofNat 64 (leRun area 8 4) &&& 0x1F1D ∧
      c'.modeReg rselRng n = (if leRun area 0x10 8 = 0 then 0x9E3779B97F4A7C15 else BitVec.ofNat 64 (leRun area 0x10 8)) ∧
      ∀ i, i < 64 → (c'.modeReg rselSrow n).getLsbD i = if i < 7 ∨ i = 15 ∨ 16 ≤ i then (leRun area 0x18 8).testBit i else (c.reg ENG_SROW).getLsbD i) ∧
    (∀ n, ¬later n → c'.modeReg rselNmode n = c.reg ENG_NMODE ∧ c'.modeReg rselRng n = c.reg ENG_RNG) ∧
    ∀ off, off ∉ [ENG_NSTAT, ENG_SROW, ENG_FREC0, ENG_FREC1, ENG_FREC2] → c'.reg off = c.reg off) ∧
  u.b0.loaded = (leRun area 0x20 4).testBit 31 ∧ u.b0.deckle = leRun area 0x20 4 % 2 ^ 24 ∧
  u.b1.loaded = (leRun area 0x24 4).testBit 31 ∧ u.b1.deckle = leRun area 0x24 4 % 2 ^ 24 ∧
  u.bActive = (leRun area 0x28 4).testBit 0 ∧ u.bWait = (leRun area 0x28 4).testBit 1 ∧
  u.couch = (List.range (Nat.min (w % 16) 8)).map (fun i => let t := leRun area (0x30 + 4 * i) 4; (⟨t % 4, t / 4 % 4, t / 16 % 512⟩ : Token)) ∧
  (∀ a, a < 0x80000 → u.tiles.read a = (if parts.testBit 0 then area (0x1000 + a) else e.tiles.read a) ∧
    u.b0.bytes.read a = (if parts.testBit 1 then area (0x81000 + a) else e.b0.bytes.read a) ∧
    u.b1.bytes.read a = (if parts.testBit 1 then area (0x101000 + a) else e.b1.bytes.read a)) ∧
  (∀ r i j, r < 4 → i < 128 → j < 512 → u.reamElem r i j = if parts.testBit 2 then
    (leRun area (0x181000 + r * 0x80000 + (i * 512 + j) * 4) 4, leRun area (0x1C1000 + r * 0x80000 + (i * 512 + j) * 4) 4) else e.reamElem r i j) ∧
  (∀ r, r < 4 → Tab.get 0 u.runs r = (if parts.testBit 2 then w / 2 ^ (4 + 6 * r) % 64 else Tab.get 0 e.runs r) ∧
    Tab.get 511 u.latestN r = (if parts.testBit 2 then leRun area (0x50 + 2 * r) 2 % 512 else Tab.get 511 e.latestN r)) ∧
  u.felt = e.felt

/-- The pages of a save area lie in stack memory, in vat windows or in felts, none of them in a held window. -/
def State.pagesHere (s : State) (k : Nat) (pages : List (Nat × Nat)) : Prop :=
  ∀ p ∈ pages, s.waitsFor k (s.target p.2) = false ∧ (s.target p.2 = .stack ∨ (∃ c off, s.target p.2 = .vat c off) ∨ ∃ j off, s.target p.2 = .felt j off)

/-- An ESAVE that has begun: whether it stopped an MMA, and its pages. -/
def State.begunSave (s : State) (k : Nat) (stopped : Bool) (pages : List (Nat × Nat)) : State :=
  s.updCore k (fun c => { c with eng := { c.eng with saving := some ⟨stopped, pages, false⟩ } })

/-- Each page of an area takes its bytes, the sync unit's slot leaves, and a bad unit among what was saved is its fault. -/
def State.saved (s : State) (k : Nat) (o : EngOp) (stopped : Bool) (pages : List (Nat × Nat)) : State :=
  ((pages.foldl (fun u p => u.ctxWrite k o p.2 ((s.core k).ctxPage (yParts o.word) (o.seq + 3) stopped p.1)) s).yDone k).opFault
    k o.seq o.pos unitY 0 0 ((s.core k).eng.savePoison (yParts o.word))

end Sys2Proof.Machine

/-- ESAVE. An ESAVE at the front of the sync unit's queue translates every page of its save area before it writes any; a translation that faults is its fault and nothing is written. One that may stop an MMA at a row stops it there, and leaves the row, VALID and the MMA's sequence number in ENG_SROW. Once every earlier operation has finished, each page, when all lie on the die, takes the header, the tiles, the B operands or the reams as R77 lays them out, and the slot leaves; until then nothing more happens. One whose command names a row at which no MMA can be stopped waits. With translation off and the area in stack memory an ESAVE that may write the area completes: the area's bytes are those of R77, and no other byte of memory changes. The storage has no error to report. -/
def Obligations.SaveArea : Prop :=
  ∀ (s : State) (k : Nat) (o : EngOp) (t : State) (stop : Option Nat), k < 36 →
    let base := (o.gv.headD 0).toNat
    let area := s.ctxPages k base o.user .store (0 :: partPages (yParts o.word))
    (s.yFront k yEsave = some o → (s.core k).eng.saving = none →
      (∀ f, area = (t, some (.error f)) → exec (.esave k stop) s = .next ((t.yDone k).engFault k ⟨o.seq, o.pos, 0, unitY, f.1, 0, f.2⟩)) ∧
      (∀ pages, area = (t, some (.ok pages)) → t.pagesHere k pages → t.upsets = [] → t.yWaits k o = false → t.stopAt k o stop = none →
        let v := t.begunSave k false pages
        (((t.core k).eng.othersDone o = false ∨ (t.core k).eng.earlierM o ≠ []) → exec (.esave k stop) s = .next v) ∧
        ((t.core k).eng.othersDone o = true → (t.core k).eng.earlierM o = [] → exec (.esave k stop) s = .next (v.saved k o false pages))) ∧
      (∀ pages row m u, area = (t, some (.ok pages)) → t.pagesHere k pages → t.stopAt k o stop = some row → t.stoppable k o row = some m →
        t.stopMma k m row o.seq = some u → u.upsets = [] → u.yWaits k o = false →
        let v := u.begunSave k true pages
        u.creg k ENG_SROW = BitVec.ofNat 64 (m.seq % 2 ^ 48 * 2 ^ 16 + 0x8000 + row) ∧
        (((u.core k).eng.othersDone o = false ∨ (u.core k).eng.earlierM o ≠ []) → exec (.esave k stop) s = .next v) ∧
        ((u.core k).eng.othersDone o = true → (u.core k).eng.earlierM o = [] → exec (.esave k stop) s = .next (v.saved k o true pages))) ∧
      (∀ pages row, area = (t, some (.ok pages)) → t.stopAt k o stop = some row → (t.stoppable k o row).bind (fun m => t.stopMma k m row o.seq) = none →
        exec (.esave k stop) s = .next s)) ∧
    (s.yFront k yEsave = some o → (s.core k).eng.saving = none → ((s.core k).actReg CORE_TCTL).getLsbD 0 = false → base + 0x381000 ≤ 2 ^ 48 → s.upsets = [] →
      let pages := 0 :: partPages (yParts o.word)
      (∀ p ∈ pages, ∀ i, i < 4096 → s.target (base + p + i) = .stack) → (s.core k).eng.othersDone o = true → (s.core k).eng.earlierM o = [] → s.yWaits k o = false →
      ∃ u, exec (.esave k none) s = .next u ∧ SaveLayout (s.core k) (o.seq + 3) (yParts o.word) (fun a => u.mem.read (base + a)) ∧
        (∀ a, (∀ p ∈ pages, a < base + p ∨ base + p + 4096 ≤ a) → u.mem.read a = s.mem.read a) ∧
        (u.core k).eng.yq = (s.core k).eng.yq.drop 1 ∧ (u.core k).eng.saving = none ∧ (∀ j r, u.greg j r = s.greg j r ∧ u.freg j r = s.freg j r))

/-- ERESTORE. An ERESTORE at the front of the sync unit's queue, once every earlier operation has finished, translates the header's page and then those of the parts that the header selects; a translation that faults is its fault, and nothing is restored. A header page on another device is asked for first, in 64 reads. A header without the magic number, or with a part that does not exist, is the fault CTX_HDR, 0x2E, and nothing is restored. With header and parts on the die and the storage without an error to report it completes: ENG_NSTAT, and from the sheet after it on ENG_NMODE, ENG_RNG and ENG_SROW, the B buffers' state and the couch tokens are those of the header, in place of what earlier EWRs would still have written; the tiles, the B operands, and the reams with their runs and widths are those of the area where PARTS selects them, and else stay; memory and the felt stay. The read of the header moves the replacement trees of the vats whose cache ways serve it, before the parts are translated. -/
def Obligations.RestoreArea : Prop :=
  ∀ (s : State) (k : Nat) (o : EngOp) (t : State), k < 36 → s.yFront k yErestore = some o → (s.core k).eng.othersDone o = true → (s.core k).eng.earlierM o = [] → s.yReads k o = [] →
    let base := (o.gv.headD 0).toNat
    (∀ f, s.ctxPages k base o.user .load [0] = (t, some (.error f)) → exec (.erestore k) s = .next (t.yFail k o f)) ∧
    (∀ hpa, s.ctxPages k base o.user .load [0] = (t, some (.ok [(0, hpa)])) → t.waitsFor k (t.target hpa) = false →
      (t.target hpa = .remote → exec (.erestore k) s = .next (t.yFetch k o ((List.range 64).map (fun i => t.aperture (hpa + 64 * i))))) ∧
      (t.pagesHere k [(0, hpa)] → t.logHole k 0 hpa 4096 = t → t.upsets = [] → ∃ w, Touched t w ∧
        let hdr := (t.seenBy false k).physRead hpa 88
        ((leAt hdr 0 4 ≠ 0x1D080C01 ∨ 8 ≤ leAt hdr 4 4) → exec (.erestore k) s = .next (w.yFail k o (0x2E, 0))) ∧
        (leAt hdr 0 4 = 0x1D080C01 → leAt hdr 4 4 < 8 → ∀ p,
          (∀ f, w.ctxPages k base o.user .load (partPages (leAt hdr 4 4)) = (p, some (.error f)) → exec (.erestore k) s = .next (p.yFail k o f)) ∧
          (∀ pages, w.ctxPages k base o.user .load (partPages (leAt hdr 4 4)) = (p, some (.ok pages)) → p.pagesHere k pages → p.upsets = [] →
            (∀ x ∈ pages, p.logHole k 0 x.2 4096 = p) →
            let area := fun a => if a < 4096 then hdr.getD a 0 else
              match pages.find? (fun x => x.1 == a / 4096 * 4096) with | some x => ((p.seenBy false k).physRead x.2 4096).getD (a % 4096) 0 | none => 0
            ∃ u, exec (.erestore k) s = .next u ∧ Restored (p.core k) (u.core k) o.seq area ∧ u.mem = p.mem ∧ (∀ j, j ≠ k → u.core j = p.core j)))))

/-- NMODE_WRITE, DISCARD, RESUME and CORE_DTAB_DATA_WRITE. A write to ENG_NMODE of a halted or held core whose headbox is empty is in force, in its writable fields, from the next sheet on; otherwise it is refused and logged. With the fault record VALID, RESUME clears VALID, HOLD, MORE and CAUSE, and DISCARD also drops the dry sheets and every slot of the wet ones, which keep their places (the model's choice, log 55); with the record empty both do nothing. A write to CORE_DTAB_DATA by the core itself stores the entry that CORE_DTAB_SEL points at and moves UOP on, 31 wrapping to 0; one through control space stores it and leaves CORE_DTAB_SEL as it is while the core is stopped, and is ignored while it runs. Nothing else but counters changes. -/
def Obligations.EngineRegisterWrites : Prop :=
  (∀ (s : State) (ag k : Nat) (v : Half), ag < 42 → k < 36 →
      ((s.core k).modeWritable = false → exec (.nmodeWrite ag k v) s = .next (s.refused ag (coreBlock k + ENG_NMODE) v.toNat)) ∧
      ((s.core k).modeWritable = true → (s.core k).eng.ewr = [] → ∃ c : Core, exec (.nmodeWrite ag k v) s = .next (s.setCore k c) ∧
        (∀ q, seqBefore q ((s.core k).eng.nextSeq % 2 ^ 48) = false → c.nmode q = (v &&& 0x1F1D).toNat) ∧
        (∀ off, off ≠ ENG_NMODE → c.reg off = s.creg k off) ∧ { c with regs := (s.core k).regs, eng := { c.eng with ewr := [] } } = s.core k)) ∧
  (∀ (s : State) (ag k : Nat) (r : Bool), ag < 42 → k < 36 →
      ((s.core k).frecValid = false → Runs (.discard ag k r) s s ∧ Runs (.resume ag k) s s) ∧
      ((s.core k).frecValid = true →
        (∃ c : Core, Runs (.discard ag k r) s (s.setCore k c) ∧
          c.eng = { (s.core k).eng with headbox := ((s.core k).eng.headbox.filter Sheet.wet).map (fun h => { h with slots := [], gone := 0, reads := [] }) } ∧
          c.reg ENG_FREC0 = s.creg k ENG_FREC0 &&& 0x3FFFFFFFFFFFFFFF ∧ c.reg ENG_FREC1 = s.creg k ENG_FREC1 &&& 0x00FFFFFFFFFFFFE0 ∧
          (∀ off, off ≠ ENG_FREC0 → off ≠ ENG_FREC1 → c.reg off = s.creg k off) ∧ { c with regs := (s.core k).regs, eng := (s.core k).eng } = s.core k) ∧
        (∃ c : Core, exec (.resume ag k) s = .next (s.setCore k c) ∧
          c.reg ENG_FREC0 = s.creg k ENG_FREC0 &&& 0x3FFFFFFFFFFFFFFF ∧ c.reg ENG_FREC1 = s.creg k ENG_FREC1 &&& 0x00FFFFFFFFFFFFE0 ∧
          (∀ off, off ≠ ENG_FREC0 → off ≠ ENG_FREC1 → c.reg off = s.creg k off) ∧ { c with regs := (s.core k).regs } = s.core k))) ∧
  (∀ (s : State) (ag k : Nat) (v : Word), ag < 42 → k < 40 →
      ((ag ≠ k ∧ (s.core k).stopped = false) → exec (.coreDtabDataWrite ag k v) s = .next s) ∧
      ((ag = k ∨ (s.core k).stopped = true) → ∃ c : Core, exec (.coreDtabDataWrite ag k v) s = .next (s.setCore k c) ∧
        (∀ i, i < 64 → (Tab.get 0 c.dtab (s.core k).dtabIndex).getLsbD i =
          if i < 38 ∧ i ≠ 32 then v.getLsbD i else (Tab.get 0 (s.core k).dtab (s.core k).dtabIndex).getLsbD i) ∧
        (∀ i, i ≠ (s.core k).dtabIndex → Tab.get 0 c.dtab i = Tab.get 0 (s.core k).dtab i) ∧
        (ag = k → c.dtabIndex % 32 = ((s.core k).dtabIndex + 1) % 32 ∧ c.reg CORE_DTAB_SEL >>> 5 = s.creg k CORE_DTAB_SEL >>> 5) ∧
        (ag ≠ k → c.reg CORE_DTAB_SEL = s.creg k CORE_DTAB_SEL) ∧
        (∀ off, off ≠ CORE_DTAB_SEL → c.reg off = s.creg k off) ∧ { c with regs := (s.core k).regs, dtab := (s.core k).dtab } = s.core k))

namespace Sys2Proof.Machine

/-- What an invalidation selects (R360): ALL every entry; ASID the entries of that ASID that are not global; VA those of that ASID and the global ones that cover the page; VA_ALL every one that covers it. -/
def tlbiSelects (op asid va : Nat) (t : TlbEntry) : Bool :=
  match op with
  | 0 => true
  | 1 => t.asid == asid && !t.glob
  | 2 => (t.asid == asid || t.glob) && (decide (t.va ≤ va * 2 ^ 12) && decide (va * 2 ^ 12 < t.va + t.size))
  | _ => decide (t.va ≤ va * 2 ^ 12) && decide (va * 2 ^ 12 < t.va + t.size)

/-- The entries that an invalidation of core `k` selects are gone from the caches of the cores that it reaches, whose walk caches are empty; nothing else is changed but the open request of core `k`. -/
def TlbiGone (s t : State) (k op : Nat) (die : Bool) (asid va : Nat) : Prop :=
  let keep := fun (e : TlbEntry) => !tlbiSelects op asid va e
  (∀ j, (j = k ∨ die = true) → let c := s.core j
    let d := t.core j
    d.itlb = c.itlb.filter keep ∧ d.dtlb = c.dtlb.filter keep ∧ d.tlb = c.tlb.filter keep ∧ d.htlb = c.htlb.filter keep ∧ d.wcache = [] ∧
    (∀ i, Tab.get none d.lock i = (Tab.get none c.lock i).filter keep) ∧
    { d with itlb := c.itlb, dtlb := c.dtlb, tlb := c.tlb, htlb := c.htlb, wcache := c.wcache, lock := c.lock, tlbi := c.tlbi } = c) ∧
  (∀ j, j ≠ k → die = false → t.core j = s.core j) ∧ (∀ j, j ≠ k → (t.core j).tlbi = (s.core j).tlbi) ∧ { t with cores := s.cores } = s

/-- A TLBI command removes what it selects and opens its core's request when none is open, and else waits. -/
def TlbiLaw (mk : Nat → Instr) (op : Nat) (die : Bool) (asid va : Nat) : Prop :=
  ∀ (s : State) (k : Nat), k < 40 →
    ((s.core k).tlbi = none → ∃ t r, exec (mk k) s = .next t ∧ TlbiGone s t k op die asid va ∧ (t.core k).tlbi = some r ∧
      r.op = op ∧ r.die = die ∧ r.asid = asid ∧ r.va = va) ∧
    ((s.core k).tlbi ≠ none → exec (mk k) s = .next s)

/-- A TLOCK_LOCK has written its fields to CORE_TLOCK, and its walk counts. -/
def State.tlockBegun (s : State) (k : Nat) (slot : BitVec 4) (va : BitVec 44) : State :=
  (s.updCore k (fun c => c.writeReg CORE_TLOCK (tlockWord 1 slot va) 0xFFFFFFFFFFFFFFFF)).event k 0x09 1

end Sys2Proof.Machine

/-- TPROBE, TLOCK_LOCK, TLOCK_UNLOCK, TLBI_ALL, TLBI_ASID, TLBI_VA, TLBI_VA_ALL and TLBI_COMPLETE. TPROBE leaves in CORE_TPRES the physical address, or FAULT with the coded cause, of the translation that it asks for, and changes nothing else but caches and counters; without an error that the storage reports no byte of memory changes. TLOCK_LOCK, whose tables lie in no held window, places the leaf of its walk, or its CONT group, in its slot, of the 2,048 leaves of the L2 TLB, of which the unlocked ones that no longer fit go, and clears FAIL, where memory still holds the entry that the walk read or the entry's A bit is set already, or, when the walk faults, empties the slot and sets FAIL; TLOCK_UNLOCK empties the slot. A TLBI command removes every entry that it selects from the caches of the cores that it reaches, empties their walk caches, leaves the other entries, and opens its core's request, or waits while one is open; the request completes once the accesses that used its entries have. No general or floating register changes. -/
def Obligations.TranslationRegisterWrites : Prop :=
  (∀ (s : State) (k : Nat) (v : Word), k < 40 →
      let x := s.xlat k (v &&& 0x00FFFFFFFFFFFFFF) (if v >>> 62 = 1 then .store else if v >>> 62 = 2 then .fetch else .load) (v.getLsbD 61) .probe false
      CachesOnly s x.1 ∧ (s.upsets = [] → x.1.mem = s.mem) ∧
      (∀ pa mt, x.2 = .ok pa mt → exec (.tprobe k v) s = .next (x.1.setCreg k CORE_TPRES (BitVec.ofNat 64 (pa % 2 ^ 48)))) ∧
      (∀ sub, x.2 = .fault sub → exec (.tprobe k v) s = .next (x.1.setCreg k CORE_TPRES (BitVec.ofNat 64 (2 ^ 63 + sub * 2 ^ 48))))) ∧
  (∀ (s : State) (k : Nat) (slot : BitVec 4) (va : BitVec 44), k < 40 →
      (∃ t, exec (.tlockUnlock k slot va) s = .next t ∧ Tab.get none (t.core k).lock slot.toNat = none ∧
        (∀ i, i ≠ slot.toNat → Tab.get none (t.core k).lock i = Tab.get none (s.core k).lock i) ∧
        (∀ i, i < 44 → (t.creg k CORE_TLOCK).getLsbD i = va.getLsbD i) ∧ (∀ i, i < 4 → (t.creg k CORE_TLOCK).getLsbD (48 + i) = slot.getLsbD i) ∧
        (∀ r, t.greg k r = s.greg k r) ∧ (∀ r, t.freg k r = s.freg k r) ∧ SameMemory s t) ∧
      (s.tlockWaits k va.toNat = true → exec (.tlockLock k slot va) s = .next s) ∧
      (s.tlockWaits k va.toNat = false → s.upsets = [] → ∃ t, exec (.tlockLock k slot va) s = .next t ∧
        (∀ i, i ≠ slot.toNat → Tab.get none (t.core k).lock i = Tab.get none (s.core k).lock i) ∧
        (∀ r, t.greg k r = s.greg k r) ∧ (∀ r, t.freg k r = s.freg k r) ∧
        (2 ^ vbitsOf ((s.core k).actReg CORE_TCTL) ≤ va.toNat * 2 ^ 12 → Tab.get none (t.core k).lock slot.toNat = none ∧ (t.core k).tlb = (s.core k).tlb ∧ (t.creg k CORE_TLOCK).getLsbD 61 = true) ∧
        (va.toNat * 2 ^ 12 < 2 ^ vbitsOf ((s.core k).actReg CORE_TCTL) →
          (∀ u level kd acc, (s.tlockBegun k slot va).walk true k (va.toNat * 2 ^ 12) = (u, .fault level kd, acc) →
            Tab.get none (t.core k).lock slot.toNat = none ∧ (t.core k).tlb = (s.core k).tlb ∧ (t.creg k CORE_TLOCK).getLsbD 61 = true ∧ SameMemory s t) ∧
          ∀ u a ent level acc, (s.tlockBegun k slot va).walk true k (va.toNat * 2 ^ 12) = (u, .leaf a ent level, acc) → (bit ent 6 = true ∨ u.mem.readLE a 8 = ent) →
            Tab.get none (t.core k).lock slot.toNat =
              some (leafEntry true (wfld ((s.core k).actReg CORE_TCTL) 16 16) (va.toNat * 2 ^ 12) ent level (bit ent 7)) ∧
            (t.core k).tlb = (s.core k).tlb.take (2048 - ((t.core k).lock.filterMap Prod.snd).length) ∧
            (t.creg k CORE_TLOCK).getLsbD 61 = false ∧ (bit ent 6 = true → SameMemory s t) ∧ (s.target a = .stack → a % 8 = 0 → (bit ent 6 = false ∨ NoOldCopies s k) → t.mem.readLE a 8 = ent ||| 0x40)))) ∧
  (∀ (die : Bool) (asid : BitVec 16) (va : BitVec 44), TlbiLaw (fun k => .tlbiAll k die) 0 die 0 0 ∧ TlbiLaw (fun k => .tlbiAsid k die asid) 1 die asid.toNat 0 ∧
      TlbiLaw (fun k => .tlbiVa k die asid va) 2 die asid.toNat va.toNat ∧ TlbiLaw (fun k => .tlbiVaAll k die va) 3 die 0 va.toNat) ∧
  (∀ (s : State) (k : Nat) (r : TlbiReq), k < 40 → (s.core k).tlbi = some r →
      (s.tlbiQuiet r = true → exec (.tlbiComplete k) s = .next (s.updCore k (fun c => { c with tlbi := none }))) ∧
      (s.tlbiQuiet r = false → exec (.tlbiComplete k) s = .next s))

namespace Sys2Proof.Machine

/-- Only vat `c` of the die changes, and it becomes `v`. -/
def VatBecomes (s t : State) (c : Nat) (v : Vat) : Prop := t.vat c = v ∧ (∀ d, d ≠ c → t.vat d = s.vat d) ∧ { t with vats := s.vats } = s

/-- Where the window of cluster `c` begins (R284). -/
def windowBase (c : Nat) : Nat := 0x00E000000000 + c * 0x10000000

/-- VAT_STAT.REFUSE. -/
def Vat.refused (v : Vat) : Nat := wfld (v.reg VAT_STAT) 8 4

end Sys2Proof.Machine

/-- VAT_ADDRW_WRITE, VAT_ENABLE, VAT_DISABLE and WAY_ERROR_PERIOD. ADDRW changes only with ENABLED 0, BUSY 0 and a value of at most 16: it takes the value, INVALIDATED clears, every way keeps the bytes that it holds (the window offset moves with it, log 29), no byte outside the window changes; a refused change keeps ADDRW and names its reason in REFUSE, in the order of the rule. ENABLE as 1 enables an invalidated vat that is not BUSY; with BUSY 1 it is refused with RANGE_BUSY, whatever INVALIDATED is (the model's choice, log 29). ENABLE as 0 starts the clean-and-invalidate with BUSY and DISABLING at 1, at once when no command is queued, else when the queues have drained; the lines go at once, and BUSY stands until RANGE_COMPLETE (the model's choice, log 37). Without an error that the storage reports, the clean-and-invalidate changes no byte and leaves no older copy in a stack. An accepted write sets REFUSE to zero. WAY_ERROR_PERIOD clears the vat's corrected-error counters of its ways. -/
def Obligations.VatControl : Prop :=
  ∀ (s : State) (ag c : Nat), ag < 42 → c < 4 →
    (∀ w : BitVec 5, let v := s.vat c;
      (w.toNat ≠ v.addrw → v.enabled = true → ∃ t, exec (.vatAddrwWrite ag c w) s = .next t ∧ VatBecomes s t c (v.refuse 3)) ∧
      (w.toNat ≠ v.addrw → v.enabled = false → v.busy = true → ∃ t, exec (.vatAddrwWrite ag c w) s = .next t ∧ VatBecomes s t c (v.refuse 2)) ∧
      (w.toNat ≠ v.addrw → v.enabled = false → v.busy = false → 16 < w.toNat → ∃ t, exec (.vatAddrwWrite ag c w) s = .next t ∧ VatBecomes s t c (v.refuse 4)) ∧
      (w.toNat = v.addrw → ∃ t, exec (.vatAddrwWrite ag c w) s = .next t ∧ VatBecomes s t c (v.refuse 0)) ∧
      (w.toNat ≠ v.addrw → v.enabled = false → v.busy = false → w.toNat ≤ 16 → v.addrw ≤ 16 → ∃ t, exec (.vatAddrwWrite ag c w) s = .next t ∧
        (t.vat c).addrw = w.toNat ∧ (t.vat c).invalidated = false ∧ (t.vat c).refused = 0 ∧ (∀ d, d ≠ c → t.vat d = s.vat d) ∧
        (∀ way o, way < 16 → o < 0x400000 → 16 - w.toNat ≤ way → 16 - v.addrw ≤ way →
          t.mem.read (windowBase c + (way - (16 - w.toNat)) * 0x400000 + o) = s.mem.read (windowBase c + (way - (16 - v.addrw)) * 0x400000 + o)) ∧
        (∀ a, (a < windowBase c ∨ windowBase c + 0x10000000 ≤ a) → t.mem.read a = s.mem.read a) ∧
        ∀ j r, t.greg j r = s.greg j r ∧ t.freg j r = s.freg j r)) ∧
    (let v := s.vat c;
      (v.enabled = false → v.busy = true → ∃ t, exec (.vatEnable ag c) s = .next t ∧ VatBecomes s t c (v.refuse 2)) ∧
      (v.enabled = false → v.busy = false → v.invalidated = false → ∃ t, exec (.vatEnable ag c) s = .next t ∧ VatBecomes s t c (v.refuse 1)) ∧
      (v.enabled = false → v.busy = false → v.invalidated = true → ∃ t u, exec (.vatEnable ag c) s = .next t ∧ VatBecomes s t c u ∧
        u.enabled = true ∧ u.refused = 0 ∧ (u.reg VAT_CFG).getLsbD 8 = true ∧ u.addrw = v.addrw ∧ { u with regs := v.regs } = v) ∧
      (v.enabled = true → v.busy = true → ∃ t, exec (.vatDisable ag c) s = .next t ∧ VatBecomes s t c (v.refuse 2)) ∧
      (v.enabled = true → v.busy = false → v.drained = false → ∃ t u, exec (.vatDisable ag c) s = .next t ∧ VatBecomes s t c u ∧
        u.closing = true ∧ u.enabled = true ∧ u.refused = 0 ∧ (u.reg VAT_CFG).getLsbD 8 = false ∧ { u with regs := v.regs, closing := v.closing } = v) ∧
      (v.enabled = true → v.busy = false → v.drained = true → ∃ t, exec (.vatDisable ag c) s = .next t ∧
        (t.vat c).busy = true ∧ ((t.vat c).reg VAT_STAT).getLsbD 3 = true ∧ (t.vat c).range = some ⟨5, 0, 0, true⟩ ∧ (t.vat c).lines = [] ∧
        (t.vat c).refused = 0 ∧ (s.upsets = [] → SameMemory s t ∧ ∀ l ∈ v.dirtyLines, Tab.get none t.stale l = none))) ∧
    ∃ t, exec (.wayErrorPeriod c) s = .next t ∧ VatBecomes s t c { s.vat c with wayCe := [] }

namespace Sys2Proof.Machine

/-- The reason for which a range operation is refused, 0 when it is accepted (R296). -/
def rangeReason (s : State) (c op : Nat) : Nat :=
  let v := s.vat c
  let base := (v.reg VAT_RBASE).toNat
  let size := (v.reg VAT_RSIZE).toNat
  if v.busy = true then 2
  else if op = 4 ∧ v.enabled = true then 6
  else if op < 4 ∧ (base % 64 ≠ 0 ∨ size % 64 ≠ 0) then 5
  else if op < 3 ∧ size ≠ 0 ∧ ¬(s.target base = .stack ∧ s.target (base + size - 1) = .stack) then 5
  else if op = 3 ∧ v.addrw * 0x400000 < base + size then 5
  else 0

/-- Line `l` lies in the range that the vat's registers name. -/
def inRange (s : State) (c l : Nat) : Prop := ((s.vat c).reg VAT_RBASE).toNat ≤ l * 64 ∧ l * 64 < ((s.vat c).reg VAT_RBASE).toNat + ((s.vat c).reg VAT_RSIZE).toNat

/-- No copy of line `l` stands in the cluster's core slots or its vat. -/
def noCopy (t : State) (c l : Nat) : Prop :=
  (∀ k, k < 36 → clusterOf k = c → Tab.get none (t.core k).l2 l = none) ∧ ∀ w x, Tab.get none (t.vat c).lines w = some x → x.line ≠ l

/-- No modified copy of line `l` stands there. -/
def noDirty (t : State) (c l : Nat) : Prop :=
  (∀ k, k < 36 → clusterOf k = c → Tab.get none (t.core k).l2 l ≠ some true) ∧ ∀ w x, Tab.get none (t.vat c).lines w = some x → x.line = l → x.dirty = false

/-- What range command `i`, of operation `op`, does: refused, it names the reason; accepted, it runs, with `eff` on the lines. The other vats keep everything, a copy that they hold of a line with the bytes that it had. -/
def RangeLaw (mk : Nat → Nat → Instr) (op : Nat) (eff : State → State → Nat → Prop) : Prop :=
  ∀ (s : State) (ag c : Nat), ag < 42 → c < 4 → ∃ t, exec (mk ag c) s = .next t ∧ wfld ((t.vat c).reg VAT_RCTL) 0 3 = op ∧
    (t.vat c).refused = rangeReason s c op ∧
    (rangeReason s c op ≠ 0 → (t.vat c).range = (s.vat c).range ∧ (t.vat c).lines = (s.vat c).lines ∧ { t with vats := s.vats } = s) ∧
    (rangeReason s c op = 0 →
      (((s.vat c).reg VAT_RSIZE = 0 ∧ op < 4) → (t.vat c).busy = false ∧ (t.vat c).range = none) ∧
      (¬((s.vat c).reg VAT_RSIZE = 0 ∧ op < 4) → (t.vat c).busy = true ∧ (t.vat c).range.map RangeOp.op = some op) ∧ eff s t c) ∧
    (s.upsets = [] → ∀ d, d ≠ c → { t.vat d with kept := (s.vat d).kept } = s.vat d) ∧ ∀ j r, t.greg j r = s.greg j r ∧ t.freg j r = s.freg j r

/-- Every line that a stack holds in an older form has 64 bytes there. -/
def StaleOk (s : State) : Prop := ∀ l x, Tab.get none s.stale l = some x → x.1.length = 64

/-- The stack's own bytes of every line of `p` come back: modified data is lost. -/
def Loses (s t : State) (p : Nat → Prop) : Prop :=
  StaleOk s → ∀ l i, i < 64 → (p l → t.mem.read (l * 64 + i) = match Tab.get none s.stale l with | some x => x.1.getD i 0 | none => s.mem.read (l * 64 + i)) ∧
    (¬p l → t.mem.read (l * 64 + i) = s.mem.read (l * 64 + i))

end Sys2Proof.Machine

/-- INV, CLEAN, CLEAN_INV, ZERO, INV_ALL, CLEAN_INV_ALL and RANGE_COMPLETE. A range command is refused with its reason, in the rule's order, or sets BUSY and acts; one of size zero completes at once, and of another one the effect on the lines comes at GO while BUSY stands until RANGE_COMPLETE (the model's choice, log 37). INV discards every copy in the cluster and loses its modified data; CLEAN writes modified data to the stack and leaves no modified copy; CLEAN_INV also discards the copies; ZERO writes zero to every byte of the window's range but those in disabled ways, which stay, and discards the core slots' copies; INV_ALL and CLEAN_INV_ALL empty the cache ways, with their modified lines lost or written back. That what is written back reaches its stack is said while the storage has no error to report. RANGE_COMPLETE clears BUSY; after a disable it clears ENABLED and DISABLING, and after an _ALL operation of a disabled vat INVALIDATED is 1; a disable that waited for the queues, where they have drained, then starts. -/
def Obligations.VatRangeOperations : Prop :=
  (RangeLaw .inv 0 (fun s t c => (∀ l, inRange s c l → noCopy t c l) ∧ Loses s t (fun l => inRange s c l ∧ s.clusterDirty c l = true)) ∧
    RangeLaw .clean 1 (fun s t c => (∀ l, inRange s c l → noDirty t c l) ∧ (s.upsets = [] → SameMemory s t ∧
      ∀ l, inRange s c l → s.clusterDirty c l = true → Tab.get none t.stale l = none)) ∧
    RangeLaw .cleanInv 2 (fun s t c => (∀ l, inRange s c l → noCopy t c l) ∧ (s.upsets = [] → SameMemory s t ∧
      ∀ l, inRange s c l → s.clusterDirty c l = true → Tab.get none t.stale l = none))) ∧
  RangeLaw .zero 3 (fun s t c => (∀ a, t.mem.read a =
      if windowBase c + ((s.vat c).reg VAT_RBASE).toNat ≤ a ∧ a < windowBase c + ((s.vat c).reg VAT_RBASE).toNat + ((s.vat c).reg VAT_RSIZE).toNat ∧
        (s.vat c).offDisabled (a - windowBase c) = false then 0
      else s.mem.read a) ∧
      ∀ l, windowBase c + ((s.vat c).reg VAT_RBASE).toNat ≤ l * 64 → l * 64 < windowBase c + ((s.vat c).reg VAT_RBASE).toNat + ((s.vat c).reg VAT_RSIZE).toNat →
        ∀ k, k < 36 → clusterOf k = c → Tab.get none (t.core k).l2 l = none) ∧
  (RangeLaw .invAll 4 (fun s t c => (t.vat c).lines = [] ∧ Loses s t (fun l => l ∈ (s.vat c).dirtyLines)) ∧
    RangeLaw .cleanInvAll 5 (fun s t c => (t.vat c).lines = [] ∧ (s.upsets = [] → SameMemory s t ∧ ∀ l ∈ (s.vat c).dirtyLines, Tab.get none t.stale l = none))) ∧
  (∀ (s : State) (c : Nat) (r : RangeOp), c < 4 → (s.vat c).range = some r → (s.vat c).closing = true → (s.vat c).drained = true → ∃ t, exec (.rangeComplete c) s = .next t ∧
      (t.vat c).range = some ⟨5, 0, 0, true⟩ ∧ (t.vat c).busy = true ∧ (t.vat c).closing = false ∧ (t.vat c).lines = [] ∧ ((t.vat c).reg VAT_STAT).getLsbD 3 = true) ∧
  (∀ (s : State) (c : Nat) (r : RangeOp), c < 4 → (s.vat c).range = some r → ((s.vat c).closing = false ∨ (s.vat c).drained = false) → ∃ t u, exec (.rangeComplete c) s = .next t ∧ VatBecomes s t c u ∧
      u.range = none ∧ u.busy = false ∧ (r.closing = true → u.enabled = false ∧ (u.reg VAT_STAT).getLsbD 3 = false) ∧
      (r.closing = false → u.enabled = (s.vat c).enabled) ∧ ((r.op = 4 ∨ r.op = 5) → u.enabled = false → u.invalidated = true) ∧
      { u with regs := (s.vat c).regs, range := some r } = s.vat c)

/-- VAT_OFFER, VAT_FILL and VAT_WAYDIS_WRITE. A line offered by a core slot's L2 leaves it. While the storage has no error to report, a clean offer with the stream mark, to a set under a range operation or to a vat that does not cache is declined; a dirty one of stack memory goes into the vat's cache as a modified line when a way can take it, and else to stack memory. A miss brings its line clean into the cache when a way can take it; a hit, a miss of the hollander with STREAM, a hint to a set under a range operation, and a fill of a vat that does not cache the line bring nothing new, here while the storage has no error to report. VAT_WAYDIS_WRITE disables each way whose bit is 1 in that slice: its lines go, its modified ones to stack memory. Without an error that the storage reports no byte of memory changes. -/
def Obligations.VatLines : Prop :=
  (∀ (s : State) (k line : Nat), k < 36 →
      (Tab.get none (s.core k).l2 line = none → exec (.vatOffer k line) s = .next s) ∧
      ∀ d, Tab.get none (s.core k).l2 line = some d → ∃ t, exec (.vatOffer k line) s = .next t ∧ Tab.get none (t.core k).l2 line = none ∧
        (∀ j r, t.greg j r = s.greg j r) ∧ (s.upsets = [] → SameMemory s t ∧ (∀ l, l ≠ line → Tab.get none (t.core k).l2 l = Tab.get none (s.core k).l2 l) ∧
        let v := s.vat (clusterOf k);
        ((d = false ∧ s.stackLineOk line = true ∧ (Tab.get false v.stream line = true ∨ v.setBusy line = true ∨ v.caches = false)) →
          (t.vat (clusterOf k)).lines = v.lines ∧ t.stale = s.stale) ∧
        ((d = true ∧ s.stackLineOk line = true ∧ v.caches = false) → (t.vat (clusterOf k)).lines = v.lines ∧ Tab.get none t.stale line = none) ∧
        ((s.stackLineOk line = true ∧ v.caches = true ∧ v.wayOf line = none ∧ (d = true ∨ (Tab.get false v.stream line = false ∧ v.setBusy line = false))) →
          (∀ w, v.fillWay (lineSlice line) (lineSet line) = some w → Tab.get none (t.vat (clusterOf k)).lines (wayKey (lineSlice line) (lineSet line) w) = some ⟨line, d⟩) ∧
          (v.fillWay (lineSlice line) (lineSet line) = none → (t.vat (clusterOf k)).lines = v.lines ∧ (d = true → Tab.get none t.stale line = none))))) ∧
  (∀ (s : State) (c line : Nat) (kind : FillKind), c < 4 → s.upsets = [] → ∃ t, exec (.vatFill c line kind .clean) s = .next t ∧ SameMemory s t ∧
      (∀ j r, t.greg j r = s.greg j r) ∧
      let v := s.vat c
      ((s.stackLineOk line = false ∨ v.caches = false ∨ (v.wayOf line).isSome = true ∨ kind = .hollanderMiss true ∨ (kind = .hint ∧ v.setBusy line = true)) →
        (t.vat c).lines = v.lines) ∧
      (s.stackLineOk line = true → v.caches = true → v.wayOf line = none → kind ≠ .hollanderMiss true → (kind = .hint → v.setBusy line = false) →
        ((List.range 16).any (v.eligible (lineSlice line)) = true →
          ∃ w, w < 16 ∧ Tab.get none (t.vat c).lines (wayKey (lineSlice line) (lineSet line) w) = some ⟨line, false⟩) ∧
        ((List.range 16).any (v.eligible (lineSlice line)) = false → (t.vat c).wayOf line = none))) ∧
  (∀ (s : State) (ag c sl : Nat) (v : BitVec 16), ag < 42 → c < 4 → sl < 32 → ∃ t, exec (.vatWaydisWrite ag c sl v) s = .next t ∧
      (∀ w, w < 16 → (t.vat c).wayDisabled sl w = ((s.vat c).wayDisabled sl w || v.getLsbD w)) ∧
      (∀ x w, x ≠ sl → x < 32 → (t.vat c).wayDisabled x w = (s.vat c).wayDisabled x w) ∧
      (∀ w set, w < 16 → set < 2048 → v.getLsbD w = true → (s.vat c).wayDisabled sl w = false → Tab.get none (t.vat c).lines (wayKey sl set w) = none ∧
        (s.upsets = [] → ∀ x, Tab.get none (s.vat c).lines (wayKey sl set w) = some x → x.dirty = true → Tab.get none t.stale x.line = none)) ∧
      (∀ d, d ≠ c → { t.vat d with kept := (s.vat d).kept } = s.vat d) ∧ (∀ j r, t.greg j r = s.greg j r) ∧ (s.upsets = [] → SameMemory s t))

/-- Every line that a stack holds in an older form has 64 bytes there. For every state in which the stack's older form of each line that a cache holds modified has 64 bytes, if a step answers a next state, every older form has 64 bytes there too. -/
def Obligations.StaleKept : Prop :=
  ∀ s t : State, StaleOk s → step s = .next t → StaleOk t

namespace Sys2Proof.Machine

/-- The registers at `offs` read zero and every other one as before. -/
def Cleared (old new : Nat → Word) (offs : List Nat) : Prop := ∀ off, new off = if off ∈ offs then 0 else old off

/-- Granules in a stack of 96 GiB. -/
def granules : Nat := 96 * 2 ^ 30 / 64

end Sys2Proof.Machine

/-- HOL_CNTCTL, CORE_EVCTL, VAT_CNTCTL, VAT_CERRCTL, MEM_CNTCTL, DLN_CNTCTL and DLN_CERRCTL. Each clears the counters of its block with their OVF bits, VAT_CERRCTL and DLN_CERRCTL the error record of theirs; every other register of the block and the rest of the die stay. -/
def Obligations.CounterClears : Prop :=
  (∀ (s : State) (k : Nat), (k < 36 → ∃ c : Core, exec (.holCntctl k) s = .next (s.setCore k c) ∧ { c with regs := (s.core k).regs } = s.core k ∧
        Cleared (s.core k).reg c.reg [HOL_BYTES, HOL_RAUSE, HOL_RADROP, HOL_CNTCTL]) ∧
      (k < 40 → ∃ c : Core, exec (.coreEvctl k) s = .next (s.setCore k c) ∧ { c with regs := (s.core k).regs } = s.core k ∧
        Cleared (s.core k).reg c.reg [CORE_EVCNT, CORE_EVCNT + 8, CORE_EVCNT + 16, CORE_EVCNT + 24, CORE_EVCTL])) ∧
  (∀ (s : State) (c : Nat), c < 4 →
      (∃ v : Vat, exec (.vatCntctl c) s = .next (s.setVat c v) ∧ { v with regs := (s.vat c).regs } = s.vat c ∧
        Cleared (s.vat c).reg v.reg [VAT_HITS, VAT_MISSES, VAT_DECLINED, VAT_CECNT, VAT_CNTCTL]) ∧
      ∃ v : Vat, exec (.vatCerrctl c) s = .next (s.setVat c v) ∧ { v with regs := (s.vat c).regs } = s.vat c ∧ Cleared (s.vat c).reg v.reg [VAT_CERR0, VAT_CERR1]) ∧
  (∀ (s : State) (p : Nat), p < 8 → ∃ q : Port, exec (.memCntctl p) s = .next (s.setPort p q) ∧ { q with regs := (s.port p).regs } = s.port p ∧
      Cleared (s.port p).reg q.reg [MEM_CE, MEM_UE, MEM_UPD, MEM_CNTCTL]) ∧
  ∀ s : State, (∃ t, exec .dlnCntctl s = .next t ∧ { t with dln := { t.dln with regs := s.dln.regs } } = s ∧ Cleared s.dlnReg t.dlnReg [DLN_DROPS, DLN_CNTCTL]) ∧
    ∃ t, exec .dlnCerrctl s = .next t ∧ { t with dln := { t.dln with regs := s.dln.regs } } = s ∧ Cleared s.dlnReg t.dlnReg [DLN_CERR0]

/-- PATROL_SCRUB_STEP, LOFT_SCRUB_BURST, STACK_TEMP_READOUT and MEM_MAP_WRITE. A scrub step of a port that scrubs reads its next granule, the first again after the last: an error found is corrected and counted, or counted and its granule poisoned in the stack, of a line that a cache holds modified the stack's older copy alone, and on a port that the map does not name counted alone, for such a granule has no address (its ADDR is free, log 14); no byte of memory changes. In self-refresh the burst makes one step for each granule; outside it patrol does, and neither runs with PERIOD at zero or on a failed port (the model's choice, log 38). A temperature readout goes to MEM_PSTAT.TEMP, and sets THM_STAT.SWARN from SWARN on. Only the mill controller's first write sets MEM_MAP's fields; every other one, its own second among them, is refused and logged. -/
def Obligations.MemoryControllers : Prop :=
  (∀ (s : State) (p : Nat) (ecc : Ecc), p < 8 → (s.port p).scrub < granules →
      let q := s.port p;
      ((wfld (q.reg MEM_SCRUB) 0 8 = 0 ∨ (q.reg MEM_PSTAT).getLsbD 1 = true ∨ (q.reg MEM_PSTAT).getLsbD 2 = true) → exec (.patrolScrubStep p ecc) s = .next s) ∧
      ((wfld (q.reg MEM_SCRUB) 0 8 = 0 ∨ (q.reg MEM_PSTAT).getLsbD 1 = true ∨ (q.reg MEM_PSTAT).getLsbD 2 = false) →
        ∀ es, exec (.loftScrubBurst p es) s = .next s) ∧
      (wfld (q.reg MEM_SCRUB) 0 8 ≠ 0 → (q.reg MEM_PSTAT).getLsbD 1 = false →
        ((q.reg MEM_PSTAT).getLsbD 2 = false → ∃ t, exec (.patrolScrubStep p ecc) s = .next t ∧ SameMemory s t ∧
          (t.port p).scrub = (q.scrub + 1) % granules ∧
          (s.upsets = [] → let a := s.addrOf p (q.scrub * 64)
            (ecc = .clean → t = s.setPort p { q with scrub := (q.scrub + 1) % granules }) ∧
            (ecc = .corrected → t.poison = s.poison ∧ t.stale = s.stale ∧
              ((s.portUsed p = false ∨ (s.portOf a).1 = p) → q.reg MEM_CE ≠ BitVec.allOnes 64 → (t.port p).reg MEM_CE = q.reg MEM_CE + 1)) ∧
            ((ecc = .uncorrectable ∨ ecc = .parity) → s.portUsed p = false → t.poison = s.poison ∧ t.stale = s.stale ∧
              (q.reg MEM_UE ≠ BitVec.allOnes 64 → (t.port p).reg MEM_UE = q.reg MEM_UE + 1)) ∧
            ((ecc = .uncorrectable ∨ ecc = .parity) → s.portUsed p = true →
              (Tab.get none s.stale (a / 64) = none → Tab.get false t.poison (a / 64) = true ∧ t.stale = s.stale) ∧
              (∀ bs b, Tab.get none s.stale (a / 64) = some (bs, b) → Tab.get none t.stale (a / 64) = some (bs, true) ∧ t.poison = s.poison) ∧
              ((s.portOf a).1 = p → q.reg MEM_UE ≠ BitVec.allOnes 64 → (t.port p).reg MEM_UE = q.reg MEM_UE + 1))) ∧
          ∀ j r, t.greg j r = s.greg j r ∧ t.freg j r = s.freg j r) ∧
        ((q.reg MEM_PSTAT).getLsbD 2 = true → ∀ es, ∃ t, exec (.loftScrubBurst p es) s = .next t ∧ SameMemory s t ∧
          (t.port p).scrub = (q.scrub + es.length) % granules ∧ ∀ j r, t.greg j r = s.greg j r ∧ t.freg j r = s.freg j r))) ∧
  (∀ (s : State) (p : Nat) (temp : BitVec 8), p < 8 → s.powered = true → ∃ u, Runs (.stackTempReadout p temp) s u ∧
      wfld ((u.port p).reg MEM_PSTAT) 8 8 = temp.toNat ∧ (∀ i, i < 8 ∨ 16 ≤ i → ((u.port p).reg MEM_PSTAT).getLsbD i = ((s.port p).reg MEM_PSTAT).getLsbD i) ∧
      (∀ off, off ≠ MEM_PSTAT → (u.port p).reg off = (s.port p).reg off) ∧ (∀ o, o ≠ p → u.port o = s.port o) ∧
      (u.clkReg THM_STAT).getLsbD 3 = ((s.clkReg THM_STAT).getLsbD 3 || decide (wfld (s.clkReg THM_CFG) 16 8 ≤ temp.toNat)) ∧
      (∀ off, off ≠ THM_STAT → u.clkReg off = s.clkReg off) ∧ u.cores = s.cores ∧ u.mem = s.mem) ∧
  ∀ (s : State) (ag : Nat) (v : Half), ag < 42 →
    ((ag = 40 ∧ s.mill.mapWritten = false) → ∃ t, exec (.memMapWrite ag v) s = .next t ∧
      t.memMapReg = (s.memMapReg &&& ~~~0x17777) ||| (v.setWidth 64 &&& 0x17777) ∧ t.mill.mapWritten = true ∧
      { t with memRegs := s.memRegs, mill := { t.mill with mapWritten := false } } = s) ∧
    (¬(ag = 40 ∧ s.mill.mapWritten = false) → exec (.memMapWrite ag v) s = .next (s.refused ag 0x02800000 v.toNat))

namespace Sys2Proof.Machine

/-- P of R454 in units of 0.25 W: the least of 1,000 W and the cap, where 0 stands for no cap and less than 400 W acts as 400 W (R455). -/
def limitOf (cap : Nat) : Nat := 4 * (if cap = 0 then 1000 else Nat.max 400 (Nat.min 1000 cap))

/-- The hottest sensor's reading and THROT, at most 105 °C, in 0.125 °C (R457). -/
def hotOf (s : State) : Int := ((s.clkReg THM_TEMP).setWidth 16 : BitVec 16).toInt
def throtOf (s : State) : Int := 8 * ((Nat.min (wfld (s.clkReg THM_CFG) 8 8) 105 : Nat) : Int)

end Sys2Proof.Machine

/-- THROTTLE_UPDATE, PWR_CAP_WRITE, CLRPEAK and SENSOR_SAMPLE. The estimate goes to PWR_EST; T rises by 1, to at most 45, when it exceeds P or the hottest sensor exceeds THROT, falls by 1, to at least 0, when it is below 0.95 P and the sensor is below THROT - 3 °C, and else stays; PEAK keeps the largest T. The mill controller and the host write PWR_CAP; no other agent does. CLRPEAK sets PEAK to T. A sample goes to THM_TEMP; HOT follows THROT, WARN sets from WARN on, and from 115 °C on the die trips, unless it has: TRIP sets, the state is TRIPPED, and every core that runs or posts halts. -/
def Obligations.PowerAndHeat : Prop :=
  (∀ (s : State) (est : BitVec 16), s.powered = true → wfld (s.clkReg PWR_THROT) 0 6 ≤ 45 → ∃ t, exec (.throttleUpdate est) s = .next t ∧
      t.clkReg PWR_EST = est.setWidth 64 ∧ (∀ off, off ≠ PWR_EST → off ≠ PWR_THROT → t.clkReg off = s.clkReg off) ∧ { t with clk := s.clk } = s ∧
      let T := wfld (s.clkReg PWR_THROT) 0 6;
      let P := limitOf (wfld (s.clkReg PWR_CAP) 0 16);
      let T' := if P < est.toNat ∨ throtOf s < hotOf s then Nat.min (T + 1) 45 else if est.toNat * 100 < 95 * P ∧ hotOf s < throtOf s - 24 then T - 1 else T;
      wfld (t.clkReg PWR_THROT) 0 6 = T' ∧ wfld (t.clkReg PWR_THROT) 8 6 = Nat.max (wfld (s.clkReg PWR_THROT) 8 6) T') ∧
  (∀ (s : State) (ag : Nat), ag < 42 →
      (∀ v : Half, ((ag = 40 ∨ ag = 41) → exec (.pwrCapWrite ag v) s = .next (s.setClkReg PWR_CAP ((v &&& 0xFFFF).setWidth 64))) ∧
        (¬(ag = 40 ∨ ag = 41) → exec (.pwrCapWrite ag v) s = .next s)) ∧
      ∃ t, exec (.clrpeak ag) s = .next t ∧ wfld (t.clkReg PWR_THROT) 0 6 = wfld (s.clkReg PWR_THROT) 0 6 ∧
        wfld (t.clkReg PWR_THROT) 8 6 = wfld (s.clkReg PWR_THROT) 0 6 ∧ (∀ off, off ≠ PWR_THROT → t.clkReg off = s.clkReg off) ∧ { t with clk := s.clk } = s) ∧
  (∀ (s : State) (sensor : BitVec 6) (reading : BitVec 16), s.powered = true →
      (reading.toInt < 8 * 115 → ∃ u, Runs (.sensorSample sensor reading) s u ∧ u.clkReg THM_TEMP = BitVec.ofNat 64 (sensor.toNat * 2 ^ 16 + reading.toNat) ∧
        (u.clkReg THM_STAT).getLsbD 1 = decide (throtOf s < reading.toInt) ∧
        (u.clkReg THM_STAT).getLsbD 0 = ((s.clkReg THM_STAT).getLsbD 0 || decide (8 * ((wfld (s.clkReg THM_CFG) 0 8 : Nat) : Int) ≤ reading.toInt)) ∧
        (∀ i, 2 ≤ i → (u.clkReg THM_STAT).getLsbD i = (s.clkReg THM_STAT).getLsbD i) ∧
        (∀ off, off ≠ THM_TEMP → off ≠ THM_STAT → u.clkReg off = s.clkReg off) ∧ u.cores = s.cores ∧ u.mem = s.mem) ∧
      (8 * 115 ≤ reading.toInt → s.inTrip = false → ∃ t, exec (.sensorSample sensor reading) s = .next t ∧ t.inTrip = true ∧
        (t.clkReg THM_STAT).getLsbD 2 = true ∧ (∀ k, (t.core k).run = if (s.core k).run = .running ∨ (s.core k).run = .posting then .halted else (s.core k).run) ∧
        (∀ k, t.canRun k = false) ∧ (∀ k r, t.greg k r = s.greg k r ∧ t.freg k r = s.freg k r) ∧ SameMemory s t))

namespace Sys2Proof.Machine

/-- What ALERT_N shows when unread entries exist or not from now on: its change, unless the test port drives the balls (R419, R468, R475). -/
def alertShows (s : State) (unread : Bool) : List OutMsg := if decide (s.err.rptr < s.err.wptr) = unread ∨ s.jtag.ir.drives = true then [] else [.alert unread]

/-- The SMBus target's answer to a read of command `cmd`: its address, the bytes, and the packet error code over the whole transaction (R419, log 84). -/
def smbReply (s : State) (cmd : Byte) (wire : List Byte) : OutMsg :=
  let a := 0x58 + s.board.smba.toNat
  .smbus a wire (smbPec ([BitVec.ofNat 8 (2 * a), cmd, BitVec.ofNat 8 (2 * a + 1)] ++ wire))

end Sys2Proof.Machine

/-- The error log, ERR_RPTR_WRITE, CLRLOST, ERRCNT and ERRPOP. An occurrence whose code, agent, unit and address are those of the newest unread entry adds 1 to its COUNT, at most 0xFFFF; otherwise, with 256 entries unread, it is lost and counted; neither sends a vector; otherwise it is the next entry, with COUNT 1, at WPTR mod 256. ERR_RPTR takes a written value from RPTR to WPTR and ignores every other one. CLRLOST sets ERR_LOST to zero with its OVF bit. ERRCNT reports the unread entries, at most 256; ERRPOP returns the oldest one and steps RPTR, and 32 zero bytes when there is none. ALERT_N goes low with the first unread entry and high with the last one read. The premise RPTR ≤ WPTR ≤ RPTR + 256 is kept by every step (LogAndThrottleKept). The packet error code over the whole transaction is the model's choice (PRESUMED, log 84). -/
def Obligations.ErrorLog : Prop :=
  (∀ (s : State) (code agent unit addr detail : Nat), s.err.rptr ≤ s.err.wptr → s.err.wptr ≤ s.err.rptr + 256 →
      let t := (s.logOnce code agent unit addr detail).1;
      let n := Tab.get {} s.err.ring ((s.err.wptr - 1) % 256);
      let same := s.err.rptr < s.err.wptr ∧ n.code = code ∧ n.agent = agent ∧ n.unit = unit ∧ n.addr = addr;
      t.err.rptr = s.err.rptr ∧
      (same → t.err.wptr = s.err.wptr ∧ t.err.lost = s.err.lost ∧ Tab.get {} t.err.ring ((s.err.wptr - 1) % 256) = { n with count := Nat.min (n.count + 1) 0xFFFF } ∧
        (∀ i, i ≠ (s.err.wptr - 1) % 256 → Tab.get {} t.err.ring i = Tab.get {} s.err.ring i)) ∧
      (¬same → s.err.wptr = s.err.rptr + 256 → t.err.wptr = s.err.wptr ∧ t.err.ring = s.err.ring ∧ t.err.lost = Nat.min (s.err.lost + 1) (2 ^ 64 - 1)) ∧
      (¬same → s.err.wptr < s.err.rptr + 256 → t.err.wptr = s.err.wptr + 1 ∧ t.err.lost = s.err.lost ∧
        Tab.get {} t.err.ring (s.err.wptr % 256) = { time := s.cycle, code := code, agent := agent, sev := sevOf code, count := 1, unit := unit, addr := addr, detail := detail } ∧
        (∀ i, i ≠ s.err.wptr % 256 → Tab.get {} t.err.ring i = Tab.get {} s.err.ring i)) ∧ { t with err := s.err, host := s.host, outbox := s.outbox } = s ∧
      ((same ∨ s.err.wptr = s.err.rptr + 256) → t.host = s.host ∧ t.outbox = s.outbox) ∧
      (s.err.wptr = s.err.rptr → ∃ l, t.outbox = s.outbox ++ alertShows s true ++ l)) ∧
  (∀ (s : State) (ag : Nat) (v : Word), ag < 42 →
      ((s.err.rptr ≤ v.toNat ∧ v.toNat ≤ s.err.wptr) → exec (.errRptrWrite ag v) s =
        .next { s with err := { s.err with rptr := v.toNat }, outbox := s.outbox ++ alertShows s (decide (v.toNat < s.err.wptr)) }) ∧
      ((v.toNat < s.err.rptr ∨ s.err.wptr < v.toNat) → exec (.errRptrWrite ag v) s = .next s) ∧
      ∃ t, exec (.clrlost ag) s = .next t ∧ t.err.lost = 0 ∧ (∀ i, (t.errReg ERR_CFG).getLsbD i = ((s.errReg ERR_CFG).getLsbD i && decide (i ≠ 17))) ∧
        (∀ off, off ≠ ERR_CFG → t.errReg off = s.errReg off) ∧ { t with err := { t.err with lost := s.err.lost, regs := s.err.regs } } = s) ∧
  (∀ s : State, s.powered = true → s.jtag.ir.drives = false →
      exec .errcnt s = .next { s with outbox := s.outbox ++ [smbReply s 0x05 (leBytes 2 (Nat.min (s.err.wptr - s.err.rptr) 256))] } ∧
      (s.err.rptr < s.err.wptr → exec .errpop s = .next { s with
        err := { s.err with rptr := s.err.rptr + 1 },
        outbox := s.outbox ++ smbReply s 0x06 (32 :: (Tab.get {} s.err.ring (s.err.rptr % 256)).bytes) :: alertShows s (decide (s.err.rptr + 1 < s.err.wptr)) }) ∧
      (s.err.wptr ≤ s.err.rptr → exec .errpop s = .next { s with outbox := s.outbox ++ [smbReply s 0x06 (32 :: List.replicate 32 0)] }))

namespace Sys2Proof.Machine

/-- The error log holds at most 256 unread entries, and T is at most 45. -/
def LogAndThrottle (s : State) : Prop := s.err.rptr ≤ s.err.wptr ∧ s.err.wptr ≤ s.err.rptr + 256 ∧ wfld (s.clkReg PWR_THROT) 0 6 ≤ 45

end Sys2Proof.Machine

/-- The error log never holds more than 256 unread entries, and T never exceeds 45. For every state in which RPTR is at most WPTR, WPTR at most RPTR + 256 and T at most 45, if a step answers a next state, all three hold there too. -/
def Obligations.LogAndThrottleKept : Prop :=
  ∀ s t : State, LogAndThrottle s → step s = .next t → LogAndThrottle t

namespace Sys2Proof.Machine

/-- Port `p` is LOST: it holds no credit, sends and replays nothing, and every port of broadcast mask 24 that keeps no accumulator has one LINK_LOST about its partner (R365, R390, R391). -/
def PortLost (s t : State) (p : Nat) : Prop :=
  (t.link p).state = 3 ∧ (t.link p).tx = [] ∧ (t.link p).replay = [] ∧ (t.link p).credits = [] ∧
  (∀ q, q < 24 → (s.dlnReg (DLN_BCAST + 24 * 8)).getLsbD q = true → (s.link q).acc = [] → (t.link q).acc = [((s.link p).partner, 1, 1)]) ∧
  (∀ j r, t.greg j r = s.greg j r) ∧ SameMemory s t

/-- Port `p` is parked: DOWN and PARKED, with nothing to send (R366). -/
def PortParked (s t : State) (p : Nat) : Prop :=
  (t.link p).state = 0 ∧ (t.link p).parked = true ∧ (t.link p).tx = [] ∧ (∀ q, (t.link q).acc = (s.link q).acc) ∧ (∀ j r, t.greg j r = s.greg j r) ∧ SameMemory s t

end Sys2Proof.Machine

/-- LINK_BLOCK and LINK_BLOCK_SEND. An UP port discards a block that fails its CRC and owes a negative acknowledgement; for a gap in the numbers it owes one, once. A negative acknowledgement of a block that waits replays it and every later one; the sixteenth replay of a block that fails loses the partner. The block of the next sequence number, with listed types only, is delivered: its flits but IDLE ones go to their lanes in order, credits come back, acknowledged blocks leave the replay buffer, and an acknowledgement is due; one delivered before is not delivered again; one with a TYPE not listed loses the partner; one with PARK parks the port. A port that sends replays first, as the block was, and when one is due a block of IDLE flits before it, with the number before the block that was negatively acknowledged; else it takes at most five flits, four into the first block after a training, from the heads of its lanes into the block of its next sequence number, its free slots IDLE and its CRC good, which it keeps for replay until 64 wait. A port that is not UP takes acknowledgements alone, when it is parked. That a gap is negatively acknowledged once, which negative acknowledgements count as replays that fail, and the IDLE blocks of a replay and of the first block are the model's choice (DESIGN CHOICE, log 83). -/
def Obligations.LinkBlocks : Prop :=
  (∀ (s : State) (p : Nat) (b : LinkBlock), p < 24 →
      let l0 := s.link p;
      (l0.state ≠ 2 → (l0.parked = false ∨ b.crcOk = false ∨ b.ack = none) → exec (.linkBlock p b) s = .next s) ∧
      (l0.state ≠ 2 → l0.parked = true → b.crcOk = true → ∀ n, b.ack = some n → ∃ l, exec (.linkBlock p b) s = .next (s.setLink p l) ∧
        (∀ x, x ∈ l.replay ↔ x ∈ l0.replay ∧ n < x.seq) ∧ l.rx = l0.rx ∧ l.rxSeq = l0.rxSeq ∧ l.regs = l0.regs ∧ l.acc = l0.acc) ∧
      (l0.state = 2 → b.crcOk = false → exec (.linkBlock p b) s = .next (s.setLink p { l0 with nakDue := some l0.rxSeq, nakSent := true })) ∧
      (l0.state = 2 → b.crcOk = true → b.ack = none → b.seq < l0.rxSeq → ∀ n, b.nak = some n → l0.replay.any (fun x => x.seq == n) = true →
        ((l0.nakSeq ≠ n ∨ l0.nakCount = 0) → ∃ t, exec (.linkBlock p b) s = .next t ∧ (t.link p).resend = l0.replay.filter (fun x => decide (n ≤ x.seq)) ∧ (t.link p).nakCount = 1) ∧
        (l0.nakSeq = n → 16 ≤ l0.nakCount → l0.replayed = true → ∃ t, exec (.linkBlock p b) s = .next t ∧ PortLost s t p)) ∧
      (l0.state = 2 → b.crcOk = true → b.nak = none →
        (b.seq < l0.rxSeq → ∃ t, exec (.linkBlock p b) s = .next t ∧ (t.link p).rx = l0.rx ∧ (t.link p).rxSeq = l0.rxSeq ∧
          (t.link p).ackDue = some (l0.rxSeq - 1)) ∧
        (l0.rxSeq < b.seq → ∃ t, exec (.linkBlock p b) s = .next t ∧ (t.link p).rx = l0.rx ∧ (t.link p).rxSeq = l0.rxSeq ∧ (t.link p).credits = l0.credits ∧
          (t.link p).nakDue = (if l0.nakSent then l0.nakDue else some l0.rxSeq)) ∧
        (b.seq = l0.rxSeq → b.flits.any (fun f => !typeListed f.typ.toNat) = true → ∃ t, exec (.linkBlock p b) s = .next t ∧ PortLost s t p) ∧
        (b.seq = l0.rxSeq → b.flits.all (fun f => typeListed f.typ.toNat) = true →
          let lanes := fun (l : Link) => l.rxSeq = l0.rxSeq + 1 ∧ l.ackDue = some b.seq ∧ l.nakDue = none ∧
            (∀ v : BitVec 2, Tab.get [] l.rx v.toNat = Tab.get [] l0.rx v.toNat ++ b.flits.filter (fun f => decide (f.typ ≠ 0) && decide (f.vl = v))) ∧
            (∀ x, x ∈ l.replay ↔ x ∈ l0.replay ∧ ∀ n ∈ b.ack, n < x.seq) ∧ l.acc = l0.acc;
          (b.park = true → ∃ t, exec (.linkBlock p b) s = .next t ∧ PortParked s t p ∧ lanes (t.link p)) ∧
          (b.park = false → ∃ l, exec (.linkBlock p b) s = .next (s.setLink p l) ∧ lanes l ∧
            (∀ i, i < 4 → Tab.get 0 l.credits i = Tab.get 0 l0.credits i + b.credits.getD i 0) ∧ l.tx = l0.tx ∧ l.regs = l0.regs)))) ∧
  (∀ (s : State) (p : Nat), p < 24 → s.jtag.ir.drives = false → (s.link p).state = 2 →
      let l0 := s.link p;
      let due := [Tab.get 0 l0.creditDue 0, Tab.get 0 l0.creditDue 1, Tab.get 0 l0.creditDue 2, Tab.get 0 l0.creditDue 3];
      (∀ b bs, l0.resend = b :: bs →
        (l0.sinceIdle < 1023 ∨ Machine.LinkBlock.hasIdle b = true → ∃ t, exec (.linkBlockSend p) s = .next t ∧ t.outbox = s.outbox ++ [.link p b] ∧ (t.link p).resend = bs ∧
          (t.link p).sinceIdle = (if Machine.LinkBlock.hasIdle b then 0 else l0.sinceIdle + 1) ∧ (t.link p).tx = l0.tx) ∧
        (1023 ≤ l0.sinceIdle → Machine.LinkBlock.hasIdle b = false → ∃ t, exec (.linkBlockSend p) s = .next t ∧ t.outbox = s.outbox ++ [.link p (blockOf (l0.nakSeq - 1) [] none none [] false)] ∧
          (t.link p).resend = l0.resend ∧ (t.link p).sinceIdle = 0 ∧ (t.link p).tx = l0.tx)) ∧
      (l0.resend = [] → 64 ≤ l0.replay.length → exec (.linkBlockSend p) s = .next s) ∧
      (l0.resend = [] → l0.replay.length < 64 → ∃ (t : State) (fs : List Flit) (g : Nat → List Flit), exec (.linkBlockSend p) s = .next t ∧
        let b := blockOf l0.txSeq fs l0.ackDue l0.nakDue due l0.parking;
        t.outbox = s.outbox ++ [.link p b] ∧ b.crcOk = true ∧ (t.link p).txSeq = l0.txSeq + 1 ∧ (t.link p).replay = l0.replay ++ [b] ∧ (t.link p).creditDue = [] ∧
        fs.length ≤ 5 ∧ (1023 ≤ l0.sinceIdle ∨ l0.txSeq = 0 → fs.length ≤ 4) ∧ (l0.parking = true → fs = []) ∧ fs.Perm (g 0 ++ g 1 ++ g 2 ++ g 3) ∧
        (∀ v, v < 4 → Tab.get [] l0.tx v = g v ++ Tab.get [] (t.link p).tx v) ∧ (∀ q, q ≠ p → t.link q = s.link q) ∧ SameMemory s t))

namespace Sys2Proof.Machine

/-- What the router has done with flit `f` in going from `s` to `t`, where `src` delivered it (R371). -/
def FlitRouted (s t : State) (src : Nat) (f : Flit) : Prop :=
  (f.dst.toNat = s.dev → t.dln.inbox = s.dln.inbox ++ [(src, f)]) ∧
  (f.dst.toNat ≠ s.dev → t.dln.inbox = s.dln.inbox) ∧
  ((f.dst.toNat ≠ s.dev ∧ (6 ≤ f.hops.toNat ∨ s.routeOf f.dst.toNat (classOf f.typ.toNat) = none)) → s.dlnReg DLN_DROPS ≠ BitVec.allOnes 64 →
    t.dlnReg DLN_DROPS = s.dlnReg DLN_DROPS + 1) ∧
  (f.dst.toNat ≠ s.dev → f.hops.toNat < 6 → ∀ p v, s.routeOf f.dst.toNat (classOf f.typ.toNat) = some (p, v) →
    Tab.get [] (t.link p).tx v = Tab.get [] (s.link p).tx v ++ [{ f with vl := BitVec.ofNat 2 v, hops := f.hops + 1 }] ∧
    Tab.get 0 (t.link p).credits v = Tab.get 0 (s.link p).credits v - 1 ∧ t.dlnReg DLN_DROPS = s.dlnReg DLN_DROPS) ∧
  (∀ j r, t.greg j r = s.greg j r) ∧ SameMemory s t

/-- Flits that had left over a port are routed again one after another, each with the HOPS that it had before, and one for whose route there is no credit waits with the die's own flits (log 83). -/
def Rerouted : State → List Flit → State → Prop
  | s, [], t => t = s
  | s, f :: fs, t =>
    let g : Flit := { f with hops := f.hops - 1 }
    ∃ u, (s.routed g = .wait → u = { s with dln := { s.dln with outq := s.dln.outq ++ [g] } }) ∧ (s.routed g ≠ .wait → FlitRouted s u 24 g) ∧ Rerouted u fs t

/-- The flits that a port has sent without an acknowledgement. -/
def sentOpen (l : Link) : List Flit := (l.replay.flatMap LinkBlock.flits).filter (fun f => decide (f.typ ≠ 0))

end Sys2Proof.Machine

/-- PARK, PARK_TIMEOUT, LANE_SIGNAL_LOSS, CREDIT_TIMEOUT, LINK_TRAINING_DONE, LINK_TRAINING_TIMEOUT and DLN_PCFG_WRITE. PARK takes an UP port to DOWN and PARKED. The loss of signal on an UP port, or a credit timeout with a flit waiting for that lane's credit, loses its partner and originates LINK_LOST; on any other port the loss of signal loses no partner, and a parked one gives what it had sent unacknowledged back to the router, which routes each flit again with the HOPS that it had, or keeps it with the die's own while its route has no credit. Training that completes on a port that trains or is parked, with at least four lanes and not in loft, where every port is DOWN, makes it UP with PARKED clear, the partner known, full credits on its lanes and empty receive buffers, and what stood there goes to the router; a timeout takes it DOWN. A new ROLE takes the port down, and FABRIC or NODE starts training outside loft. That received flits go to the router at a training, and what a parked port had sent unacknowledged goes there too, are the model's choice (DESIGN CHOICE, log 83), and so are the credits of a training (log 40). -/
def Obligations.LinkStates : Prop :=
  ∀ (s : State) (p : Nat), p < 24 →
    ((s.link p).state = 2 → (∃ t, exec (.park p) s = .next t ∧ PortParked s t p) ∧ (∃ t, exec (.laneSignalLoss p) s = .next t ∧ PortLost s t p) ∧
      ∀ vl : BitVec 2, ((s.routerFlits.any (s.waitsOn p vl.toNat)) = true → ∃ t, exec (.creditTimeout p vl) s = .next t ∧ PortLost s t p) ∧
        ((s.routerFlits.any (s.waitsOn p vl.toNat)) = false → exec (.creditTimeout p vl) s = .next s)) ∧
    ((s.link p).state ≠ 2 → exec (.park p) s = .next s ∧ ((s.link p).parked = false → exec (.laneSignalLoss p) s = .next s) ∧
      ((s.link p).parked = true → ∃ t, exec (.laneSignalLoss p) s = .next t ∧ t.link p = { s.link p with replay := [] } ∧
        Rerouted (s.setLink p { s.link p with replay := [] }) (sentOpen (s.link p)) t ∧ (∀ q, (t.link q).acc = (s.link q).acc) ∧
        (∀ j r, t.greg j r = s.greg j r) ∧ SameMemory s t) ∧ ∀ vl, exec (.creditTimeout p vl) s = .next s) ∧
    exec (.parkTimeout p) s = .next (s.setLink p { s.link p with parking := false }) ∧
    (∀ (partner : BitVec 12) (pport : BitVec 5) (lanes : BitVec 4),
      (((s.link p).state = 1 ∨ (s.link p).state = 3 ∨ (s.link p).parked = true) → (s.link p).state ≠ 2 → 4 ≤ lanes.toNat → s.pstate ≠ 3 → ∃ t u l, exec (.linkTrainingDone p partner pport lanes) s = .next t ∧ t.link p = l ∧
        (let fs := Tab.get [] (s.link p).rx 0 ++ Tab.get [] (s.link p).rx 1 ++ Tab.get [] (s.link p).rx 2 ++ Tab.get [] (s.link p).rx 3;
         ((s.link p).parked = false → u = s) ∧ ((s.link p).parked = true → Rerouted (s.setLink p { s.link p with replay := [] }) (sentOpen (s.link p)) u) ∧
         t = { u with dln := { u.dln with inbox := u.dln.inbox ++ (fs.filter (fun (f : Flit) => decide (f.dst.toNat = s.dev))).map (fun (f : Flit) => (p, f)),
                                                                      outq := u.dln.outq ++ fs.filter (fun (f : Flit) => decide (f.dst.toNat ≠ s.dev)) } }.setLink p l) ∧
        (∀ j r, t.greg j r = s.greg j r) ∧ SameMemory s t ∧
        l.state = 2 ∧ l.parked = false ∧ l.partner = partner.toNat ∧ wfld (l.reg DLN_PSTAT) 11 5 = pport.toNat ∧ wfld (l.reg DLN_PSTAT) 3 4 = (if lanes.toNat < 8 then 4 else 8) ∧
        (∀ v, v < 4 → Tab.get 0 l.credits v = 512) ∧ l.role = (s.link p).role ∧ l.acc = (s.link p).acc ∧ l.tx = (s.link p).tx ∧
        (∀ v, v < 4 → Tab.get [] l.rx v = [])) ∧
      (¬(((s.link p).state = 1 ∨ (s.link p).state = 3 ∨ (s.link p).parked = true) ∧ 4 ≤ lanes.toNat ∧ s.pstate ≠ 3) → exec (.linkTrainingDone p partner pport lanes) s = .next s)) ∧
    (((s.link p).state = 1 ∨ (s.link p).state = 3) → ∃ l, exec (.linkTrainingTimeout p) s = .next (s.setLink p l) ∧ l.state = 0 ∧ { l with regs := (s.link p).regs } = s.link p ∧ l.role = (s.link p).role) ∧
    ((s.link p).state ≠ 1 → (s.link p).state ≠ 3 → exec (.linkTrainingTimeout p) s = .next s) ∧
    (∀ role : BitVec 2, (role.toNat = (s.link p).role → exec (.dlnPcfgWrite p role) s = .next s) ∧
      (role.toNat ≠ (s.link p).role → ∃ t, exec (.dlnPcfgWrite p role) s = .next t ∧ (t.link p).role = role.toNat ∧ (t.link p).tx = [] ∧ (t.link p).replay = [] ∧
        (t.link p).state = (if (role = 1 ∨ role = 2) ∧ s.pstate ≠ 3 then 1 else 0) ∧ (∀ q, (t.link q).acc = (s.link q).acc) ∧ (∀ j r, t.greg j r = s.greg j r) ∧ SameMemory s t))

/-- FLIT_ROUTE, NOTICE_SEND, NOTICE, COALESCER_HOLD and DLN_FCCLOSE. A flit for the die's own device number is delivered; another one with HOPS at 6 or without a usable route is dropped and counted; else it takes a credit and leaves on the lane of its route with HOPS incremented, or waits while there is no credit. A flit that leaves a receive buffer gives a credit back. Of the die's own flits the first of the lane's class that need not wait leaves; with the last RETURN flit of a RETURNING bucket the bucket's return ends, and while the bucket's flags lie in a held window that flit waits (log 86). A notice is counted by the coalescer and offered to every port of its broadcast mask; a port sends an accumulator's whole count as one NOTICE flit, on lane 2 (the model's choice, log 41), and clears it. A MERGING record becomes HELD, and a HELD one is freed by DLN_FCCLOSE. -/
def Obligations.FlitRouting : Prop :=
  (∀ (s : State) (src : Nat) (vl : BitVec 2) (f : Flit) (fs : List Flit), src < 24 →
      Tab.get [] (s.link src).rx vl.toNat = f :: fs →
      (s.routed f = .wait → exec (.flitRoute src vl) s = .next s) ∧
      (s.routed f ≠ .wait → ∃ t, exec (.flitRoute src vl) s = .next t ∧ FlitRouted s t src f ∧ Tab.get [] (t.link src).rx vl.toNat = fs ∧
        Tab.get 0 (t.link src).creditDue vl.toNat = Tab.get 0 (s.link src).creditDue vl.toNat + 1)) ∧
  (∀ (s : State) (vl : BitVec 2) (f : Flit) (pre fs : List Flit), s.dln.outq = pre ++ f :: fs → (∀ g ∈ pre, classOf g.typ.toNat = vl.toNat / 2 → s.routed g = .wait) →
      classOf f.typ.toNat = vl.toNat / 2 → s.routed f ≠ .wait →
      let b := f.addr % 2 ^ 14;
      let ours := fun (g : Flit) => g.typ.toNat = tyReturn ∧ g.src.toNat = s.dev ∧ g.addr % 2 ^ 14 = b;
      ((¬ours f ∨ (∃ g ∈ pre ++ fs, ours g) ∨ (s.bucket b).state ≠ 3) → ∃ t, exec (.flitRoute 24 vl) s = .next t ∧ FlitRouted s t 24 f ∧ t.dln.outq = pre ++ fs) ∧
      (ours f → (¬∃ g ∈ pre ++ fs, ours g) → (s.bucket b).state = 3 → s.target (s.bucketAddr b) = .stack → s.heldTarget (s.target (s.bucket b).flag) = true → exec (.flitRoute 24 vl) s = .next s) ∧
      (ours f → (¬∃ g ∈ pre ++ fs, ours g) → (s.bucket b).state = 3 → s.upsets = [] → s.target (s.bucketAddr b) = .stack → s.target ((s.bucket b).flag + 8) = .stack → s.heldTarget (s.target (s.bucket b).flag) = false →
        ∃ t, exec (.flitRoute 24 vl) s = .next t ∧ t.dln.outq = pre ++ fs ∧ t.bkt b = {} ∧ b ∉ t.dln.active)) ∧
  (∀ (s : State) (p i : Nat) (a : Nat × Nat × Nat), p < 24 → (s.link p).acc[i]? = some a → (s.link p).usable = true → 0 < Tab.get 0 (s.link p).credits 2 →
      ∃ t f, exec (.noticeSend p i) s = .next t ∧ (t.link p).acc = (s.link p).acc.eraseIdx i ∧ Tab.get [] (t.link p).tx 2 = Tab.get [] (s.link p).tx 2 ++ [f] ∧
        f.typ.toNat = tyNotice ∧ f.dst = BitVec.ofNat 12 (s.link p).partner ∧ f.subject = BitVec.ofNat 12 a.1 ∧ f.cls = BitVec.ofNat 4 a.2.1 ∧ f.count = BitVec.ofNat 32 a.2.2 ∧
        Tab.get 0 (t.link p).credits 2 = Tab.get 0 (s.link p).credits 2 - 1 ∧ (∀ q, q ≠ p → t.link q = s.link q) ∧ { t with dln := s.dln } = s) ∧
  (∀ (s : State) (i : Nat) (f : Flit) (rest : List (Nat × Flit)), s.dln.inbox = (i, f) :: rest → f.typ.toNat = tyNotice → i < 25 → ∃ t, exec .notice s = .next t ∧ t.dln.inbox = rest ∧
      (∀ p, p < 24 → (t.link p).acc = if (s.dlnReg (DLN_BCAST + i * 8)).getLsbD p then accAdd (s.link p).acc f.subject.toNat f.cls.toNat f.count.toNat else (s.link p).acc) ∧
      (f.cls ≠ 0xF → (∀ r, r < 64 → s.fcState r = 0) → t.fcState 0 = 1 ∧ wfld (t.fcRec 0) 0 12 = f.subject.toNat ∧ wfld (t.fcRec 0) 16 4 = f.cls.toNat ∧
        wfld (t.fcRec 0) 32 32 = f.count.toNat ∧ t.dlnReg (DLN_FCREC + 8) = s.clkReg CLK_CYCLE) ∧ (∀ j r, t.greg j r = s.greg j r) ∧ SameMemory s t) ∧
  (∀ (s : State) (r : Nat), r < 65 →
      (s.fcState r ≠ 1 → exec (.coalescerHold r) s = .next s) ∧
      (s.fcState r = 1 → ∃ t, exec (.coalescerHold r) s = .next t ∧ t.fcState r = 2 ∧ (∀ i, i ≠ 24 → i ≠ 25 → (t.fcRec r).getLsbD i = (s.fcRec r).getLsbD i) ∧
        ((s.dlnReg DLN_FCCFG).getLsbD 31 = true → r < 64 → wfld (s.dlnReg DLN_FCCFG) 0 6 < 40 → (t.creg (wfld (s.dlnReg DLN_FCCFG) 0 6) CORE_IPEND).getLsbD 0x20 = true) ∧
        { t with dln := s.dln, cores := s.cores } = s)) ∧
  (∀ (s : State) (r : BitVec 7), ((64 < r.toNat ∨ s.fcState r.toNat ≠ 2) → exec (.dlnFcclose r) s = .next s) ∧
      (r.toNat ≤ 64 → s.fcState r.toNat = 2 → ∃ t, exec (.dlnFcclose r) s = .next t ∧ t.fcRec r.toNat = 0 ∧ t.dlnReg (DLN_FCREC + r.toNat * 0x20 + 8) = 0 ∧
        (∀ off, off ≠ DLN_FCREC + r.toNat * 0x20 → off ≠ DLN_FCREC + r.toNat * 0x20 + 8 → t.dlnReg off = s.dlnReg off) ∧ { t with dln := { t.dln with regs := s.dln.regs } } = s))

namespace Sys2Proof.Machine

/-- What the failure of request `r` makes of `u` (R377): a load of a core or of its sync unit reads zero and its store is done, and REMOTE_TIMEOUT is logged, with the aperture address and the device; a hollander descriptor faults HOL_REMOTE at the address, and it and what stands behind it in its gather go with their requests; a mover descriptor's request is marked. -/
def ReqFailed (u t : State) (r : RemReq) : Prop :=
  let noted := fun (v : State) => v.log logRemoteTimeout r.core (freeUnit logRemoteTimeout) (2 ^ 47 + r.dev * 2 ^ 35 + r.addr % 2 ^ 35) r.dev
  let alone := (r.write = false → t = noted (u.mapReq r.tag (fun q => { q with data := some (List.replicate q.len 0) }))) ∧ (r.write = true → t = noted (u.dropReq r.tag))
  (r.desc = none → alone) ∧
  ∀ q p i, r.desc = some (q, p, i) →
    (36 ≤ r.core → t = u.mapReq r.tag (fun x => { x with failed := true })) ∧
    (r.core < 36 → (u.core r.core).eng.yq.any (fun o => o.seq == q && o.pos == p) = true → alone) ∧
    (r.core < 36 → (u.core r.core).eng.yq.any (fun o => o.seq == q && o.pos == p) = false →
      let v := u.engFault r.core ⟨q, p, i, unitH, 0x67, 0, r.addr⟩
      let gone := fun (a b c : Nat) => a = q ∧ b = p ∧ i ≤ c
      (∀ k, (t.core k).regs = (v.core k).regs ∧ (t.core k).g = (v.core k).g) ∧
      (∀ h, h ∈ (t.core r.core).eng.hol ↔ h ∈ (v.core r.core).eng.hol ∧ ¬gone h.seq h.pos h.idx) ∧
      (∀ x, x ∈ t.dln.reqs ↔ x ∈ v.dln.reqs ∧ ¬(x.core = r.core ∧ ∃ a b c, x.desc = some (a, b, c) ∧ gone a b c)) ∧ SameMemory u t)

end Sys2Proof.Machine

/-- RD, WR, RDRSP, WRACK, NACK and REQUEST_TIMEOUT. The first RD of the inbox that nothing holds back is answered by an RDRSP with the bytes and its tag, or, when the die does not accept it, by a NACK, and changes nothing else but the replacement trees of vats whose cache ways serve the read; the first such WR writes its bytes and is answered by a WRACK, or by a NACK. An RDRSP brings its request the data and, by status 1 beside data, its poison mark, a WRACK ends its request. An RDRSP of poisoned bytes, and a NACK, carry status 1 (the model's reading of these codes, log 42). A NACK, an RDRSP of status 1 without data or a timeout fails a core's access: a load reads zero, a store is done, both logged; a hollander descriptor faults HOL_REMOTE. No error waits in the storage of an access. A response that no open request waits for is discarded. -/
def Obligations.RemoteAccesses : Prop :=
  (∀ (s : State) (x : Nat × Flit), s.upsets = [] →
      (s.firstReq tyRd s.dln.inbox [] = some x → ∃ t f, exec .rd s = .next t ∧ t.dln.inbox = s.dln.inbox.erase x ∧ t.dln.outq = s.dln.outq ++ [f] ∧
        f.dst = x.2.src ∧ f.src = BitVec.ofNat 12 s.dev ∧ f.tag = x.2.tag ∧ Touched s { t with dln := { t.dln with inbox := s.dln.inbox, outq := s.dln.outq } } ∧
        (s.acceptsRemote (x.2.addr % 2 ^ 48) x.2.len = false → f.typ.toNat = tyNack ∧ f.status = 1) ∧
        (s.acceptsRemote (x.2.addr % 2 ^ 48) x.2.len = true → f.typ.toNat = tyRdrsp ∧
          f.payload = s.physRead (x.2.addr % 2 ^ 48) x.2.len ∧ f.status = (if s.anyBad (x.2.addr % 2 ^ 48) x.2.len then 1 else 0))) ∧
      (s.firstReq tyWr s.dln.inbox [] = some x →
        (s.acceptsRemote (x.2.addr % 2 ^ 48) x.2.len = false → ∃ t f, exec .wr s = .next t ∧ t.dln.inbox = s.dln.inbox.erase x ∧ t.dln.outq = s.dln.outq ++ [f] ∧
          f.typ.toNat = tyNack ∧ f.status = 1 ∧ f.dst = x.2.src ∧ f.tag = x.2.tag ∧ SameMemory s t) ∧
        (s.acceptsRemote (x.2.addr % 2 ^ 48) x.2.len = true → s.target (x.2.addr % 2 ^ 48) = .stack → x.2.payload.length = x.2.len → ∃ t f, exec .wr s = .next t ∧
          t.dln.inbox = s.dln.inbox.erase x ∧ t.dln.outq = s.dln.outq ++ [f] ∧ f.typ.toNat = tyWrack ∧ f.dst = x.2.src ∧ f.tag = x.2.tag ∧
          (∀ i, i < x.2.len → t.mem.read (x.2.addr % 2 ^ 48 + i) = x.2.payload.getD i 0) ∧
          (∀ a, (a < x.2.addr % 2 ^ 48 ∨ x.2.addr % 2 ^ 48 + x.2.len ≤ a) → t.mem.read a = s.mem.read a) ∧ ∀ j r, t.greg j r = s.greg j r))) ∧
  (∀ (s : State) (i : Nat) (f : Flit) (rest : List (Nat × Flit)) (r : RemReq), s.dln.inbox = (i, f) :: rest → s.reqOf f.tag.toNat = some r →
      let u := { s with dln := { s.dln with inbox := rest } };
      (f.typ.toNat = tyRdrsp → r.write = false → ¬(f.status = 1 ∧ f.len = 0) →
        exec .rdrsp s = .next (u.mapReq r.tag (fun q => { q with data := some (((q.data.getD []) ++ f.payload.take f.len).take q.len), bad := q.bad || decide (f.status = 1) }))) ∧
      (f.typ.toNat = tyRdrsp → r.write = true → exec .rdrsp s = .next u) ∧ (f.typ.toNat = tyWrack → r.write = false → exec .wrack s = .next u) ∧
      (f.typ.toNat = tyWrack → r.write = true → r.desc = none → exec .wrack s = .next (u.dropReq r.tag)) ∧
      (f.typ.toNat = tyWrack → r.write = true → ∀ q p n, r.desc = some (q, p, n) → r.core < 36 → ∃ t, exec .wrack s = .next t ∧ t.dln.reqs = s.dln.reqs.filter (fun x => x.tag != r.tag) ∧
        (t.core r.core).eng.hol = (s.core r.core).eng.hol.map (fun h => if h.seq = q ∧ h.pos = p ∧ h.idx = n then { h with outstanding := h.outstanding - 1 } else h)) ∧
      (f.typ.toNat = tyNack → ∃ t, exec .nack s = .next t ∧ ReqFailed u t r) ∧ (f.typ.toNat = tyRdrsp → r.write = false → f.status = 1 → f.len = 0 → ∃ t, exec .rdrsp s = .next t ∧ ReqFailed u t r)) ∧
  (∀ (s : State) (tag : BitVec 16), (s.reqOf tag.toNat = none → exec (.requestTimeout tag) s = .next s) ∧
      ∀ r, s.reqOf tag.toNat = some r → ∃ t, exec (.requestTimeout tag) s = .next t ∧ ReqFailed s t r)

namespace Sys2Proof.Machine

/-- The return of bucket `b` has ended (R379): flag word 1 holds the bucket and the STEP it had, the entry is IDLE with STEP one more, and nothing of its run-time state is left. -/
def BucketEnded (s t : State) (b : Nat) : Prop :=
  let e := s.bucket b
  t.mem.readLE (e.flag + 8) 8 = 2 ^ 63 + b * 2 ^ 16 + e.step ∧ t.bucket b = { e with state := 0, step := (e.step + 1) % 2 ^ 16 } ∧ b ∉ t.dln.active ∧ t.bkt b = {}

end Sys2Proof.Machine

/-- CHAIN, RETURN, CHAIN_FLIT_PROCESS, BKTPOST, BKTPOST_RET and BKTCTL_RESET. A bucket whose entry stands in stack memory, with no error waiting in the storage: while a window of a held cluster is named, what the chain unit would do there waits; else BKTPOST takes an IDLE one with a good entry to POSTED, waits with 256 others out of IDLE or behind another that waits (the model's order, log 68), and is refused as POST_BUSY in another state, whatever VALID says (the model's choice, log 66). A CHAIN flit of the entry's STEP lands at LAND + 256 × its index, before the post too; another STEP fails the bucket. A posted bucket's next landed flit is processed: a MIDDLE of KIND FP32 sends the sum of the incoming and the local values, the incoming one first, to NEXT. RET takes a REDUCED owner to RETURNING and sends the parameters, ends the return of a REDUCED SOLE bucket, and waits, last of the stores that wait, while what it would read or write lies in a held window; elsewhere it is refused. A RETURN flit is written at PARAM + 256 × its index and forwarded unless NEXT is the owner; the return of a REDUCED FIRST or MIDDLE ends with the flit that completes the indices written whole, each counted once (log 66), and of no other bucket: flag word 1 is written, STEP is one more and the bucket is IDLE. RESET takes the bucket to IDLE with STEP and forgets what has landed. -/
def Obligations.ChainUnit : Prop :=
  ∀ (s : State) (bk : BitVec 14), let b := bk.toNat;
    let e := s.bucket b;
    s.target (s.bucketAddr b) = .stack → s.upsets = [] →
    ((s.waiters.any Waiter.atBucket = true → exec (.bktpost bk) s = .next { s with waiters := s.waiters ++ [.bucket 0xFF b false] }) ∧
      (s.waiters.any Waiter.atBucket = false → e.state ≠ 0 → exec (.bktpost bk) s = .next (s.chainErr b 1)) ∧
      (s.waiters.any Waiter.atBucket = false → e.state = 0 → 256 ≤ s.dln.active.length → exec (.bktpost bk) s = .next { s with waiters := s.waiters ++ [.bucket 0xFF b false] }) ∧
      (s.waiters.any Waiter.atBucket = false → e.state = 0 → s.dln.active.length < 256 → s.entryOk e = true → ∃ t, exec (.bktpost bk) s = .next t ∧ t.bucket b = { e with state := 1 } ∧ b ∈ t.dln.active ∧
        (∀ a, a ≠ s.bucketAddr b + 0x16 → t.mem.read a = s.mem.read a) ∧ t.dln.outq = s.dln.outq ∧ ∀ j r, t.greg j r = s.greg j r)) ∧
    (∀ step : BitVec 16, ∃ t, exec (.bktctlReset bk step) s = .next t ∧ t.bucket b = { e with state := 0, step := step.toNat } ∧ b ∉ t.dln.active ∧ t.bkt b = {} ∧
      (∀ a, (a < s.bucketAddr b + 0x14 ∨ s.bucketAddr b + 0x17 ≤ a) → t.mem.read a = s.mem.read a) ∧ ∀ j r, t.greg j r = s.greg j r) ∧
    (¬(e.state = 2 ∧ (e.role = roleOwner ∨ e.role = roleSole)) → exec (.bktpostRet bk) s = .next (s.chainErr b 1)) ∧
    (e.state = 2 → ((e.role = roleOwner ∧ (s.heldTarget (s.target e.param) = true ∨ s.heldTarget (s.target (e.param + (e.plen - 1))) = true)) ∨
        (e.role = roleSole ∧ s.heldTarget (s.target e.flag) = true)) → exec (.bktpostRet bk) s = .next { s with waiters := s.waiters ++ [.bucket 0xFF b true] }) ∧
    (e.state = 2 → e.role = roleSole → s.target (e.flag + 8) = .stack → s.heldTarget (s.target e.flag) = false → e.flag % 8 = 0 →
      (e.flag + 16 ≤ s.bucketAddr b ∨ s.bucketAddr b + 128 ≤ e.flag + 8) → ∃ t, exec (.bktpostRet bk) s = .next t ∧ BucketEnded s t b) ∧
    (e.state = 2 → e.role = roleOwner → s.heldTarget (s.target e.param) = false → s.heldTarget (s.target (e.param + (e.plen - 1))) = false → ∃ t, exec (.bktpostRet bk) s = .next t ∧ (t.bucket b).state = 3 ∧ b ∈ t.dln.active ∧
      t.dln.outq.length = s.dln.outq.length + Nat.max 1 (ceilDiv e.plen 256) ∧ (∀ f ∈ t.dln.outq.drop s.dln.outq.length, f.typ.toNat = tyReturn ∧ f.dst = BitVec.ofNat 12 e.next)) ∧
    (∀ (i : Nat) (f : Flit) (rest : List (Nat × Flit)), s.dln.inbox = (i, f) :: rest → f.addr % 2 ^ 14 = b → e.state ≠ 4 → s.entryOk e = true →
      let idx := flitIndex f;
      let held := fun (a : Nat) => s.heldTarget (s.target a) = true;
      (f.typ.toNat = tyChain → held (e.land + 256 * idx) → rest = [] → exec .chain s = .next s) ∧
      (f.typ.toNat = tyReturn → (held (e.param + 256 * idx) ∨ held e.flag) → rest = [] → exec .returnFlit s = .next s) ∧
      (f.typ.toNat = tyChain → ¬held (e.land + 256 * idx) → f.step.toNat ≠ e.step → exec .chain s = .next ({ s with dln := { s.dln with inbox := rest } }.bucketFail b 2)) ∧
      (f.typ.toNat = tyReturn → ¬held (e.param + 256 * idx) → ¬held e.flag → f.step.toNat ≠ e.step → exec .returnFlit s = .next ({ s with dln := { s.dln with inbox := rest } }.bucketFail b 2)) ∧
      (f.typ.toNat = tyChain → f.step.toNat = e.step → (e.role = roleMiddle ∨ e.role = roleOwner) → e.kind ≠ kSparse → idx < streamLen e → s.target (e.land + 256 * idx) = .stack →
        s.target (e.land + 256 * idx + 255) = .stack → f.payload.length = f.len → f.len ≤ 256 → ∃ t, exec .chain s = .next t ∧ t.dln.inbox = rest ∧
          (∀ n, n < f.len → t.mem.read (e.land + 256 * idx + n) = f.payload.getD n 0) ∧
          (∀ a, (a < e.land + 256 * idx ∨ e.land + 256 * idx + f.len ≤ a) → t.mem.read a = s.mem.read a) ∧ Tab.get none (t.bkt b).landed idx = some (f.len, f.last) ∧ t.dln.outq = s.dln.outq) ∧
      (f.typ.toNat = tyReturn → ¬held (e.param + 256 * idx) → ¬held e.flag → f.step.toNat = e.step → idx < Nat.max 1 (ceilDiv e.plen 256) → ∃ t, exec .returnFlit s = .next t ∧ t.dln.inbox = rest ∧
        (s.target (e.param + 256 * idx) = .stack → s.target (e.param + 256 * idx + 255) = .stack → f.payload.length = f.len → f.len ≤ 256 →
          (e.state ≠ 2 →
            (∀ n, n < f.len → t.mem.read (e.param + 256 * idx + n) = f.payload.getD n 0) ∧
            ∀ a, (a < e.param + 256 * idx ∨ e.param + 256 * idx + f.len ≤ a) → t.mem.read a = s.mem.read a) ∧
          (e.state = 2 → (e.param + 256 * idx + f.len ≤ s.bucketAddr b ∨ s.bucketAddr b + 128 ≤ e.param + 256 * idx) →
            let apart := fun (a : Nat) => (a < s.bucketAddr b ∨ s.bucketAddr b + 128 ≤ a) ∧ (a < e.flag + 8 ∨ e.flag + 16 ≤ a);
            (∀ n, n < f.len → apart (e.param + 256 * idx + n) → t.mem.read (e.param + 256 * idx + n) = f.payload.getD n 0) ∧
            ∀ a, apart a → (a < e.param + 256 * idx ∨ e.param + 256 * idx + f.len ≤ a) → t.mem.read a = s.mem.read a)) ∧
        (((e.role ≠ roleFirst ∧ e.role ≠ roleMiddle) ∨ e.state ≠ 2 ∨ (∃ j, j < Nat.max 1 (ceilDiv e.plen 256) ∧ j ≠ idx ∧ j ∉ (s.bkt b).retSeen) ∨
            (idx ∉ (s.bkt b).retSeen ∧ (f.payload.take f.len).length < Nat.min 256 (e.plen - 256 * idx))) →
          t.dln.active = s.dln.active ∧ (t.bkt b).landed = (s.bkt b).landed ∧
          ∀ j, j ∈ (t.bkt b).retSeen ↔ j ∈ (s.bkt b).retSeen ∨ (j = idx ∧ Nat.min 256 (e.plen - 256 * idx) ≤ (f.payload.take f.len).length)) ∧
        ((e.role = roleFirst ∨ e.role = roleMiddle) → e.state = 2 → (∀ j, j < Nat.max 1 (ceilDiv e.plen 256) → j = idx ∨ j ∈ (s.bkt b).retSeen) →
          Nat.min 256 (e.plen - 256 * idx) ≤ (f.payload.take f.len).length → s.target (e.param + 256 * idx) = .stack → s.target (e.param + 256 * idx + 255) = .stack → f.len ≤ 256 →
          (e.param + 256 * idx + f.len ≤ s.bucketAddr b ∨ s.bucketAddr b + 128 ≤ e.param + 256 * idx) →
          s.target (e.flag + 8) = .stack → e.flag % 8 = 0 → (e.flag + 16 ≤ s.bucketAddr b ∨ s.bucketAddr b + 128 ≤ e.flag + 8) → BucketEnded s t b) ∧
        (e.next = e.owner → t.dln.outq = s.dln.outq) ∧
        (e.next ≠ e.owner → ∃ g, t.dln.outq = s.dln.outq ++ [g] ∧ g.typ.toNat = tyReturn ∧ g.dst = BitVec.ofNat 12 e.next ∧ g.payload = f.payload.take f.len ∧ g.last = f.last))) ∧
    ((e.state ≠ 1 → exec (.chainFlitProcess bk) s = .next s) ∧
      (e.state = 1 → s.entryOk e = true → (e.role = roleMiddle ∨ e.role = roleOwner) → Tab.get none (s.bkt b).landed (s.bkt b).next = none → exec (.chainFlitProcess bk) s = .next s) ∧
      (e.state = 1 → s.entryOk e = true → e.role = roleMiddle → e.kind = 0 → (s.bkt b).retSeen = [] → (Tab.get none (s.bkt b).landed (s.bkt b).next).isSome = true →
        let i := (s.bkt b).next;
        let n := Nat.min 64 (e.count - 64 * i);
        ∃ t g, exec (.chainFlitProcess bk) s = .next t ∧ t.dln.outq = s.dln.outq ++ [g] ∧ (t.bkt b).next = i + 1 ∧ g.typ.toNat = tyChain ∧ g.dst = BitVec.ofNat 12 e.next ∧
          g.last = decide (i + 1 = streamLen e) ∧ g.payload.length = 4 * n ∧ ∀ j, j < n → leNat ((g.payload.drop (4 * j)).take 4) =
            chainAdd32 (leNat ((s.physRead (e.land + 256 * i) (4 * n)).drop (4 * j) |>.take 4)) (leNat ((s.physRead (e.loc + 256 * i) (4 * n)).drop (4 * j) |>.take 4))))

namespace Sys2Proof.Machine

/-- The source and destination address of element `n` of a mover descriptor. -/
def mvSrc (d : HolDesc) (n : Nat) : Nat := d.src.mvAddr d n
def mvDst (d : HolDesc) (n : Nat) : Nat := d.dst.mvAddr d n

/-- The byte runs of `m` bytes at `a` and `b` share no byte. -/
def runsApart (a b m : Nat) : Prop := a + m ≤ b ∨ b + m ≤ a

/-- The batch of queue `q` has ended in fault `code` at descriptor `i`: MILL_MVSn says so and source 0x12 is raised (R401). -/
def MvFaulted (t : State) (q code i : Nat) : Prop :=
  t.millReg (MILL_MVS + 16 * q) = BitVec.ofNat 64 (2 ^ 30 + code * 2 ^ 14 + i * 2 ^ 8) ∧ (t.creg (36 + q) CORE_IPEND).getLsbD 0x12 = true

end Sys2Proof.Machine

/-- MOVER_GO, MOVER_BATCH_DONE and COMPLETION_TIMEOUT. A write to MILL_MVQn with GO by its service core or the mill controller writes the register and starts the batch: BUSY is 1; the mill controller has placed the batch in its SRAM when SRAM is 1, and a service core's SRAM = 1 is ignored, and with the controller's SRAM = 1 standing starts no batch; another agent's write is refused and logged. That MOVER_GO of the mill controller places the batch, and how MOVER_BATCH_DONE runs and ends a batch, is the model's choice (DEDUCED, log 43). With no other queue at work and no error waiting in the storage: a last descriptor between places in stack memory, whose elements share no byte, moves each element of its source (or, for FILL, its value) to its place, changes no other byte, clears BUSY and FAULT and raises source 0x12. A descriptor that breaks the layout's rules ends the batch with HOL_DESC and its index, one that is misaligned with HOL_ALIGN; a host read that times out with HOL_REMOTE, unless the host has disabled its timeout. With no batch running nothing happens. -/
def Obligations.MoverBatches : Prop :=
  (∀ (s : State) (ag q : Nat) (v : Word) (batch : List Byte), ag < 42 → q < 4 →
      (ag ≠ 36 + q → ag ≠ 40 → exec (.moverGo ag q ⟨v, batch⟩) s = .next (s.refused ag (MILL_MVQ + q * 0x10) (v ||| 1).toNat)) ∧
      ((ag = 36 + q ∨ ag = 40) → (s.millReg (MILL_MVS + q * 0x10)).getLsbD 31 = false → ¬(ag ≠ 40 ∧ v.getLsbD 5 = true ∧ (s.millReg (MILL_MVQ + q * 0x10)).getLsbD 5 = true) → ∃ t, exec (.moverGo ag q ⟨v, batch⟩) s = .next t ∧
        t.mvBusy q = true ∧ (∀ i, (6 ≤ i ∧ i < 48) ∨ (58 ≤ i ∧ i < 64) → (t.millReg (MILL_MVQ + q * 0x10)).getLsbD i = v.getLsbD i) ∧
        ((t.millReg (MILL_MVQ + q * 0x10)).getLsbD 5 = if v.getLsbD 5 = true ∧ ag ≠ 40 then (s.millReg (MILL_MVQ + q * 0x10)).getLsbD 5 else v.getLsbD 5) ∧
        ((ag ≠ 40 ∨ v.getLsbD 5 = false) → t.mill.sram = s.mill.sram) ∧
        (ag = 40 → v.getLsbD 5 = true → wfld v 6 42 * 64 + batch.length ≤ 2 ^ 21 → t.mill.sram.readN (wfld v 6 42 * 64) batch.length = batch) ∧
        Tab.get 0 t.mill.batch q = t.millReg (MILL_MVQ + q * 0x10) ∧ Tab.get 0 t.mill.moved q = 0 ∧ Tab.get 0 t.mill.mvElem q = 0 ∧ (∀ j r, t.greg j r = s.greg j r) ∧ SameMemory s t) ∧
      (ag = 36 + q → v.getLsbD 5 = true → (s.millReg (MILL_MVQ + q * 0x10)).getLsbD 5 = true → ∃ t, exec (.moverGo ag q ⟨v, batch⟩) s = .next t ∧
        (∀ j, t.mvBusy j = s.mvBusy j) ∧ t.mill.batch = s.mill.batch ∧ (t.millReg (MILL_MVQ + q * 0x10)).getLsbD 5 = true ∧ SameMemory s t)) ∧
  (∀ (s : State) (q : Nat) (bs : List Byte), q < 4 → s.mvBusy q = false → (∀ e, exec (.moverBatchDone q bs e) s = .next s) ∧ exec (.completionTimeout q) s = .next s) ∧
  (∀ (s : State) (q : Nat), q < 4 → s.host.ctoOff = true → exec (.completionTimeout q) s = .next s) ∧
  (∀ (s : State) (q : Nat) (bs : List Byte), let i := s.mvCount q - 1;
      let d := holDescOf bs;
      q < 4 → s.upsets = [] → (∀ j, j < 4 → (s.mvBusy j = true ↔ j = q)) → Tab.get 0 s.mill.moved q = i → Tab.get 0 s.mill.mvElem q = 0 → (∀ r ∈ s.dln.reqs, r.core = 36 + q → r.desc ≠ some (0, 0, i)) → s.mvDesc q i = (some bs, false) →
      (∀ data e, s.mvBad d = true → ∃ t, exec (.moverBatchDone q data e) s = .next t ∧ MvFaulted t q 0x60 i ∧ SameMemory s t) ∧
      (∀ data e, s.mvBad d = false → mvMisaligned d = true → ∃ t, exec (.moverBatchDone q data e) s = .next t ∧ MvFaulted t q 0x61 i ∧ SameMemory s t) ∧
      (s.mvBad d = false → mvMisaligned d = false → d.op = hopCopy → d.src.space = 0 → s.host.bme = true → s.host.d3 = false → s.host.ctoOff = false → s.mvHeld q d = false →
        ∃ t, exec (.completionTimeout q) s = .next t ∧ MvFaulted t q 0x67 i ∧ SameMemory s t) ∧
      (∀ data e, s.mvBad d = false → mvMisaligned d = false → (d.op = hopCopy → d.src.space = 1) → d.dst.space = 1 → s.mvHeld q d = false →
        (∀ n, n < d.total → s.target (mvDst d n) = .stack ∧ (d.op = hopCopy → s.target (mvSrc d n) = .stack ∧ s.anyBad (mvSrc d n) d.size = false)) →
        (∀ n m, n < d.total → m < d.total → (n ≠ m → runsApart (mvDst d n) (mvDst d m) d.size) ∧ (d.op = hopCopy → runsApart (mvSrc d n) (mvDst d m) d.size)) →
        ∃ t, exec (.moverBatchDone q data e) s = .next t ∧
          (∀ n j, n < d.total → j < d.size → t.mem.read (mvDst d n + j) = if d.op = hopFill then (leBytes d.size d.src.base).getD j 0 else s.mem.read (mvSrc d n + j)) ∧
          (∀ a, (∀ n, n < d.total → a < mvDst d n ∨ mvDst d n + d.size ≤ a) → t.mem.read a = s.mem.read a) ∧
          t.mvBusy q = false ∧ (t.millReg (MILL_MVS + q * 0x10)).getLsbD 30 = false ∧ (t.creg (36 + q) CORE_IPEND).getLsbD 0x12 = true ∧
          ∀ j r, t.greg j r = s.greg j r ∧ t.freg j r = s.freg j r))

namespace Sys2Proof.Machine

/-- The post that stands in a channel's slot: GO, its sender, its length and its words. -/
def Posted (c : Channel) (ag len : Nat) (msg : List Word) : Prop :=
  c.go = true ∧ wfld (c.reg MBX_CTL) 8 6 = ag ∧ wfld (c.reg MBX_CTL) 0 5 = len ∧ ∀ i, i < 16 → c.reg (MBX_MSG + 8 * i) = if i < len then msg.getD i 0 else 0

/-- An agent that waits for a channel's grant. -/
def waits (c : Channel) (ag : Nat) : Prop := ∃ p ∈ c.wait, p.agent = ag

end Sys2Proof.Machine

/-- POST, POST_GRANT, TAKE_POST, MBX_DBSET, MBX_DB_CLEAR, MBX_CRST, MBX_HPOST and QUEUE_RESUME. A POST that may not be sent is logged and retires; one that finds a store of its core not performed waits; one that may waits, with its core taking nothing, at its channel. A channel whose GO is 0 is granted to one waiting sender, the first in agent order from where the round robin stands, and holds its words, zero beyond LEN, its length and its number, with GO set; one whose GO is 1 is not. The receiver's take empties the slot; the sender's wait ends. Doorbell bits are set by permitted senders and cleared by the receiver; another agent's write is refused. The mill controller's channel reset empties the slot, sets DROPPED if a post was there, clears the doorbells and masks them all. MBX_HPOST posts its area's registers and sets BUSY; one of an agent that does not own the area is ignored (the model's choice, log 19). The store that waits first for room at a slice queue goes on when there is some. A POST whose Gb is not readable as one access is one that may not be sent (the model's choice, log 64). -/
def Obligations.Mailboxes : Prop :=
  (∀ (s : State) (k : Nat) (a b : Reg), Ready s k →
      let f := begun s k
      (f.postOk k (s.greg k a) (s.greg k b) = false →
        Runs (.post k a b) s (goNext f k)) ∧
      (f.postOk k (s.greg k a) (s.greg k b) = true → f.storesOpen k = true → exec (.post k a b) s = .next s) ∧
      (f.postOk k (s.greg k a) (s.greg k b) = true → f.storesOpen k = false →
        (∀ t bs, f.coreLoad k (s.greg k b).toNat (8 * wfld (s.greg k a) 8 5) (!(f.core k).sup) .clean = .ok t bs →
          ∃ u p, exec (.post k a b) s = .next u ∧ (u.core k).run = .posting ∧ (u.core k).pc = (t.core k).pc ∧
            (u.chan (wfld (s.greg k a) 0 6)).wait = (t.chan (wfld (s.greg k a) 0 6)).wait ++ [p] ∧ p.agent = k ∧ p.len = wfld (s.greg k a) 8 5 ∧
            (∀ i, i < p.len → p.msg.getD i 0 = word8 bs i) ∧ (∀ r, u.greg k r = t.greg k r) ∧ u.mem = t.mem) ∧
        (∀ t code sub addr, f.coreLoad k (s.greg k b).toNat (8 * wfld (s.greg k a) 8 5) (!(f.core k).sup) .clean = .exc t code sub addr →
          exec (.post k a b) s = .next ((t.forgetReads k).takeException k code sub false addr (s.core k).pc none)))) ∧
  (∀ (s : State) (ch : Nat), chanExists ch = true →
      ((s.chan ch).go = true → exec (.postGrant ch) s = .next s) ∧ ((s.chan ch).wait = [] → exec (.postGrant ch) s = .next s) ∧
      ((s.chan ch).go = false → (s.chan ch).rr < 42 → ∀ p rest, (s.chan ch).wait = p :: rest → p.agent < 42 → 8 ≤ p.len → p.len ≤ 16 → p.msg.length = p.len →
        (∀ x ∈ rest, x.agent < 42 ∧ (p.agent + 42 - (s.chan ch).rr) % 42 < (x.agent + 42 - (s.chan ch).rr) % 42) →
        ∃ t, exec (.postGrant ch) s = .next t ∧ Posted (t.chan ch) p.agent p.len p.msg ∧ (t.chan ch).wait = rest ∧ (t.chan ch).rr = (p.agent + 1) % 42 ∧
          (t.chan ch).reg MBX_DB = (s.chan ch).reg MBX_DB ∧ (∀ d, d ≠ ch → t.chan d = s.chan d) ∧ t.cores = s.cores ∧ t.mem = s.mem)) ∧
  (∀ (s : State) (ag ch : Nat) (v : Half), ag < 42 → chanExists ch = true →
      (receiverOf ch = ag →
        (∃ t, exec (.takePost ag ch) s = .next t ∧ (t.chan ch).go = false ∧ ((s.chan ch).go = true → ∀ i, i < 16 → (t.chan ch).reg (MBX_MSG + 8 * i) = 0) ∧
          ((s.chan ch).go = true → (s.chan ch).owed = true → ∀ k, k = wfld ((s.chan ch).reg MBX_CTL) 8 6 → k < 40 → (s.core k).run = .posting →
            (t.core k).run = .running ∧ (t.core k).pc = (s.core k).pc + 4) ∧ (t.chan ch).wait = (s.chan ch).wait ∧ (t.chan ch).reg MBX_DB = (s.chan ch).reg MBX_DB) ∧
        ∃ t, exec (.mbxDbClear ag ch v) s = .next t ∧ (t.chan ch).reg MBX_DB = (s.chan ch).reg MBX_DB &&& ~~~(v.setWidth 64) ∧
          (∀ off, off ≠ MBX_DB → (t.chan ch).reg off = (s.chan ch).reg off) ∧ (t.chan ch).wait = (s.chan ch).wait) ∧
      (receiverOf ch ≠ ag → ∃ u w, exec (.takePost ag ch) s = .next u ∧ exec (.mbxDbClear ag ch v) s = .next w ∧ u.chan ch = s.chan ch ∧ w.chan ch = s.chan ch ∧
        Runs (.takePost ag ch) s s ∧ Runs (.mbxDbClear ag ch v) s s) ∧
      (s.maySend ch ag = true → ∃ t, exec (.mbxDbset ag ch v) s = .next t ∧ (t.chan ch).reg MBX_DB = ((s.chan ch).reg MBX_DB ||| v.setWidth 64) &&& 0xFFFFFFFF ∧
        (∀ off, off ≠ MBX_DB → (t.chan ch).reg off = (s.chan ch).reg off) ∧ (∀ d, d ≠ ch → t.chan d = s.chan d) ∧ t.cores = s.cores) ∧
      (s.maySend ch ag = false → Runs (.mbxDbset ag ch v) s s)) ∧
  (∀ (s : State) (ag : Nat) (ch : BitVec 6), ag < 42 →
      (ag ≠ 40 → exec (.mbxCrst ag ch) s = .next (s.refused ag 0x10F000 ch.toNat)) ∧ (chanExists ch.toNat = false → exec (.mbxCrst 40 ch) s = .next s) ∧
      (chanExists ch.toNat = true → ∃ t, exec (.mbxCrst 40 ch) s = .next t ∧ (t.chan ch.toNat).go = false ∧ (t.chan ch.toNat).reg MBX_DB = 0 ∧
        (t.chan ch.toNat).reg MBX_DBMASK = 0xFFFFFFFF ∧ (t.chan ch.toNat).wait = (s.chan ch.toNat).wait ∧ (t.chan ch.toNat).rr = 0 ∧
        ((t.chan ch.toNat).reg MBX_CTL).getLsbD 30 = (((s.chan ch.toNat).reg MBX_CTL).getLsbD 30 || (s.chan ch.toNat).go) ∧ ∀ i, i < 16 → (t.chan ch.toNat).reg (MBX_MSG + 8 * i) = 0)) ∧
  (∀ (s : State) (ag area : Nat) (v : Half), ag < 42 → area < 3 →
      ((ag ≠ areaOwner area ∨ s.stageBusy area = true) → Runs (.mbxHpost ag area v) s s) ∧
      (ag = areaOwner area → s.stageBusy area = false → s.stageReg area MBX_HPOST = 0 → ∀ ch len, ch = wfld (v.setWidth 64) 0 6 → len = wfld (v.setWidth 64) 8 5 →
        (chanExists ch && s.maySend ch ag && decide (8 ≤ len) && decide (len ≤ 16) && (area == areaOf ag ch)) = true →
        ∃ t, exec (.mbxHpost ag area v) s = .next t ∧ t.stageBusy area = true ∧ (t.chan ch).wait = (s.chan ch).wait ++ [⟨ag, len, s.stageMsgs area⟩] ∧
          (∀ off, off ≠ MBX_HPOST → t.stageReg area off = s.stageReg area off) ∧ t.cores = s.cores ∧ t.mem = s.mem)) ∧
  (∀ s : State, (s.waiters = [] → exec .queueResume s = .next s) ∧
      ∀ ag c sl slot m a rest, s.waiters = .window ag c sl slot m a :: rest → s.windowRoom ag c sl a = true →
        exec .queueResume s = .next (State.vatPut { s with waiters := rest } c sl m))

namespace Sys2Proof.Machine

/-- The die answers command `cmd` of the SMBus at its address with these bytes and their packet error code (R419), and nothing else changes. -/
def SmbusSays (s : State) (i : Instr) (cmd : Nat) (bs : List Byte) : Prop :=
  let a := 0x58 + s.board.smba.toNat
  exec i s = .next { s with outbox := s.outbox ++ [.smbus a bs (smbPec ([BitVec.ofNat 8 (2 * a), BitVec.ofNat 8 cmd, BitVec.ofNat 8 (2 * a + 1)] ++ bs))] }

/-- The die answers an access of the PCIe function with `m`, bit `b` of the AER uncorrectable status set. -/
def HostError (s : State) (b : Nat) (m : OutMsg) : State := { s with host := { s.host with aerU := s.host.aerU ||| 2 ^ b }, outbox := s.outbox ++ [m] }

end Sys2Proof.Machine

/-- HOST_READ, HOST_WRITE, HOST_PORT_RESET, HOST_PORT_LINK_UP, CONFIGURATION_WRITE, PCAP, SMBUS_LOFT, ID, STATE, TEMP, POWER and WATERMARK. With power on, the balls not driven by the test port, and the function not in D3hot, in which it serves no BAR (the model's choice, PRESUMED, log 17, as are the bits of the AER status): an aligned read of 4 or 8 bytes through BAR0 or BAR2 returns what agent 41 reads there in control space, another size is answered as an Unsupported Request; such a write is agent 41's write; a read or write through BAR4 reaches felt bytes; an access to a held window is aborted or dropped and logged; a read of a felt unit in error answers the bytes that it holds (log 44). The SMBus commands return their bytes, with their count where the command is a Block Read, and their packet error code; PCAP sets the cap, and LOFT in ACTIVE begins entry with source 0x16 at every enabled slot and service core, or is not acknowledged where it is refused; nor is a write with a wrong packet error code (the model's choice, logs 45 and 84). A port reset returns the port and both host staging areas to reset and withdraws the host's waiting posts (the model's choice, log 44); link-up records rate, width and flit mode; configuration writes set their bits. -/
def Obligations.HostAndSmbus : Prop :=
  (∀ (s : State) (o n : Nat) (data : List Byte), s.powered = true → s.jtag.ir.drives = false →
      (s.host.d3 = true → ∀ bar, exec (.hostRead bar o n) s = .next (HostError s 20 .hostUnsupported) ∧
        exec (.hostWrite bar o data) s = .next { s with host := { s.host with aerU := s.host.aerU ||| 2 ^ 20 } }) ∧
      (s.host.d3 = false → o + n ≤ 2 ^ 26 → s.hostHeld n (.ctl o) = false →
        ((n = 4 ∨ n = 8) → o % n = 0 → exec (.hostRead 0 o n) s =
          .next { (s.ctlRead 41 o n).1 with outbox := (s.ctlRead 41 o n).1.outbox ++ [.hostData (leBytes n (s.ctlRead 41 o n).2)] }) ∧
        ((n = 4 ∨ n = 8) → o % n = 0 → data.length = n → exec (.hostWrite 0 o data) s = .next (s.ctlWrite 41 o n (leNat data))) ∧
        (¬((n = 4 ∨ n = 8) ∧ o % n = 0) → exec (.hostRead 0 o n) s = .next (HostError s 20 .hostUnsupported) ∧
          (data.length = n → Runs (.hostWrite 0 o data) s s))) ∧
      (s.host.d3 = false → o + n ≤ 2 ^ 16 → s.hostHeld n (.ctl (0x100000 + o)) = false → (n = 4 ∨ n = 8) → o % n = 0 →
        (data.length = n → exec (.hostWrite 2 o data) s = .next (s.ctlWrite 41 (0x100000 + o) n (leNat data))) ∧
        exec (.hostRead 2 o n) s = .next { (s.ctlRead 41 (0x100000 + o) n).1 with
          outbox := (s.ctlRead 41 (0x100000 + o) n).1.outbox ++ [.hostData (leBytes n (s.ctlRead 41 (0x100000 + o) n).2)] }) ∧
      (s.host.d3 = false → o + n ≤ 2 ^ 26 → s.hostHeld n (.ctl o) = true → ∃ t l, exec (.hostRead 0 o n) s = .next t ∧ t.outbox = s.outbox ++ l ++ [.hostAbort] ∧ OutMsg.hostAbort ∉ l ∧
        (s.err.rptr = s.err.wptr → (Tab.get {} t.err.ring (s.err.wptr % 256)).code = logHostAccess) ∧ (data.length = n → Runs (.hostWrite 0 o data) s s)) ∧
      (s.host.d3 = false → s.upsets = [] → ∀ k, k < 36 → o % 0x800000 + n ≤ 0x800000 → o / 0x800000 = k → s.slotEnabled k = true → s.held (clusterOf k) = false →
        (∃ y, Touched s y ∧ exec (.hostRead 4 o n) s = .next { y with outbox := s.outbox ++ [.hostData ((List.range n).map (fun i => s.feltByte k (o % 0x800000 + i)))] }) ∧
        (data.length = n → ∃ t, exec (.hostWrite 4 o data) s = .next t ∧ (∀ i, i < n → t.feltByte k (o % 0x800000 + i) = data.getD i 0) ∧
          (∀ j a, (j ≠ k ∨ a < o % 0x800000 ∨ o % 0x800000 + n ≤ a) → t.feltByte j a = s.feltByte j a) ∧ t.mem = s.mem ∧ ∀ j r, t.greg j r = s.greg j r))) ∧
  (∀ s : State, s.powered = true → s.jtag.ir.drives = false →
      SmbusSays s .id 0 (4 :: leBytes 4 (s.millReg MILL_ID).toNat) ∧ SmbusSays s .state 1 (leBytes 1 s.stateCode) ∧
      SmbusSays s .temp 2 (leBytes 2 (wfld (s.clkReg THM_TEMP) 0 16)) ∧
      SmbusSays s .power 3 (leBytes 2 (wfld (s.clkReg PWR_EST) 0 16)) ∧ SmbusSays s .watermark 4 (8 :: leBytes 8 (s.millReg MILL_WATERMARK).toNat) ∧
      SmbusSays s (.pcap none) 0x10 (leBytes 2 (wfld (s.clkReg PWR_CAP) 0 16)) ∧
      (∀ (w : BitVec 16) (pec : Option Byte), exec (.pcap (some ⟨w, pec⟩)) s =
        if s.smbGood 0x10 (leBytes 2 w.toNat) pec then .next (s.setClkReg PWR_CAP (w.setWidth 64)) else .next { s with outbox := s.outbox ++ [.smbusNak] }) ∧
      (∀ (v : Byte) (pec : Option Byte), s.smbGood 0x11 [v] pec = false ∨ (v ≠ 0 ∧ v ≠ 1) ∨ (s.pstate ≠ 1 ∧ s.pstate ≠ 3) →
        exec (.smbusLoft ⟨v, pec⟩) s = .next { s with outbox := s.outbox ++ [.smbusNak] }) ∧
      (s.pstate = 1 → s.mill.loft = .none → s.mill.loftQueue = [] → ∀ pec, (s.smbGood 0x11 [0] pec = true → exec (.smbusLoft ⟨0, pec⟩) s = .next s) ∧
        (s.mill.change = none → s.smbGood 0x11 [1] pec = true → ∃ t, exec (.smbusLoft ⟨1, pec⟩) s = .next t ∧ t.mill.loft = .entering ∧ SameMemory s t ∧ (∀ j r, t.greg j r = s.greg j r) ∧
          ∀ k, k < 40 → s.coreEnabled k = true → (t.creg k CORE_IPEND).getLsbD 0x16 = true))) ∧
  (∀ s : State, ∃ t, exec .hostPortReset s = .next t ∧ t.host = {} ∧ (∀ off, t.stageReg 0 off = 0 ∧ t.stageReg 1 off = 0 ∧ t.stageReg 2 off = s.stageReg 2 off) ∧
      (∀ ch, ∀ p ∈ (t.chan ch).wait, p.agent ≠ 41) ∧ SameMemory s t ∧ ∀ j r, t.greg j r = s.greg j r) ∧
  (∀ (s : State) (rate : BitVec 3) (width : BitVec 5) (flit : Bool), s.powered = true →
      (linkOk rate.toNat width.toNat flit = false → exec (.hostPortLinkUp rate width flit) s = .next s) ∧
      (linkOk rate.toNat width.toNat flit = true → ∃ t, exec (.hostPortLinkUp rate width flit) s = .next t ∧
        t.hpstat = BitVec.ofNat 64 (width.toNat + 32 * rate.toNat + (if flit then 256 else 0) + if s.host.bme then 512 else 0) ∧ { t with host := s.host, outbox := s.outbox } = s)) ∧
  ∀ (s : State) (b : Bool) (r : BitVec 4), s.powered = true →
    (∃ t, exec (.configurationWrite (.busMaster b)) s = .next t ∧ t.host.bme = b ∧ { t.host with bme := s.host.bme, pba := s.host.pba } = s.host ∧ { t with host := s.host, outbox := s.outbox } = s) ∧
    (∃ t, exec (.configurationWrite (.msixEnable b)) s = .next t ∧ t.host.msixEn = b ∧ { t.host with msixEn := s.host.msixEn, pba := s.host.pba } = s.host ∧ { t with host := s.host, outbox := s.outbox } = s) ∧
    (∃ t, exec (.configurationWrite (.msixMaskAll b)) s = .next t ∧ t.host.msixMask = b ∧ { t.host with msixMask := s.host.msixMask, pba := s.host.pba } = s.host ∧ { t with host := s.host, outbox := s.outbox } = s) ∧
    (∃ t, exec (.configurationWrite (.dState b)) s = .next t ∧ t.host.d3 = b ∧ { t.host with d3 := s.host.d3, pba := s.host.pba } = s.host ∧ { t with host := s.host, outbox := s.outbox } = s) ∧
    exec (.configurationWrite (.timeoutRange r)) s = .next { s with host := { s.host with cto := r.toNat } } ∧
    exec (.configurationWrite (.timeoutDisable b)) s = .next { s with host := { s.host with ctoOff := b } } ∧
    (∀ c : BitVec 3, exec (.configurationWrite (.maxPayload c)) s = .next (if c.toNat ≤ 2 then { s with host := { s.host with mps := c.toNat } } else s) ∧
      exec (.configurationWrite (.maxReadRequest c)) s = .next (if c.toNat ≤ 5 then { s with host := { s.host with mrrs := c.toNat } } else s)) ∧
    (∀ g, exec (.configurationWrite (.ecrc g b)) s = .next { s with host := { s.host with ecrcGen := g, ecrcCheck := b } }) ∧
    ∀ u c : BitVec 32, ∃ t, exec (.configurationWrite (.aerClear u c)) s = .next t ∧ { t with host := s.host } = s ∧
      (∀ i, i < 32 → t.host.aerU.testBit i = (s.host.aerU.testBit i && !u.getLsbD i) ∧ t.host.aerC.testBit i = (s.host.aerC.testBit i && !c.getLsbD i))

namespace Sys2Proof.Machine

/-- Bits of MILL_LSTAT (R446): VALID, and the cause, sender, cluster and command of the change that has ended. -/
def LstatSays (t : State) (cause ag c cmd : Nat) : Prop :=
  (t.millReg MILL_LSTAT).getLsbD 31 = true ∧ wfld (t.millReg MILL_LSTAT) 16 8 = cause ∧ wfld (t.millReg MILL_LSTAT) 10 6 = ag ∧
  wfld (t.millReg MILL_LSTAT) 8 2 = c ∧ wfld (t.millReg MILL_LSTAT) 0 4 = cmd

/-- Doorbell bit `b` is set on the result channel of agent `ag`. -/
def Rung (t : State) (ag b : Nat) : Prop := ((t.chan (resultChan ag)).reg MBX_DB).getLsbD b = true

/-- An enabled core that the mill has released: it runs at START of its cluster's record (R434). -/
def Released (t : State) (k : Nat) : Prop :=
  (t.core k).run = .running ∧ (t.core k).pc = BitVec.ofNat 64 (recStart (t.clusRec (clusterOf k)) (k % 9)) &&& ~~~3 ∧
  (t.core k).eng.headbox = [] ∧ (∀ r, t.greg k r = 0) ∧ (t.core k).sup = true

/-- A change request of command `cmd` stands in channel `ch` and is taken up (R438). -/
def Asked (s : State) (ch cmd : Nat) : Prop := s.postCode ch = some cmd ∧ s.bootState = 9 ∧ s.pstate = 1 ∧ s.mill.loft = .none

/-- What an APPLY or SWAP does with a request. -/
def ChangeLaw (mk : Nat → Instr) (cmd : Nat) : Prop :=
  ∀ (s : State) (ch : Nat), (ch = 48 ∨ ch = 50) → Asked s ch cmd →
    (s.mill.change ≠ none → ∃ t, exec (mk ch) s = .next t ∧ (t.chan ch).go = false ∧ Rung t (s.sender ch) 29 ∧ t.mill.change = s.mill.change ∧
      t.millReg MILL_LSTAT = s.millReg MILL_LSTAT) ∧
    (s.mill.change = none → (∀ c, s.changeCheck ch cmd = .error c → ∃ t, exec (mk ch) s = .next t ∧ (t.chan ch).go = false ∧ Rung t (s.sender ch) 30 ∧
      LstatSays t c (s.sender ch) (wfld (s.msg ch 0) 8 2) cmd ∧ t.mill.change = none ∧ t.vats = s.vats ∧ SameMemory s t) ∧
      ∀ r stamp, s.changeCheck ch cmd = .ok (r, stamp) → ∃ t x, exec (mk ch) s = .next t ∧ t.mill.change = some x ∧ x.cmd = cmd ∧ x.cluster = wfld (s.msg ch 0) 8 2 ∧
        x.sender = s.sender ch ∧ x.record = r ∧ (x.phase = 0 ∨ (x.phase = 1 ∧ (t.vat x.cluster).quiesced = true ∧ t.clusRec x.cluster = r)) ∧
        (cmd = 2 → (t.core (9 * x.cluster + wfld (s.msg ch 0) 12 4)).run = .held) ∧
        ∀ k ∈ s.enabledIn x.cluster, ¬(cmd = 2 ∧ k = 9 * x.cluster + wfld (s.msg ch 0) 12 4) → recRole r (k % 9) = roleEnabled →
          recRole (s.clusRec x.cluster) (k % 9) = roleEnabled → (t.creg k CORE_IPEND).getLsbD 0x14 = true)

end Sys2Proof.Machine

/-- APPLY, SWAP, QUIESCE_TIMEOUT and SELFTEST_DONE. A request that arrives while a change runs is taken and answered with doorbell bit 29; one that fails its checks changes nothing but the slot and MILL_LSTAT and is answered with bit 30; one that passes holds the cluster, resets the slot that a SWAP replaces and raises QUIESCE at the others; once those are at rest the record is in force and the cluster QUIESCED. A timeout stops every core still running and marks the change FORCED; where cores have been stopped and their released work goes on, it is the end of the time for that, and all of them are reset. A self-test without failures releases every enabled core of the cluster at its START, clears QUIESCED and ends the change with success and bit 31; one with a failure leaves the cluster quiesced and ends it with SELFTEST, the slot and bit 30. That a second QUIESCE_TIMEOUT is the end of the 100 µs is the model's choice (DEDUCED, log 51). -/
def Obligations.LiveChanges : Prop :=
  ChangeLaw .apply 1 ∧ ChangeLaw .swap 2 ∧
  (∀ s : State, (s.mill.change = none → exec .quiesceTimeout s = .next s ∧ ∀ f, exec (.selftestDone f) s = .next s)) ∧
  (∀ (s : State) (x : Change), s.mill.change = some x → x.phase = 0 → x.cluster < 4 →
      (s.mill.stopping = [] → (∃ k ∈ s.changeCores x, s.atRest k = false) →
        ∃ t y, exec .quiesceTimeout s = .next t ∧ t.mill.change = some y ∧ y.forced = true ∧ ∀ k ∈ s.changeCores x, s.atRest k = false → (t.core k).run = .held) ∧
      (s.mill.stopping ≠ [] → ∃ t, exec .quiesceTimeout s = .next t ∧ t.mill.stopping = [] ∧
        ∀ k ∈ s.mill.stopping, (t.core k).run = .held ∧ (t.core k).eng.headbox = [])) ∧
  (∀ (s : State) (x : Change) (f : List Nat), s.mill.change = some x → x.phase = 1 → s.tripped = false → x.cluster < 4 → x.sender < 64 → 1 ≤ x.cmd → x.cmd ≤ 2 →
      ((∀ k ∈ s.enabledIn x.cluster, k ∉ f) → ∃ t, exec (.selftestDone f) s = .next t ∧ t.mill.change = none ∧ (t.vat x.cluster).quiesced = false ∧
        LstatSays t 0 x.sender x.cluster x.cmd ∧ Rung t x.sender 31 ∧ (∀ k ∈ s.enabledIn x.cluster, Released t k) ∧ (∀ i, i < 9 → (t.millReg MILL_STEST).getLsbD (9 * x.cluster + i) = false) ∧ SameMemory s t) ∧
      (∀ k ks, (s.enabledIn x.cluster).filter (fun k => f.contains k) = k :: ks → ∃ t, exec (.selftestDone f) s = .next t ∧ t.mill.change = none ∧ t.vats = s.vats ∧
        LstatSays t 4 x.sender x.cluster x.cmd ∧ wfld (t.millReg MILL_LSTAT) 24 4 = k % 9 ∧ Rung t x.sender 30 ∧ (∀ j, (t.core j).run = (s.core j).run) ∧ SameMemory s t))

/-- LOFT_ENTER, LOFT_EXIT, LOFT_ENTRY, LOFT_TIMEOUT and LOFT_EXIT_RUN. A loft post with its other registers zero is accepted in ACTIVE and LOFT with doorbell bit 31 and refused elsewhere with bit 30; an accepted entry in ACTIVE begins at once unless a change runs. Entry goes on once every core that it stops is quiet and the vats are idle: the modified lines are written back, and when every PARK has been answered the cores lose power with every register, the trained stacks are in self-refresh, the ports are DOWN, UNLOCK is 0 and the state is LOFT. A timeout stops the cores still running, or resets those that it has stopped before. Exit takes the stacks out of self-refresh, releases the service cores and the enabled slots of clusters that are not quiesced with LOFTEXIT at 1, and starts the ports' training. Memory and felts keep their bytes, where no error waits in the storage and no core is stopped. That a second LOFT_TIMEOUT resets the stopped cores is the model's choice (DEDUCED, log 52). -/
def Obligations.Loft : Prop :=
  (∀ (s : State) (enter : Bool), s.postCode 48 = some (if enter then 0x20 else 0x21) → let i : Instr := if enter then .loftEnter else .loftExit;
      ((s.msgsZero 48 1 = false ∨ (s.pstate ≠ 1 ∧ s.pstate ≠ 3)) → ∃ t, exec i s = .next t ∧ (t.chan 48).go = false ∧ Rung t (s.sender 48) 30 ∧ t.mill.loft = s.mill.loft) ∧
      (s.msgsZero 48 1 = true → (s.pstate = 1 ∨ s.pstate = 3) → ∃ t, exec i s = .next t ∧ (t.chan 48).go = false ∧ Rung t (s.sender 48) 31 ∧
        (enter = true → s.pstate = 1 → s.mill.loft = .none → s.mill.loftQueue = [] → s.mill.change = none → t.mill.loft = .entering) ∧
        (enter = false → s.mill.loft = .loft → s.mill.loftQueue = [] → t.mill.loft = .exiting) ∧ SameMemory s t)) ∧
  (∀ s : State, s.mill.loft = .entering →
      (s.mill.stopping = [] → s.loftReady = false → exec .loftEntry s = .next s) ∧
      (s.loftReady = true → s.upsets = [] → ∃ t, exec .loftEntry s = .next t ∧ t.mill.loft ≠ .entering ∧ SameMemory s t ∧
        ∀ k ∈ s.loftCores, ∀ l, Tab.get none (s.core k).l2 l = some true → Tab.get none t.stale l = none) ∧
      (s.mill.stopping = [] → ∃ t, exec .loftTimeout s = .next t ∧ ∀ k ∈ s.loftCores, s.atRest k = false → (t.core k).run = .held) ∧
      (s.mill.stopping ≠ [] → ∃ t, exec .loftTimeout s = .next t ∧ t.mill.stopping = [] ∧ ∀ k ∈ s.mill.stopping, (t.core k).quiet = true)) ∧
  (∀ s : State, s.mill.loft = .parking →
      (s.loftQuiet = false → exec .loftEntry s = .next s) ∧
      (s.loftQuiet = true → ∃ t, exec .loftEntry s = .next t ∧ t.pstate = 3 ∧ (∀ k r, t.greg k r = 0) ∧ (∀ k, (t.core k).run = .held ∧ (t.core k).eng.headbox = []) ∧
        (∀ p, p < 24 → (t.link p).state = 0) ∧ (∀ p, p < 8 → ((s.port p).reg MEM_PSTAT).getLsbD 0 = true → ((t.port p).reg MEM_PSTAT).getLsbD 2 = true) ∧
        t.millReg MILL_DBG = 0 ∧ SameMemory s t)) ∧
  (∀ s : State, (s.mill.loft ≠ .entering → exec .loftTimeout s = .next s) ∧ (s.mill.loft ≠ .exiting → exec .loftExitRun s = .next s) ∧
      (s.mill.loft = .exiting → ∃ t, exec .loftExitRun s = .next t ∧ t.mill.loft ≠ .exiting ∧ t.pstate = 1 ∧ (t.clkReg PWR_STATE).getLsbD 8 = true ∧
        (∀ p, p < 8 → ((t.port p).reg MEM_PSTAT).getLsbD 2 = false) ∧ (∀ p, p < 24 → ((s.link p).role = 1 ∨ (s.link p).role = 2) → (t.link p).state = 1) ∧
        (∀ k ∈ s.enabledSlots, (s.vat (clusterOf k)).quiesced = false → Released t k) ∧
        (∀ n, n < 4 → (t.core (36 + n)).run = .running ∧ (t.core (36 + n)).pc = BitVec.ofNat 64 (s.svcStart n) &&& ~~~3) ∧ SameMemory s t))

namespace Sys2Proof.Machine

/-- Agent `ag` reads `v` in control space, `n` bytes at offset `off`, and the read changes nothing. -/
def Reads (s : State) (ag off n v : Nat) : Prop := s.ctlRead ag off n = (s, v)

/-- Boot has failed with a cause (R435). -/
def BootFailed (t : State) (cause : Nat) : Prop := t.bootState = 15 ∧ wfld (t.millReg MILL_BSTAT) 8 8 = cause ∧ t.pstate = 4

/-- The image `b`, with digest `d`, is in force and the stacks are awaited (R431, R437). -/
def AwaitsStacks (t : State) (b d : List Byte) (slot : Nat) : Prop :=
  t.bootState = 5 ∧ (t.millReg MILL_WATERMARK).toNat = watermarkOf d % 2 ^ 64 ∧ (t.millReg MILL_BSTAT).getLsbD 16 = decide (slot = 1) ∧
  (∀ c, c < 4 → t.clusRec c = (sectData b secCluster c).getD [])

/-- A port's stack has neither trained nor failed. -/
def stacksOpen (s : State) : Prop := ∃ p, p < 8 ∧ (s.port p).settled = false

end Sys2Proof.Machine

/-- What reset leaves; power-up, stack training, RETRY, HOSTBOOT and the image read bound; RESET_N_ASSERTED and the three fatal errors. At reset every agent reads the reset values that the register tables give, every core is held with its pc a word address, no memory lists a byte, no command waits, and the invariants of PcAlignedKept, LogAndThrottleKept and StaleKept hold; that memories are zero and registers without a reset value too is the model's choice (DESIGN CHOICE, logs 4 and 5). POWER_UP_RESET without a flash ends in FAILED with FLASH_NONE; with a good primary image it puts its record in force and awaits the stacks; with a bad one and no fallback it fails with the image's cause. A port that trains or fails says so in MEM_PSTAT, and in MEM_MAP.FAILED; the last one boots on, and without sections to copy to RUNNING, with stack memory zero and the enabled cores at their START. RETRY and HOSTBOOT in FAILED boot again from the flash and from the host, whose request that fails is logged as HOST_REQ_ERR; neither does so in a die that has tripped (the model's choice, log 70). RESET_N_ASSERTED holds every block in reset, and ALERT_N goes high where it was low; the board and the test port keep their state (the model's choice, PRESUMED, logs 6 and 16). A fatal error is logged, one of the logic that no read has found after its SRAM_UE of store 8, and resets every block but the clock and the error log to what State.reset has, with the marks of stack ports that have failed (R325), and boots from the flash; what else stays is the model's choice (DEDUCED, log 50). -/
def Obligations.ResetAndBoot : Prop :=
  (PcAligned State.reset ∧ LogAndThrottle State.reset ∧ StaleOk State.reset ∧ State.reset.pending = [] ∧ State.reset.mem = [] ∧ (∀ k, (State.reset.core k).run = .held) ∧
    (∀ ag k, ag < 42 → k < 40 → Reads State.reset ag (coreBlock k + CORE_ESTATE) 4 1 ∧ Reads State.reset ag (coreBlock k + CORE_IEN) 8 0x500000 ∧
      Reads State.reset ag (coreBlock k + CORE_TCTL) 4 0x3800 ∧ (k < 36 → Reads State.reset ag (coreBlock k + HOL_CFG) 4 3 ∧ Reads State.reset ag (coreBlock k + ENG_NMODE) 4 0x10 ∧
        Reads State.reset ag (coreBlock k + ENG_RNG) 8 0x9E3779B97F4A7C15)) ∧
    (∀ ag, ag < 42 → Reads State.reset ag MILL_ID 4 0x1D08B000 ∧ Reads State.reset ag MILL_BSTAT 4 1 ∧ Reads State.reset ag 0x2800000 4 0x3210 ∧
      Reads State.reset ag (0x2000000 + DLN_CFG) 4 0x03E803E8 ∧ Reads State.reset ag (0x200000 + PWR_LOFTCFG) 4 0x3E8 ∧
      (∀ p, p < 8 → Reads State.reset ag (portBlock p + MEM_SCRUB) 4 0x3E818) ∧ ∀ ch, ch ≤ 40 → Reads State.reset ag (0x100000 + 0x100 * ch + MBX_DBMASK) 4 0xFFFFFFFF) ∧
    Reads State.reset 40 (0x200000 + THM_CFG) 4 0x5F6964 ∧ Reads State.reset 41 (0x200000 + THM_CFG) 4 0x5F6964) ∧
  (∀ (s : State) (b : Board), (s.powered = true → exec (.powerUpReset b) s = .next s) ∧
      (s.powered = false → ∃ t, exec (.powerUpReset b) s = .next t ∧ t.powered = true ∧ t.board = b ∧ t.mem = [] ∧ t.pending = s.pending ∧ (∀ k, (t.core k).run = .held) ∧
        (b.sfdp = .absent → BootFailed t 1) ∧
        (b.sfdp ≠ .absent → tooSlow b b.primary = false → (∀ d, imgCheck b b.primary = .ok d → imgParent b.primary = 0 → AwaitsStacks t b.primary d 0) ∧
          (∀ c, c < 256 → imgCheck b b.primary = .error c → (b.large = false ∨ b.fallback = []) → BootFailed t c)))) ∧
  (∀ (s : State) (p : Nat), p < 8 → exec (.stackTrainingTimeout p) s = exec (.stackTrainingDone p false) s ∧
      (s.portTraining p = false → ∀ ok, exec (.stackTrainingDone p ok) s = .next s) ∧
      (s.portTraining p = true → (∃ q, q < 8 ∧ q ≠ p ∧ (s.port q).settled = false) →
        (∃ u, exec (.stackTrainingDone p true) s = .next (s.setPort p u) ∧ (u.reg MEM_PSTAT).getLsbD 0 = true ∧ ∀ off, off ≠ MEM_PSTAT → u.reg off = (s.port p).reg off) ∧
        ∃ u, Runs (.stackTrainingDone p false) s u ∧ ((u.port p).reg MEM_PSTAT).getLsbD 1 = true ∧ u.memMapReg.getLsbD (24 + p) = true ∧
          (∀ i, i ≠ 24 + p → u.memMapReg.getLsbD i = s.memMapReg.getLsbD i) ∧ u.mem = s.mem ∧ u.cores = s.cores) ∧
      (s.portTraining p = true → s.bootState = 5 → s.tripped = false → (∀ q, q < 8 → q ≠ p → (s.port q).settled = true) → (s.port p).reg MEM_PSTAT = 0 →
        (s.chooseMap = none → ∃ t, exec (.stackTrainingDone p true) s = .next t ∧ BootFailed t 7) ∧
        (∀ m, s.chooseMap = some m → s.mill.copies = [] → leAt s.mill.dieRec 0x20 8 = 0 → ∃ t, exec (.stackTrainingDone p true) s = .next t ∧ t.bootState = 9 ∧ t.pstate = 1 ∧
          (∀ a, a < 0x00C000000000 → t.mem.read a = 0) ∧ (∀ k a, t.feltByte k a = 0) ∧
          (∀ k ∈ t.enabledSlots, (s.vat (clusterOf k)).quiesced = false → Released t k) ∧ ((t.chan 49).reg MBX_DB).getLsbD 0 = true))) ∧
  (∀ s : State, exec .resetNAsserted s = .next { State.reset with pending := s.pending, board := s.board, jtag := s.jtag, free := s.free, outbox := s.outbox ++ alertShows s false }) ∧
  (∀ (s : State), (¬(s.bootState = 15 ∧ s.tripped = false ∧ s.postCode 48 = some 0x10) → exec .retry s = .next s) ∧
      (s.bootState = 15 → s.tripped = false → s.postCode 48 = some 0x10 → (s.board.sfdp = .absent → ∃ t, exec .retry s = .next t ∧ BootFailed t 1 ∧ (t.chan 48).go = false) ∧
        (s.board.sfdp ≠ .absent → tooSlow s.board s.board.primary = false → stacksOpen s → ∀ d, imgCheck s.board s.board.primary = .ok d → imgParent s.board.primary = 0 →
          ∃ t, exec .retry s = .next t ∧ AwaitsStacks t s.board.primary d 0 ∧ (t.chan 48).go = false)) ∧
      ∀ (img again : List Byte) (hend : HostEnd), (¬(s.bootState = 15 ∧ s.tripped = false ∧ s.postCode 48 = some 0x11) → exec (.hostboot img again hend) s = .next s) ∧
        (s.bootState = 15 → s.tripped = false → s.postCode 48 = some 0x11 → ((s.chan 48).reg (MBX_MSG + 16)).toNat ≤ 2 ^ 28 →
          ((img.length < ((s.chan 48).reg (MBX_MSG + 16)).toNat ∨ s.hostMaster = false) → ∃ t, exec (.hostboot img again hend) s = .next t ∧ BootFailed t 2 ∧ (t.chan 48).go = false ∧
            (s.err.rptr = s.err.wptr → (Tab.get {} t.err.ring (s.err.wptr % 256)).code = 0x0008)) ∧
          (((s.chan 48).reg (MBX_MSG + 16)).toNat ≤ img.length → s.hostMaster = true → stacksOpen s → ∀ d, imgCheck s.board (img.take ((s.chan 48).reg (MBX_MSG + 16)).toNat) = .ok d →
            imgParent (img.take ((s.chan 48).reg (MBX_MSG + 16)).toNat) = 0 →
            ∃ t, exec (.hostboot img again hend) s = .next t ∧ AwaitsStacks t (img.take ((s.chan 48).reg (MBX_MSG + 16)).toNat) d 1 ∧ (t.chan 48).go = false))) ∧
  (∀ s : State, (¬(s.powered = true ∧ s.bootState = 3) → exec .imageReadTimeout s = .next s) ∧
      (s.powered = true → s.bootState = 3 → (s.board.large = false ∨ s.board.fallback = []) → ∃ t, exec .imageReadTimeout s = .next t ∧ BootFailed t 2)) ∧
  ∀ (s : State) (i : Instr) (cause : Nat), (i, cause) ∈ [(Instr.watchdogExpiry, 1), (.fatal, 2), (.pllLockLost, 3)] →
    (s.powered = false → exec i s = .next s) ∧ (s.powered = true → s.inTrip = true → Runs i s s) ∧
    (s.powered = true → s.inTrip = false → ∃ u : State, exec i s = .next u.bootFlash ∧
      { u with pending := [], powered := false, board := {}, memRegs := [], ports := [], mill := {}, clk := [], err := {}, jtag := {}, upsets := [], free := 0, outbox := [] } = State.reset ∧
      u.pending = s.pending ∧ u.powered = true ∧ u.board = s.board ∧ u.jtag = s.jtag ∧ u.mill = { clkSet := s.mill.clkSet } ∧
      (∀ off, off ≠ CLK_CFG → u.clkReg off = s.clkReg off) ∧ (∀ b, b ≠ 31 → (u.clkReg CLK_CFG).getLsbD b = (s.clkReg CLK_CFG).getLsbD b) ∧
      u.err.rptr = s.err.rptr ∧ s.err.wptr ≤ u.err.wptr ∧
      (∀ p, p < 8 → u.port p = if s.memMapReg.getLsbD (24 + p) = true then Port.setReg {} MEM_PSTAT 2 else {}) ∧
      (∀ b, b < 64 → u.memMapReg.getLsbD b = ((0x3210 : Word).getLsbD b || (decide (24 ≤ b ∧ b < 32) && s.memMapReg.getLsbD b)))) ∧
    (s.powered = true → s.inTrip = false → ∃ t, exec i s = .next t ∧ (∀ k, t.core k = {}) ∧ t.mem = [] ∧ t.vats = [] ∧ t.clkReg CLK_CYCLE = s.clkReg CLK_CYCLE ∧
      s.err.wptr ≤ t.err.wptr ∧ (s.board.sfdp = .absent → BootFailed t 1) ∧
      (s.err.rptr = s.err.wptr →
        let found := cause = 2 ∧ s.mill.doomed = false;
        let fatal := Tab.get {} t.err.ring ((s.err.wptr + if found then 1 else 0) % 256);
        fatal.code = 0x0500 ∧ fatal.agent = 0xFF ∧ fatal.detail = cause ∧
        (found → (Tab.get {} t.err.ring (s.err.wptr % 256)).code = 0x0101 ∧ (Tab.get {} t.err.ring (s.err.wptr % 256)).detail = 8)))

/-- BYPASS, IDCODE, SAMPLE/PRELOAD, EXTEST, CLAMP, HIGHZ, EXTEST_PULSE, EXTEST_TRAIN, DEBUG and REGISTER_WRITE. Each instruction becomes the current one: BYPASS, CLAMP and HIGHZ shift out the bypass register's 0, IDCODE the 32 bits of 0xB1D08A4B, least significant first, SAMPLE/PRELOAD the captured balls, and loads the update latches. DEBUG acts only while UNLOCK is 1: it accesses control space as the mill controller, and halts, steps and resumes cores; otherwise it selects the bypass register. A register write of 4 or 8 aligned bytes to a core's register stores the RW bits of the bytes that it names, clears W1C and sets W1S bits written 1 among them, and leaves every other register and every active value as they are (that one to a control class register leaves the active value is DEDUCED, log 54); a write to the upper half of a 32-bit register does nothing; of CORE_DTAB_SEL of a core that runs OPC and UOP alone are written (DEDUCED, log 39); to an offset with no register it is logged as NO_TARGET; to a register kept for the mill controller, by another agent, it is refused; with another size it does nothing. The bypass bit captured as 0 and the boundary chain as the given list (PRESUMED, log 16) and a wrong size doing nothing (DEDUCED, log 39) are the model's choices. -/
def Obligations.TestPortAndRegisterWrites : Prop :=
  (∀ s : State, exec .bypass s = .next { s with jtag := { s.jtag with ir := .bypass }, outbox := s.outbox ++ [.tdo [false]] } ∧
      exec .clamp s = .next { s with jtag := { s.jtag with ir := .clamp }, outbox := s.outbox ++ [.tdo [false]] } ∧
      exec .highz s = .next { s with jtag := { s.jtag with ir := .highz }, outbox := s.outbox ++ [.tdo [false]] } ∧
      exec .idcode s = .next { s with jtag := { s.jtag with ir := .idcode }, outbox := s.outbox ++ [.tdo ((List.range 32).map (fun i => (0xB1D08A4B : BitVec 32).getLsbD i))] } ∧
      exec .extest s = .next { s with jtag := { s.jtag with ir := .extest } } ∧ exec .extestPulse s = .next { s with jtag := { s.jtag with ir := .extestPulse } } ∧
      exec .extestTrain s = .next { s with jtag := { s.jtag with ir := .extestTrain } } ∧
      ∀ pins preload, exec (.samplePreload pins preload) s = .next { s with jtag := { ir := .samplePreload, captured := pins, update := preload }, outbox := s.outbox ++ [.tdo pins] }) ∧
  (∀ s : State, let u := { s with jtag := { s.jtag with ir := .debug } };
      (s.unlocked = false → ∀ op, exec (.debug op) s = .next { s with jtag := { s.jtag with ir := .bypass }, outbox := s.outbox ++ [.tdo [false]] }) ∧
      (s.unlocked = true → (∀ k, k < 40 → exec (.debug (.halt k)) s = .next (u.updCore k (fun c => { c with dbgHalt := true, dbgStep := false })) ∧
          exec (.debug (.resume k)) s = .next (u.updCore k (fun c => { c with dbgHalt := false, dbgStep := false })) ∧
          exec (.debug (.singleStep k)) s = .next (u.updCore k (fun c => { c with dbgStep := c.dbgHalt }))) ∧
        ∀ off n v, (n = 4 ∨ n = 8) → off % n = 0 → off < 2 ^ 32 → exec (.debug (.write off n v)) s = .next (u.ctlWrite 40 off n (v % 2 ^ (8 * n))) ∧
          exec (.debug (.read off n)) s = .next ((u.ctlRead 40 off n).1.out (.debugData (BitVec.ofNat 64 (u.ctlRead 40 off n).2))))) ∧
  ∀ (s : State) (ag : Nat), ag < 42 →
    (∀ k off d n v row, k < 40 → plainReg k off = true → rowAt coreMap off = some row → ((n = 8 ∧ d = 0) ∨ (n = 4 ∧ (d = 0 ∨ d = 4))) →
      let m : Word := if n = 8 then BitVec.allOnes 64 else 0xFFFFFFFF <<< (8 * d)
      let w : Word := BitVec.ofNat 64 (v % 2 ^ (8 * n)) <<< (8 * d)
      let rw := if off = CORE_DTAB_SEL ∧ (s.core k).stopped = false then 0x1FF else row.rw
      ((d = 4 ∧ row.wide = false) → exec (.registerWrite ag (coreBlock k + off + d) n v) s = .next s) ∧
      ((d = 0 ∨ row.wide = true) → ∃ c : Core, exec (.registerWrite ag (coreBlock k + off + d) n v) s = .next (s.setCore k c) ∧
        c.reg off = ((((s.creg k off &&& ~~~(rw &&& m)) ||| (w &&& rw)) &&& ~~~(w &&& row.w1c)) ||| (w &&& row.w1s)) ∧ (∀ o, o ≠ off → c.reg o = s.creg k o) ∧
        { c with regs := (s.core k).regs } = s.core k)) ∧
    (∀ off n v, (n = 4 ∨ n = 8) → off % n = 0 → off < 2 ^ 32 → ctlSlot (off - off % 8) = .none → exec (.registerWrite ag off n v) s = .next (s.noTarget ag (ctlPa off) 1)) ∧
    (∀ v, v < 2 ^ 32 → ag ≠ 40 → exec (.registerWrite ag MILL_DBG 4 v) s = .next (s.refused ag MILL_DBG v)) ∧
    (∀ off n v, ¬((n = 4 ∨ n = 8) ∧ off % n = 0 ∧ off < 2 ^ 32) → exec (.registerWrite ag off n v) s = .next s)
end

