-- ==== Sys2Proof/Laws/Tab.lean ====
section
/-! SUPPORT. Laws of the sparse tables and of the byte memories: a read after a write, and the canonical form that every operation keeps. -/

namespace Sys2Proof.Machine

variable {β : Type}

@[simp] theorem Tab.get_nil (d : β) (k : Nat) : Tab.get d [] k = d := rfl

theorem Tab.get_erase (d : β) (t : Tab β) (k j : Nat) : Tab.get d (Tab.erase t k) j = if j = k then d else Tab.get d t j := by
  induction t with
  | nil => simp [Tab.erase, Tab.get]
  | cons p t ih =>
    obtain ⟨a, v⟩ := p
    by_cases ha : a = k
    · subst ha
      simp only [Tab.erase, if_true, ih]
      by_cases hj : j = a
      · simp [hj]
      · simp [hj, Tab.get, Ne.symm hj]
    · simp only [Tab.erase, ha, if_false, Tab.get, ih]
      by_cases hj : j = k
      · subst hj; simp [ha]
      · simp [hj]

theorem Tab.get_insert (d : β) (t : Tab β) (k j : Nat) (v : β) :
    Tab.get d (Tab.insert (Tab.erase t k) k v) j = if j = k then v else Tab.get d (Tab.erase t k) j := by
  generalize ht : Tab.erase t k = u
  have hu : ∀ p ∈ u, p.1 ≠ k := by
    intro p hp
    rw [← ht] at hp
    clear ht
    induction t with
    | nil => simp [Tab.erase] at hp
    | cons q t ih =>
      obtain ⟨a, w⟩ := q
      by_cases ha : a = k
      · simp only [Tab.erase, ha, if_true] at hp; exact ih hp
      · simp only [Tab.erase, ha, if_false, List.mem_cons] at hp
        rcases hp with rfl | hp
        · exact ha
        · exact ih hp
  clear ht
  induction u with
  | nil => by_cases hj : k = j <;> simp [Tab.insert, Tab.get, hj, eq_comm]
  | cons q u ih =>
    obtain ⟨a, w⟩ := q
    have ha : a ≠ k := hu (a, w) (by simp)
    have hrest := ih (fun p hp => hu p (by simp [hp]))
    by_cases hlt : k < a
    · simp only [Tab.insert, hlt, if_true, Tab.get]
      by_cases hj : j = k
      · simp [hj]
      · simp [hj, Ne.symm hj]
    · simp only [Tab.insert, hlt, if_false, Tab.get, hrest]
      by_cases hj : j = k
      · subst hj; simp [ha]
      · simp [hj]

/-- A read after a write. -/
theorem Tab.get_set [DecidableEq β] (d : β) (t : Tab β) (k j : Nat) (v : β) :
    Tab.get d (Tab.set d t k v) j = if j = k then v else Tab.get d t j := by
  unfold Tab.set
  split
  · rename_i h; rw [Tab.get_erase, h]
  · rw [Tab.get_insert, Tab.get_erase]; split <;> simp_all

@[simp] theorem Tab.get_set_self [DecidableEq β] (d : β) (t : Tab β) (k : Nat) (v : β) : Tab.get d (Tab.set d t k v) k = v := by
  simp [Tab.get_set]

theorem Tab.get_set_other [DecidableEq β] (d : β) (t : Tab β) {k j : Nat} (v : β) (h : j ≠ k) :
    Tab.get d (Tab.set d t k v) j = Tab.get d t j := by simp [Tab.get_set, h]

/-- A write does not touch other keys, whatever the defaults (the registers of one block have different reset values). -/
theorem Tab.get_set_ne [DecidableEq β] (d e : β) (t : Tab β) {k j : Nat} (v : β) (h : j ≠ k) :
    Tab.get d (Tab.set e t k v) j = Tab.get d t j := by
  unfold Tab.set
  split
  · rw [Tab.get_erase, if_neg h]
  · rw [Tab.get_insert, if_neg h, Tab.get_erase, if_neg h]

/-- The canonical form, as a property of every entry and of every pair of neighbours in order. -/
theorem Tab.wf_cons [DecidableEq β] (d : β) (a : Nat) (v : β) (t : Tab β) :
    Tab.wf d ((a, v) :: t) = true ↔ v ≠ d ∧ (∀ p ∈ t, a < p.1) ∧ Tab.wf d t = true := by
  induction t generalizing a v with
  | nil => simp [Tab.wf]
  | cons q t ih =>
    obtain ⟨b, w⟩ := q
    have := ih b w
    simp only [Tab.wf, Bool.and_eq_true, decide_eq_true_eq, List.mem_cons, forall_eq_or_imp]
    constructor
    · rintro ⟨⟨hv, hab⟩, hw⟩
      have hw' := this.mp hw
      exact ⟨hv, ⟨hab, fun p hp => Nat.lt_trans hab (hw'.2.1 p hp)⟩, hw⟩
    · rintro ⟨hv, ⟨hab, _⟩, hw⟩
      exact ⟨⟨hv, hab⟩, hw⟩

@[simp] theorem Tab.wf_nil [DecidableEq β] (d : β) : Tab.wf d ([] : Tab β) = true := rfl

theorem Tab.mem_erase (t : Tab β) (k : Nat) (p : Nat × β) : p ∈ Tab.erase t k → p ∈ t ∧ p.1 ≠ k := by
  induction t with
  | nil => simp [Tab.erase]
  | cons q t ih =>
    obtain ⟨a, w⟩ := q
    by_cases ha : a = k
    · simp only [Tab.erase, ha, if_true]; intro h; exact ⟨by simp [(ih h).1], (ih h).2⟩
    · simp only [Tab.erase, ha, if_false, List.mem_cons]
      rintro (rfl | h)
      · exact ⟨by simp, ha⟩
      · exact ⟨by simp [(ih h).1], (ih h).2⟩

theorem Tab.wf_erase [DecidableEq β] (d : β) (t : Tab β) (k : Nat) (h : Tab.wf d t = true) : Tab.wf d (Tab.erase t k) = true := by
  induction t with
  | nil => rfl
  | cons q t ih =>
    obtain ⟨a, w⟩ := q
    rw [Tab.wf_cons] at h
    by_cases ha : a = k
    · simp only [Tab.erase, ha, if_true]; exact ih h.2.2
    · simp only [Tab.erase, ha, if_false, Tab.wf_cons]
      exact ⟨h.1, fun p hp => h.2.1 p (Tab.mem_erase t k p hp).1, ih h.2.2⟩

theorem Tab.mem_insert (t : Tab β) (k : Nat) (v : β) (p : Nat × β) : p ∈ Tab.insert t k v → p = (k, v) ∨ p ∈ t := by
  induction t with
  | nil => simp [Tab.insert]
  | cons q t ih =>
    obtain ⟨a, w⟩ := q
    by_cases hlt : k < a
    · simp [Tab.insert, hlt]
    · simp only [Tab.insert, hlt, if_false, List.mem_cons]
      rintro (rfl | h)
      · simp
      · rcases ih h with h | h
        · exact Or.inl h
        · exact Or.inr (Or.inr h)

theorem Tab.wf_insert [DecidableEq β] (d : β) (t : Tab β) (k : Nat) (v : β) (hv : v ≠ d) (hk : ∀ p ∈ t, p.1 ≠ k)
    (h : Tab.wf d t = true) : Tab.wf d (Tab.insert t k v) = true := by
  induction t with
  | nil => simp [Tab.insert, Tab.wf, hv]
  | cons q t ih =>
    obtain ⟨a, w⟩ := q
    have hq := (Tab.wf_cons d a w t).mp h
    by_cases hlt : k < a
    · simp only [Tab.insert, hlt, if_true]
      rw [Tab.wf_cons]
      refine ⟨hv, ?_, h⟩
      intro p hp
      rcases List.mem_cons.mp hp with rfl | hp
      · exact hlt
      · exact Nat.lt_trans hlt (hq.2.1 p hp)
    · simp only [Tab.insert, hlt, if_false]
      rw [Tab.wf_cons]
      have hak : a ≠ k := hk (a, w) (by simp)
      refine ⟨hq.1, ?_, ih (fun p hp => hk p (by simp [hp])) hq.2.2⟩
      intro p hp
      rcases Tab.mem_insert t k v p hp with rfl | hp
      · simp only; omega
      · exact hq.2.1 p hp

/-- A write keeps the canonical form. -/
theorem Tab.wf_set [DecidableEq β] (d : β) (t : Tab β) (k : Nat) (v : β) (h : Tab.wf d t = true) : Tab.wf d (Tab.set d t k v) = true := by
  unfold Tab.set
  split
  · exact Tab.wf_erase d t k h
  · rename_i hv
    exact Tab.wf_insert d _ k v hv (fun p hp => (Tab.mem_erase t k p hp).2) (Tab.wf_erase d t k h)

/-- Dropping entries keeps the canonical form. -/
theorem Tab.wf_filter [DecidableEq β] (d : β) (t : Tab β) (f : Nat × β → Bool) (h : Tab.wf d t = true) : Tab.wf d (t.filter f) = true := by
  induction t with
  | nil => rfl
  | cons q t ih =>
    obtain ⟨a, w⟩ := q
    have hq := (Tab.wf_cons d a w t).mp h
    by_cases hf : f (a, w) = true
    · rw [List.filter_cons_of_pos hf, Tab.wf_cons]
      exact ⟨hq.1, fun p hp => hq.2.1 p (List.mem_filter.mp hp).1, ih hq.2.2⟩
    · rw [List.filter_cons_of_neg (by simpa using hf)]; exact ih hq.2.2

/-- In the canonical form an entry's value is what its key reads as. -/
theorem Tab.get_of_mem [DecidableEq β] (d : β) (t : Tab β) (h : Tab.wf d t = true) (p : Nat × β) (hp : p ∈ t) : Tab.get d t p.1 = p.2 := by
  induction t with
  | nil => simp at hp
  | cons q t ih =>
    obtain ⟨a, w⟩ := q
    have hq := (Tab.wf_cons d a w t).mp h
    rcases List.mem_cons.mp hp with rfl | hp
    · simp [Tab.get]
    · have := hq.2.1 p hp
      simp only [Tab.get]
      rw [if_neg (by omega)]
      exact ih hq.2.2 hp

/-- Tables in canonical form that read alike are equal. -/
theorem Tab.ext_get [DecidableEq β] (d : β) (t u : Tab β) (ht : Tab.wf d t = true) (hu : Tab.wf d u = true)
    (h : ∀ k, Tab.get d t k = Tab.get d u k) : t = u := by
  induction t generalizing u with
  | nil =>
    cases u with
    | nil => rfl
    | cons q u =>
      obtain ⟨b, w⟩ := q
      have := h b
      simp [Tab.get] at this
      exact absurd this.symm ((Tab.wf_cons d b w u).mp hu).1
  | cons p t ih =>
    obtain ⟨a, v⟩ := p
    have hp := (Tab.wf_cons d a v t).mp ht
    have below : ∀ (u : Tab β) (k : Nat), (∀ q ∈ u, k < q.1) → Tab.get d u k = d := by
      intro u
      induction u with
      | nil => intros; rfl
      | cons q u ihu =>
        intro k hk
        obtain ⟨b, w⟩ := q
        have hb := hk (b, w) (by simp)
        simp only [Tab.get]
        rw [if_neg (by omega)]
        exact ihu k (fun r hr => hk r (by simp [hr]))
    cases u with
    | nil =>
      have := h a
      simp [Tab.get] at this
      exact absurd this hp.1
    | cons q u =>
      obtain ⟨b, w⟩ := q
      have hq := (Tab.wf_cons d b w u).mp hu
      have hab : a = b := by
        rcases Nat.lt_trichotomy a b with hlt | heq | hgt
        · have := h a
          rw [below ((b, w) :: u) a (by
            intro r hr
            rcases List.mem_cons.mp hr with rfl | hr
            · exact hlt
            · exact Nat.lt_trans hlt (hq.2.1 r hr))] at this
          simp [Tab.get] at this
          exact absurd this hp.1
        · exact heq
        · have := h b
          rw [below ((a, v) :: t) b (by
            intro r hr
            rcases List.mem_cons.mp hr with rfl | hr
            · exact hgt
            · exact Nat.lt_trans hgt (hp.2.1 r hr))] at this
          simp [Tab.get] at this
          exact absurd this.symm hq.1
      subst hab
      have hvw : v = w := by have := h a; simpa [Tab.get] using this
      subst hvw
      congr 1
      refine ih u hp.2.2 hq.2.2 (fun k => ?_)
      by_cases hk : a = k
      · subst hk
        rw [below t a hp.2.1, below u a hq.2.1]
      · have := h k
        simpa [Tab.get, hk] using this

-- memories

theorem Mem.read_write (m : Mem) (a c : Nat) (b : Byte) : (m.write a b).read c = if c = a then b else m.read c := Tab.get_set 0 m a c b

theorem Mem.wf_write (m : Mem) (a : Nat) (b : Byte) (h : Mem.wf m = true) : Mem.wf (m.write a b) = true := Tab.wf_set 0 m a b h

/-- Writing bytes keeps the canonical form. -/
theorem Mem.wf_writeN (m : Mem) (a : Nat) (bs : List Byte) (h : Mem.wf m = true) : Mem.wf (m.writeN a bs) = true := by
  induction bs generalizing m a with
  | nil => exact h
  | cons b bs ih => exact ih (m.write a b) (a + 1) (Mem.wf_write m a b h)

theorem Mem.wf_zeroN (m : Mem) (a n : Nat) (h : Mem.wf m = true) : Mem.wf (m.zeroN a n) = true := Tab.wf_filter 0 m _ h

/-- A read after writing bytes: the written byte inside, the old one outside. -/
theorem Mem.read_writeN (m : Mem) (a c : Nat) (bs : List Byte) :
    (m.writeN a bs).read c = if a ≤ c ∧ c < a + bs.length then bs.getD (c - a) 0 else m.read c := by
  induction bs generalizing m a with
  | nil =>
    rw [if_neg (by simp only [List.length_nil]; omega)]
    rfl
  | cons b bs ih =>
    rw [Mem.writeN, ih, Mem.read_write]
    simp only [List.length_cons]
    by_cases h1 : a + 1 ≤ c ∧ c < a + 1 + bs.length
    · have h2 : a ≤ c ∧ c < a + (bs.length + 1) := by omega
      rw [if_pos h1, if_pos h2]
      have : c - a = (c - (a + 1)) + 1 := by omega
      rw [this, List.getD_cons_succ]
    · rw [if_neg h1]
      by_cases h3 : c = a
      · subst h3
        rw [if_pos rfl, if_pos (by omega)]
        simp
      · rw [if_neg h3, if_neg (by omega)]

/-- Bytes outside what is written stay. -/
theorem Mem.read_writeN_outside (m : Mem) (a c : Nat) (bs : List Byte) (h : c < a ∨ a + bs.length ≤ c) : (m.writeN a bs).read c = m.read c := by
  rw [Mem.read_writeN, if_neg (by omega)]

theorem Mem.readN_length (m : Mem) (a n : Nat) : (m.readN a n).length = n := by
  induction n generalizing a with
  | zero => rfl
  | succ n ih => simp [Mem.readN, ih]

/-- Bytes written and read back are the bytes. -/
theorem Mem.readN_writeN (m : Mem) (a : Nat) (bs : List Byte) : (m.writeN a bs).readN a bs.length = bs := by
  have key : ∀ (n i : Nat), i + n = bs.length → (m.writeN a bs).readN (a + i) n = bs.drop i := by
    intro n
    induction n with
    | zero => intro i hi; simp [Mem.readN, List.drop_eq_nil_of_le (by omega : bs.length ≤ i)]
    | succ n ih =>
      intro i hi
      rw [Mem.readN, Mem.read_writeN, if_pos (by omega)]
      have hlt : i < bs.length := by omega
      rw [List.drop_eq_getElem_cons hlt]
      congr 1
      · simp [List.getD, List.getElem?_eq_getElem hlt]
      · have := ih (i + 1) (by omega)
        rwa [Nat.add_assoc]
  have := key bs.length 0 (by omega)
  simpa using this

theorem leBytes_length (n v : Nat) : (leBytes n v).length = n := by
  induction n generalizing v with
  | zero => rfl
  | succ n ih => simp [leBytes, ih]

/-- A number that fits comes back from its bytes (R21). -/
theorem leNat_leBytes (n v : Nat) (h : v < 256 ^ n) : leNat (leBytes n v) = v := by
  induction n generalizing v with
  | zero => simp at h; simp [leBytes, leNat, h]
  | succ n ih =>
    have hq : v / 256 < 256 ^ n := by
      rw [Nat.div_lt_iff_lt_mul (by decide)]
      rw [Nat.pow_succ] at h
      exact h
    rw [leBytes, leNat, ih _ hq, BitVec.toNat_ofNat]
    omega

end Sys2Proof.Machine
end

