-- ==== Sys2Proof/Laws/State.lean ====
section
/-! SUPPORT. One lemma per field per update of the die's state and of a core, true by rfl, and what each accessor reads after each update. -/

namespace Sys2Proof.Machine

variable (s : State)

-- setCore

@[simp] theorem State.setCore_pending (k : Nat) (c : Core) : (s.setCore k c).pending = s.pending := rfl
@[simp] theorem State.setCore_powered (k : Nat) (c : Core) : (s.setCore k c).powered = s.powered := rfl
@[simp] theorem State.setCore_board (k : Nat) (c : Core) : (s.setCore k c).board = s.board := rfl
@[simp] theorem State.setCore_mem (k : Nat) (c : Core) : (s.setCore k c).mem = s.mem := rfl
@[simp] theorem State.setCore_stale (k : Nat) (c : Core) : (s.setCore k c).stale = s.stale := rfl
@[simp] theorem State.setCore_poison (k : Nat) (c : Core) : (s.setCore k c).poison = s.poison := rfl
@[simp] theorem State.setCore_transit (k : Nat) (c : Core) : (s.setCore k c).transit = s.transit := rfl
@[simp] theorem State.setCore_vats (k : Nat) (c : Core) : (s.setCore k c).vats = s.vats := rfl
@[simp] theorem State.setCore_memRegs (k : Nat) (c : Core) : (s.setCore k c).memRegs = s.memRegs := rfl
@[simp] theorem State.setCore_ports (k : Nat) (c : Core) : (s.setCore k c).ports = s.ports := rfl
@[simp] theorem State.setCore_dln (k : Nat) (c : Core) : (s.setCore k c).dln = s.dln := rfl
@[simp] theorem State.setCore_mbx (k : Nat) (c : Core) : (s.setCore k c).mbx = s.mbx := rfl
@[simp] theorem State.setCore_stage (k : Nat) (c : Core) : (s.setCore k c).stage = s.stage := rfl
@[simp] theorem State.setCore_mill (k : Nat) (c : Core) : (s.setCore k c).mill = s.mill := rfl
@[simp] theorem State.setCore_host (k : Nat) (c : Core) : (s.setCore k c).host = s.host := rfl
@[simp] theorem State.setCore_clk (k : Nat) (c : Core) : (s.setCore k c).clk = s.clk := rfl
@[simp] theorem State.setCore_err (k : Nat) (c : Core) : (s.setCore k c).err = s.err := rfl
@[simp] theorem State.setCore_jtag (k : Nat) (c : Core) : (s.setCore k c).jtag = s.jtag := rfl
@[simp] theorem State.setCore_waiters (k : Nat) (c : Core) : (s.setCore k c).waiters = s.waiters := rfl
@[simp] theorem State.setCore_upsets (k : Nat) (c : Core) : (s.setCore k c).upsets = s.upsets := rfl
@[simp] theorem State.setCore_free (k : Nat) (c : Core) : (s.setCore k c).free = s.free := rfl
@[simp] theorem State.setCore_outbox (k : Nat) (c : Core) : (s.setCore k c).outbox = s.outbox := rfl

-- updCore

@[simp] theorem State.updCore_pending (k : Nat) (h : Core → Core) : (s.updCore k h).pending = s.pending := rfl
@[simp] theorem State.updCore_powered (k : Nat) (h : Core → Core) : (s.updCore k h).powered = s.powered := rfl
@[simp] theorem State.updCore_board (k : Nat) (h : Core → Core) : (s.updCore k h).board = s.board := rfl
@[simp] theorem State.updCore_mem (k : Nat) (h : Core → Core) : (s.updCore k h).mem = s.mem := rfl
@[simp] theorem State.updCore_stale (k : Nat) (h : Core → Core) : (s.updCore k h).stale = s.stale := rfl
@[simp] theorem State.updCore_poison (k : Nat) (h : Core → Core) : (s.updCore k h).poison = s.poison := rfl
@[simp] theorem State.updCore_transit (k : Nat) (h : Core → Core) : (s.updCore k h).transit = s.transit := rfl
@[simp] theorem State.updCore_vats (k : Nat) (h : Core → Core) : (s.updCore k h).vats = s.vats := rfl
@[simp] theorem State.updCore_memRegs (k : Nat) (h : Core → Core) : (s.updCore k h).memRegs = s.memRegs := rfl
@[simp] theorem State.updCore_ports (k : Nat) (h : Core → Core) : (s.updCore k h).ports = s.ports := rfl
@[simp] theorem State.updCore_dln (k : Nat) (h : Core → Core) : (s.updCore k h).dln = s.dln := rfl
@[simp] theorem State.updCore_mbx (k : Nat) (h : Core → Core) : (s.updCore k h).mbx = s.mbx := rfl
@[simp] theorem State.updCore_stage (k : Nat) (h : Core → Core) : (s.updCore k h).stage = s.stage := rfl
@[simp] theorem State.updCore_mill (k : Nat) (h : Core → Core) : (s.updCore k h).mill = s.mill := rfl
@[simp] theorem State.updCore_host (k : Nat) (h : Core → Core) : (s.updCore k h).host = s.host := rfl
@[simp] theorem State.updCore_clk (k : Nat) (h : Core → Core) : (s.updCore k h).clk = s.clk := rfl
@[simp] theorem State.updCore_err (k : Nat) (h : Core → Core) : (s.updCore k h).err = s.err := rfl
@[simp] theorem State.updCore_jtag (k : Nat) (h : Core → Core) : (s.updCore k h).jtag = s.jtag := rfl
@[simp] theorem State.updCore_waiters (k : Nat) (h : Core → Core) : (s.updCore k h).waiters = s.waiters := rfl
@[simp] theorem State.updCore_upsets (k : Nat) (h : Core → Core) : (s.updCore k h).upsets = s.upsets := rfl
@[simp] theorem State.updCore_free (k : Nat) (h : Core → Core) : (s.updCore k h).free = s.free := rfl
@[simp] theorem State.updCore_outbox (k : Nat) (h : Core → Core) : (s.updCore k h).outbox = s.outbox := rfl

-- setG

@[simp] theorem State.setG_pending (k : Nat) (r : Reg) (w : Word) : (s.setG k r w).pending = s.pending := rfl
@[simp] theorem State.setG_powered (k : Nat) (r : Reg) (w : Word) : (s.setG k r w).powered = s.powered := rfl
@[simp] theorem State.setG_board (k : Nat) (r : Reg) (w : Word) : (s.setG k r w).board = s.board := rfl
@[simp] theorem State.setG_mem (k : Nat) (r : Reg) (w : Word) : (s.setG k r w).mem = s.mem := rfl
@[simp] theorem State.setG_stale (k : Nat) (r : Reg) (w : Word) : (s.setG k r w).stale = s.stale := rfl
@[simp] theorem State.setG_poison (k : Nat) (r : Reg) (w : Word) : (s.setG k r w).poison = s.poison := rfl
@[simp] theorem State.setG_transit (k : Nat) (r : Reg) (w : Word) : (s.setG k r w).transit = s.transit := rfl
@[simp] theorem State.setG_vats (k : Nat) (r : Reg) (w : Word) : (s.setG k r w).vats = s.vats := rfl
@[simp] theorem State.setG_memRegs (k : Nat) (r : Reg) (w : Word) : (s.setG k r w).memRegs = s.memRegs := rfl
@[simp] theorem State.setG_ports (k : Nat) (r : Reg) (w : Word) : (s.setG k r w).ports = s.ports := rfl
@[simp] theorem State.setG_dln (k : Nat) (r : Reg) (w : Word) : (s.setG k r w).dln = s.dln := rfl
@[simp] theorem State.setG_mbx (k : Nat) (r : Reg) (w : Word) : (s.setG k r w).mbx = s.mbx := rfl
@[simp] theorem State.setG_stage (k : Nat) (r : Reg) (w : Word) : (s.setG k r w).stage = s.stage := rfl
@[simp] theorem State.setG_mill (k : Nat) (r : Reg) (w : Word) : (s.setG k r w).mill = s.mill := rfl
@[simp] theorem State.setG_host (k : Nat) (r : Reg) (w : Word) : (s.setG k r w).host = s.host := rfl
@[simp] theorem State.setG_clk (k : Nat) (r : Reg) (w : Word) : (s.setG k r w).clk = s.clk := rfl
@[simp] theorem State.setG_err (k : Nat) (r : Reg) (w : Word) : (s.setG k r w).err = s.err := rfl
@[simp] theorem State.setG_jtag (k : Nat) (r : Reg) (w : Word) : (s.setG k r w).jtag = s.jtag := rfl
@[simp] theorem State.setG_waiters (k : Nat) (r : Reg) (w : Word) : (s.setG k r w).waiters = s.waiters := rfl
@[simp] theorem State.setG_upsets (k : Nat) (r : Reg) (w : Word) : (s.setG k r w).upsets = s.upsets := rfl
@[simp] theorem State.setG_free (k : Nat) (r : Reg) (w : Word) : (s.setG k r w).free = s.free := rfl
@[simp] theorem State.setG_outbox (k : Nat) (r : Reg) (w : Word) : (s.setG k r w).outbox = s.outbox := rfl

-- setF

@[simp] theorem State.setF_pending (k : Nat) (r : Reg) (w : Word) : (s.setF k r w).pending = s.pending := rfl
@[simp] theorem State.setF_powered (k : Nat) (r : Reg) (w : Word) : (s.setF k r w).powered = s.powered := rfl
@[simp] theorem State.setF_board (k : Nat) (r : Reg) (w : Word) : (s.setF k r w).board = s.board := rfl
@[simp] theorem State.setF_mem (k : Nat) (r : Reg) (w : Word) : (s.setF k r w).mem = s.mem := rfl
@[simp] theorem State.setF_stale (k : Nat) (r : Reg) (w : Word) : (s.setF k r w).stale = s.stale := rfl
@[simp] theorem State.setF_poison (k : Nat) (r : Reg) (w : Word) : (s.setF k r w).poison = s.poison := rfl
@[simp] theorem State.setF_transit (k : Nat) (r : Reg) (w : Word) : (s.setF k r w).transit = s.transit := rfl
@[simp] theorem State.setF_vats (k : Nat) (r : Reg) (w : Word) : (s.setF k r w).vats = s.vats := rfl
@[simp] theorem State.setF_memRegs (k : Nat) (r : Reg) (w : Word) : (s.setF k r w).memRegs = s.memRegs := rfl
@[simp] theorem State.setF_ports (k : Nat) (r : Reg) (w : Word) : (s.setF k r w).ports = s.ports := rfl
@[simp] theorem State.setF_dln (k : Nat) (r : Reg) (w : Word) : (s.setF k r w).dln = s.dln := rfl
@[simp] theorem State.setF_mbx (k : Nat) (r : Reg) (w : Word) : (s.setF k r w).mbx = s.mbx := rfl
@[simp] theorem State.setF_stage (k : Nat) (r : Reg) (w : Word) : (s.setF k r w).stage = s.stage := rfl
@[simp] theorem State.setF_mill (k : Nat) (r : Reg) (w : Word) : (s.setF k r w).mill = s.mill := rfl
@[simp] theorem State.setF_host (k : Nat) (r : Reg) (w : Word) : (s.setF k r w).host = s.host := rfl
@[simp] theorem State.setF_clk (k : Nat) (r : Reg) (w : Word) : (s.setF k r w).clk = s.clk := rfl
@[simp] theorem State.setF_err (k : Nat) (r : Reg) (w : Word) : (s.setF k r w).err = s.err := rfl
@[simp] theorem State.setF_jtag (k : Nat) (r : Reg) (w : Word) : (s.setF k r w).jtag = s.jtag := rfl
@[simp] theorem State.setF_waiters (k : Nat) (r : Reg) (w : Word) : (s.setF k r w).waiters = s.waiters := rfl
@[simp] theorem State.setF_upsets (k : Nat) (r : Reg) (w : Word) : (s.setF k r w).upsets = s.upsets := rfl
@[simp] theorem State.setF_free (k : Nat) (r : Reg) (w : Word) : (s.setF k r w).free = s.free := rfl
@[simp] theorem State.setF_outbox (k : Nat) (r : Reg) (w : Word) : (s.setF k r w).outbox = s.outbox := rfl

-- setCreg

@[simp] theorem State.setCreg_pending (k off : Nat) (w : Word) : (s.setCreg k off w).pending = s.pending := rfl
@[simp] theorem State.setCreg_powered (k off : Nat) (w : Word) : (s.setCreg k off w).powered = s.powered := rfl
@[simp] theorem State.setCreg_board (k off : Nat) (w : Word) : (s.setCreg k off w).board = s.board := rfl
@[simp] theorem State.setCreg_mem (k off : Nat) (w : Word) : (s.setCreg k off w).mem = s.mem := rfl
@[simp] theorem State.setCreg_stale (k off : Nat) (w : Word) : (s.setCreg k off w).stale = s.stale := rfl
@[simp] theorem State.setCreg_poison (k off : Nat) (w : Word) : (s.setCreg k off w).poison = s.poison := rfl
@[simp] theorem State.setCreg_transit (k off : Nat) (w : Word) : (s.setCreg k off w).transit = s.transit := rfl
@[simp] theorem State.setCreg_vats (k off : Nat) (w : Word) : (s.setCreg k off w).vats = s.vats := rfl
@[simp] theorem State.setCreg_memRegs (k off : Nat) (w : Word) : (s.setCreg k off w).memRegs = s.memRegs := rfl
@[simp] theorem State.setCreg_ports (k off : Nat) (w : Word) : (s.setCreg k off w).ports = s.ports := rfl
@[simp] theorem State.setCreg_dln (k off : Nat) (w : Word) : (s.setCreg k off w).dln = s.dln := rfl
@[simp] theorem State.setCreg_mbx (k off : Nat) (w : Word) : (s.setCreg k off w).mbx = s.mbx := rfl
@[simp] theorem State.setCreg_stage (k off : Nat) (w : Word) : (s.setCreg k off w).stage = s.stage := rfl
@[simp] theorem State.setCreg_mill (k off : Nat) (w : Word) : (s.setCreg k off w).mill = s.mill := rfl
@[simp] theorem State.setCreg_host (k off : Nat) (w : Word) : (s.setCreg k off w).host = s.host := rfl
@[simp] theorem State.setCreg_clk (k off : Nat) (w : Word) : (s.setCreg k off w).clk = s.clk := rfl
@[simp] theorem State.setCreg_err (k off : Nat) (w : Word) : (s.setCreg k off w).err = s.err := rfl
@[simp] theorem State.setCreg_jtag (k off : Nat) (w : Word) : (s.setCreg k off w).jtag = s.jtag := rfl
@[simp] theorem State.setCreg_waiters (k off : Nat) (w : Word) : (s.setCreg k off w).waiters = s.waiters := rfl
@[simp] theorem State.setCreg_upsets (k off : Nat) (w : Word) : (s.setCreg k off w).upsets = s.upsets := rfl
@[simp] theorem State.setCreg_free (k off : Nat) (w : Word) : (s.setCreg k off w).free = s.free := rfl
@[simp] theorem State.setCreg_outbox (k off : Nat) (w : Word) : (s.setCreg k off w).outbox = s.outbox := rfl

-- setVat

@[simp] theorem State.setVat_pending (c : Nat) (x : Vat) : (s.setVat c x).pending = s.pending := rfl
@[simp] theorem State.setVat_powered (c : Nat) (x : Vat) : (s.setVat c x).powered = s.powered := rfl
@[simp] theorem State.setVat_board (c : Nat) (x : Vat) : (s.setVat c x).board = s.board := rfl
@[simp] theorem State.setVat_cores (c : Nat) (x : Vat) : (s.setVat c x).cores = s.cores := rfl
@[simp] theorem State.setVat_mem (c : Nat) (x : Vat) : (s.setVat c x).mem = s.mem := rfl
@[simp] theorem State.setVat_stale (c : Nat) (x : Vat) : (s.setVat c x).stale = s.stale := rfl
@[simp] theorem State.setVat_poison (c : Nat) (x : Vat) : (s.setVat c x).poison = s.poison := rfl
@[simp] theorem State.setVat_transit (c : Nat) (x : Vat) : (s.setVat c x).transit = s.transit := rfl
@[simp] theorem State.setVat_memRegs (c : Nat) (x : Vat) : (s.setVat c x).memRegs = s.memRegs := rfl
@[simp] theorem State.setVat_ports (c : Nat) (x : Vat) : (s.setVat c x).ports = s.ports := rfl
@[simp] theorem State.setVat_dln (c : Nat) (x : Vat) : (s.setVat c x).dln = s.dln := rfl
@[simp] theorem State.setVat_mbx (c : Nat) (x : Vat) : (s.setVat c x).mbx = s.mbx := rfl
@[simp] theorem State.setVat_stage (c : Nat) (x : Vat) : (s.setVat c x).stage = s.stage := rfl
@[simp] theorem State.setVat_mill (c : Nat) (x : Vat) : (s.setVat c x).mill = s.mill := rfl
@[simp] theorem State.setVat_host (c : Nat) (x : Vat) : (s.setVat c x).host = s.host := rfl
@[simp] theorem State.setVat_clk (c : Nat) (x : Vat) : (s.setVat c x).clk = s.clk := rfl
@[simp] theorem State.setVat_err (c : Nat) (x : Vat) : (s.setVat c x).err = s.err := rfl
@[simp] theorem State.setVat_jtag (c : Nat) (x : Vat) : (s.setVat c x).jtag = s.jtag := rfl
@[simp] theorem State.setVat_waiters (c : Nat) (x : Vat) : (s.setVat c x).waiters = s.waiters := rfl
@[simp] theorem State.setVat_upsets (c : Nat) (x : Vat) : (s.setVat c x).upsets = s.upsets := rfl
@[simp] theorem State.setVat_free (c : Nat) (x : Vat) : (s.setVat c x).free = s.free := rfl
@[simp] theorem State.setVat_outbox (c : Nat) (x : Vat) : (s.setVat c x).outbox = s.outbox := rfl

-- setPort

@[simp] theorem State.setPort_pending (p : Nat) (x : Port) : (s.setPort p x).pending = s.pending := rfl
@[simp] theorem State.setPort_powered (p : Nat) (x : Port) : (s.setPort p x).powered = s.powered := rfl
@[simp] theorem State.setPort_board (p : Nat) (x : Port) : (s.setPort p x).board = s.board := rfl
@[simp] theorem State.setPort_cores (p : Nat) (x : Port) : (s.setPort p x).cores = s.cores := rfl
@[simp] theorem State.setPort_mem (p : Nat) (x : Port) : (s.setPort p x).mem = s.mem := rfl
@[simp] theorem State.setPort_stale (p : Nat) (x : Port) : (s.setPort p x).stale = s.stale := rfl
@[simp] theorem State.setPort_poison (p : Nat) (x : Port) : (s.setPort p x).poison = s.poison := rfl
@[simp] theorem State.setPort_transit (p : Nat) (x : Port) : (s.setPort p x).transit = s.transit := rfl
@[simp] theorem State.setPort_vats (p : Nat) (x : Port) : (s.setPort p x).vats = s.vats := rfl
@[simp] theorem State.setPort_memRegs (p : Nat) (x : Port) : (s.setPort p x).memRegs = s.memRegs := rfl
@[simp] theorem State.setPort_dln (p : Nat) (x : Port) : (s.setPort p x).dln = s.dln := rfl
@[simp] theorem State.setPort_mbx (p : Nat) (x : Port) : (s.setPort p x).mbx = s.mbx := rfl
@[simp] theorem State.setPort_stage (p : Nat) (x : Port) : (s.setPort p x).stage = s.stage := rfl
@[simp] theorem State.setPort_mill (p : Nat) (x : Port) : (s.setPort p x).mill = s.mill := rfl
@[simp] theorem State.setPort_host (p : Nat) (x : Port) : (s.setPort p x).host = s.host := rfl
@[simp] theorem State.setPort_clk (p : Nat) (x : Port) : (s.setPort p x).clk = s.clk := rfl
@[simp] theorem State.setPort_err (p : Nat) (x : Port) : (s.setPort p x).err = s.err := rfl
@[simp] theorem State.setPort_jtag (p : Nat) (x : Port) : (s.setPort p x).jtag = s.jtag := rfl
@[simp] theorem State.setPort_waiters (p : Nat) (x : Port) : (s.setPort p x).waiters = s.waiters := rfl
@[simp] theorem State.setPort_upsets (p : Nat) (x : Port) : (s.setPort p x).upsets = s.upsets := rfl
@[simp] theorem State.setPort_free (p : Nat) (x : Port) : (s.setPort p x).free = s.free := rfl
@[simp] theorem State.setPort_outbox (p : Nat) (x : Port) : (s.setPort p x).outbox = s.outbox := rfl

-- setLink

@[simp] theorem State.setLink_pending (p : Nat) (x : Link) : (s.setLink p x).pending = s.pending := rfl
@[simp] theorem State.setLink_powered (p : Nat) (x : Link) : (s.setLink p x).powered = s.powered := rfl
@[simp] theorem State.setLink_board (p : Nat) (x : Link) : (s.setLink p x).board = s.board := rfl
@[simp] theorem State.setLink_cores (p : Nat) (x : Link) : (s.setLink p x).cores = s.cores := rfl
@[simp] theorem State.setLink_mem (p : Nat) (x : Link) : (s.setLink p x).mem = s.mem := rfl
@[simp] theorem State.setLink_stale (p : Nat) (x : Link) : (s.setLink p x).stale = s.stale := rfl
@[simp] theorem State.setLink_poison (p : Nat) (x : Link) : (s.setLink p x).poison = s.poison := rfl
@[simp] theorem State.setLink_transit (p : Nat) (x : Link) : (s.setLink p x).transit = s.transit := rfl
@[simp] theorem State.setLink_vats (p : Nat) (x : Link) : (s.setLink p x).vats = s.vats := rfl
@[simp] theorem State.setLink_memRegs (p : Nat) (x : Link) : (s.setLink p x).memRegs = s.memRegs := rfl
@[simp] theorem State.setLink_ports (p : Nat) (x : Link) : (s.setLink p x).ports = s.ports := rfl
@[simp] theorem State.setLink_mbx (p : Nat) (x : Link) : (s.setLink p x).mbx = s.mbx := rfl
@[simp] theorem State.setLink_stage (p : Nat) (x : Link) : (s.setLink p x).stage = s.stage := rfl
@[simp] theorem State.setLink_mill (p : Nat) (x : Link) : (s.setLink p x).mill = s.mill := rfl
@[simp] theorem State.setLink_host (p : Nat) (x : Link) : (s.setLink p x).host = s.host := rfl
@[simp] theorem State.setLink_clk (p : Nat) (x : Link) : (s.setLink p x).clk = s.clk := rfl
@[simp] theorem State.setLink_err (p : Nat) (x : Link) : (s.setLink p x).err = s.err := rfl
@[simp] theorem State.setLink_jtag (p : Nat) (x : Link) : (s.setLink p x).jtag = s.jtag := rfl
@[simp] theorem State.setLink_waiters (p : Nat) (x : Link) : (s.setLink p x).waiters = s.waiters := rfl
@[simp] theorem State.setLink_upsets (p : Nat) (x : Link) : (s.setLink p x).upsets = s.upsets := rfl
@[simp] theorem State.setLink_free (p : Nat) (x : Link) : (s.setLink p x).free = s.free := rfl
@[simp] theorem State.setLink_outbox (p : Nat) (x : Link) : (s.setLink p x).outbox = s.outbox := rfl

-- setDlnReg

@[simp] theorem State.setDlnReg_pending (off : Nat) (w : Word) : (s.setDlnReg off w).pending = s.pending := rfl
@[simp] theorem State.setDlnReg_powered (off : Nat) (w : Word) : (s.setDlnReg off w).powered = s.powered := rfl
@[simp] theorem State.setDlnReg_board (off : Nat) (w : Word) : (s.setDlnReg off w).board = s.board := rfl
@[simp] theorem State.setDlnReg_cores (off : Nat) (w : Word) : (s.setDlnReg off w).cores = s.cores := rfl
@[simp] theorem State.setDlnReg_mem (off : Nat) (w : Word) : (s.setDlnReg off w).mem = s.mem := rfl
@[simp] theorem State.setDlnReg_stale (off : Nat) (w : Word) : (s.setDlnReg off w).stale = s.stale := rfl
@[simp] theorem State.setDlnReg_poison (off : Nat) (w : Word) : (s.setDlnReg off w).poison = s.poison := rfl
@[simp] theorem State.setDlnReg_transit (off : Nat) (w : Word) : (s.setDlnReg off w).transit = s.transit := rfl
@[simp] theorem State.setDlnReg_vats (off : Nat) (w : Word) : (s.setDlnReg off w).vats = s.vats := rfl
@[simp] theorem State.setDlnReg_memRegs (off : Nat) (w : Word) : (s.setDlnReg off w).memRegs = s.memRegs := rfl
@[simp] theorem State.setDlnReg_ports (off : Nat) (w : Word) : (s.setDlnReg off w).ports = s.ports := rfl
@[simp] theorem State.setDlnReg_mbx (off : Nat) (w : Word) : (s.setDlnReg off w).mbx = s.mbx := rfl
@[simp] theorem State.setDlnReg_stage (off : Nat) (w : Word) : (s.setDlnReg off w).stage = s.stage := rfl
@[simp] theorem State.setDlnReg_mill (off : Nat) (w : Word) : (s.setDlnReg off w).mill = s.mill := rfl
@[simp] theorem State.setDlnReg_host (off : Nat) (w : Word) : (s.setDlnReg off w).host = s.host := rfl
@[simp] theorem State.setDlnReg_clk (off : Nat) (w : Word) : (s.setDlnReg off w).clk = s.clk := rfl
@[simp] theorem State.setDlnReg_err (off : Nat) (w : Word) : (s.setDlnReg off w).err = s.err := rfl
@[simp] theorem State.setDlnReg_jtag (off : Nat) (w : Word) : (s.setDlnReg off w).jtag = s.jtag := rfl
@[simp] theorem State.setDlnReg_waiters (off : Nat) (w : Word) : (s.setDlnReg off w).waiters = s.waiters := rfl
@[simp] theorem State.setDlnReg_upsets (off : Nat) (w : Word) : (s.setDlnReg off w).upsets = s.upsets := rfl
@[simp] theorem State.setDlnReg_free (off : Nat) (w : Word) : (s.setDlnReg off w).free = s.free := rfl
@[simp] theorem State.setDlnReg_outbox (off : Nat) (w : Word) : (s.setDlnReg off w).outbox = s.outbox := rfl

-- setChan

@[simp] theorem State.setChan_pending (ch : Nat) (x : Channel) : (s.setChan ch x).pending = s.pending := rfl
@[simp] theorem State.setChan_powered (ch : Nat) (x : Channel) : (s.setChan ch x).powered = s.powered := rfl
@[simp] theorem State.setChan_board (ch : Nat) (x : Channel) : (s.setChan ch x).board = s.board := rfl
@[simp] theorem State.setChan_cores (ch : Nat) (x : Channel) : (s.setChan ch x).cores = s.cores := rfl
@[simp] theorem State.setChan_mem (ch : Nat) (x : Channel) : (s.setChan ch x).mem = s.mem := rfl
@[simp] theorem State.setChan_stale (ch : Nat) (x : Channel) : (s.setChan ch x).stale = s.stale := rfl
@[simp] theorem State.setChan_poison (ch : Nat) (x : Channel) : (s.setChan ch x).poison = s.poison := rfl
@[simp] theorem State.setChan_transit (ch : Nat) (x : Channel) : (s.setChan ch x).transit = s.transit := rfl
@[simp] theorem State.setChan_vats (ch : Nat) (x : Channel) : (s.setChan ch x).vats = s.vats := rfl
@[simp] theorem State.setChan_memRegs (ch : Nat) (x : Channel) : (s.setChan ch x).memRegs = s.memRegs := rfl
@[simp] theorem State.setChan_ports (ch : Nat) (x : Channel) : (s.setChan ch x).ports = s.ports := rfl
@[simp] theorem State.setChan_dln (ch : Nat) (x : Channel) : (s.setChan ch x).dln = s.dln := rfl
@[simp] theorem State.setChan_stage (ch : Nat) (x : Channel) : (s.setChan ch x).stage = s.stage := rfl
@[simp] theorem State.setChan_mill (ch : Nat) (x : Channel) : (s.setChan ch x).mill = s.mill := rfl
@[simp] theorem State.setChan_host (ch : Nat) (x : Channel) : (s.setChan ch x).host = s.host := rfl
@[simp] theorem State.setChan_clk (ch : Nat) (x : Channel) : (s.setChan ch x).clk = s.clk := rfl
@[simp] theorem State.setChan_err (ch : Nat) (x : Channel) : (s.setChan ch x).err = s.err := rfl
@[simp] theorem State.setChan_jtag (ch : Nat) (x : Channel) : (s.setChan ch x).jtag = s.jtag := rfl
@[simp] theorem State.setChan_waiters (ch : Nat) (x : Channel) : (s.setChan ch x).waiters = s.waiters := rfl
@[simp] theorem State.setChan_upsets (ch : Nat) (x : Channel) : (s.setChan ch x).upsets = s.upsets := rfl
@[simp] theorem State.setChan_free (ch : Nat) (x : Channel) : (s.setChan ch x).free = s.free := rfl
@[simp] theorem State.setChan_outbox (ch : Nat) (x : Channel) : (s.setChan ch x).outbox = s.outbox := rfl

-- setMillReg

@[simp] theorem State.setMillReg_pending (off : Nat) (w : Word) : (s.setMillReg off w).pending = s.pending := rfl
@[simp] theorem State.setMillReg_powered (off : Nat) (w : Word) : (s.setMillReg off w).powered = s.powered := rfl
@[simp] theorem State.setMillReg_board (off : Nat) (w : Word) : (s.setMillReg off w).board = s.board := rfl
@[simp] theorem State.setMillReg_cores (off : Nat) (w : Word) : (s.setMillReg off w).cores = s.cores := rfl
@[simp] theorem State.setMillReg_mem (off : Nat) (w : Word) : (s.setMillReg off w).mem = s.mem := rfl
@[simp] theorem State.setMillReg_stale (off : Nat) (w : Word) : (s.setMillReg off w).stale = s.stale := rfl
@[simp] theorem State.setMillReg_poison (off : Nat) (w : Word) : (s.setMillReg off w).poison = s.poison := rfl
@[simp] theorem State.setMillReg_transit (off : Nat) (w : Word) : (s.setMillReg off w).transit = s.transit := rfl
@[simp] theorem State.setMillReg_vats (off : Nat) (w : Word) : (s.setMillReg off w).vats = s.vats := rfl
@[simp] theorem State.setMillReg_memRegs (off : Nat) (w : Word) : (s.setMillReg off w).memRegs = s.memRegs := rfl
@[simp] theorem State.setMillReg_ports (off : Nat) (w : Word) : (s.setMillReg off w).ports = s.ports := rfl
@[simp] theorem State.setMillReg_dln (off : Nat) (w : Word) : (s.setMillReg off w).dln = s.dln := rfl
@[simp] theorem State.setMillReg_mbx (off : Nat) (w : Word) : (s.setMillReg off w).mbx = s.mbx := rfl
@[simp] theorem State.setMillReg_stage (off : Nat) (w : Word) : (s.setMillReg off w).stage = s.stage := rfl
@[simp] theorem State.setMillReg_host (off : Nat) (w : Word) : (s.setMillReg off w).host = s.host := rfl
@[simp] theorem State.setMillReg_clk (off : Nat) (w : Word) : (s.setMillReg off w).clk = s.clk := rfl
@[simp] theorem State.setMillReg_err (off : Nat) (w : Word) : (s.setMillReg off w).err = s.err := rfl
@[simp] theorem State.setMillReg_jtag (off : Nat) (w : Word) : (s.setMillReg off w).jtag = s.jtag := rfl
@[simp] theorem State.setMillReg_waiters (off : Nat) (w : Word) : (s.setMillReg off w).waiters = s.waiters := rfl
@[simp] theorem State.setMillReg_upsets (off : Nat) (w : Word) : (s.setMillReg off w).upsets = s.upsets := rfl
@[simp] theorem State.setMillReg_free (off : Nat) (w : Word) : (s.setMillReg off w).free = s.free := rfl
@[simp] theorem State.setMillReg_outbox (off : Nat) (w : Word) : (s.setMillReg off w).outbox = s.outbox := rfl

-- setClkReg

@[simp] theorem State.setClkReg_pending (off : Nat) (w : Word) : (s.setClkReg off w).pending = s.pending := rfl
@[simp] theorem State.setClkReg_powered (off : Nat) (w : Word) : (s.setClkReg off w).powered = s.powered := rfl
@[simp] theorem State.setClkReg_board (off : Nat) (w : Word) : (s.setClkReg off w).board = s.board := rfl
@[simp] theorem State.setClkReg_cores (off : Nat) (w : Word) : (s.setClkReg off w).cores = s.cores := rfl
@[simp] theorem State.setClkReg_mem (off : Nat) (w : Word) : (s.setClkReg off w).mem = s.mem := rfl
@[simp] theorem State.setClkReg_stale (off : Nat) (w : Word) : (s.setClkReg off w).stale = s.stale := rfl
@[simp] theorem State.setClkReg_poison (off : Nat) (w : Word) : (s.setClkReg off w).poison = s.poison := rfl
@[simp] theorem State.setClkReg_transit (off : Nat) (w : Word) : (s.setClkReg off w).transit = s.transit := rfl
@[simp] theorem State.setClkReg_vats (off : Nat) (w : Word) : (s.setClkReg off w).vats = s.vats := rfl
@[simp] theorem State.setClkReg_memRegs (off : Nat) (w : Word) : (s.setClkReg off w).memRegs = s.memRegs := rfl
@[simp] theorem State.setClkReg_ports (off : Nat) (w : Word) : (s.setClkReg off w).ports = s.ports := rfl
@[simp] theorem State.setClkReg_dln (off : Nat) (w : Word) : (s.setClkReg off w).dln = s.dln := rfl
@[simp] theorem State.setClkReg_mbx (off : Nat) (w : Word) : (s.setClkReg off w).mbx = s.mbx := rfl
@[simp] theorem State.setClkReg_stage (off : Nat) (w : Word) : (s.setClkReg off w).stage = s.stage := rfl
@[simp] theorem State.setClkReg_mill (off : Nat) (w : Word) : (s.setClkReg off w).mill = s.mill := rfl
@[simp] theorem State.setClkReg_host (off : Nat) (w : Word) : (s.setClkReg off w).host = s.host := rfl
@[simp] theorem State.setClkReg_err (off : Nat) (w : Word) : (s.setClkReg off w).err = s.err := rfl
@[simp] theorem State.setClkReg_jtag (off : Nat) (w : Word) : (s.setClkReg off w).jtag = s.jtag := rfl
@[simp] theorem State.setClkReg_waiters (off : Nat) (w : Word) : (s.setClkReg off w).waiters = s.waiters := rfl
@[simp] theorem State.setClkReg_upsets (off : Nat) (w : Word) : (s.setClkReg off w).upsets = s.upsets := rfl
@[simp] theorem State.setClkReg_free (off : Nat) (w : Word) : (s.setClkReg off w).free = s.free := rfl
@[simp] theorem State.setClkReg_outbox (off : Nat) (w : Word) : (s.setClkReg off w).outbox = s.outbox := rfl

-- setErrReg

@[simp] theorem State.setErrReg_pending (off : Nat) (w : Word) : (s.setErrReg off w).pending = s.pending := rfl
@[simp] theorem State.setErrReg_powered (off : Nat) (w : Word) : (s.setErrReg off w).powered = s.powered := rfl
@[simp] theorem State.setErrReg_board (off : Nat) (w : Word) : (s.setErrReg off w).board = s.board := rfl
@[simp] theorem State.setErrReg_cores (off : Nat) (w : Word) : (s.setErrReg off w).cores = s.cores := rfl
@[simp] theorem State.setErrReg_mem (off : Nat) (w : Word) : (s.setErrReg off w).mem = s.mem := rfl
@[simp] theorem State.setErrReg_stale (off : Nat) (w : Word) : (s.setErrReg off w).stale = s.stale := rfl
@[simp] theorem State.setErrReg_poison (off : Nat) (w : Word) : (s.setErrReg off w).poison = s.poison := rfl
@[simp] theorem State.setErrReg_transit (off : Nat) (w : Word) : (s.setErrReg off w).transit = s.transit := rfl
@[simp] theorem State.setErrReg_vats (off : Nat) (w : Word) : (s.setErrReg off w).vats = s.vats := rfl
@[simp] theorem State.setErrReg_memRegs (off : Nat) (w : Word) : (s.setErrReg off w).memRegs = s.memRegs := rfl
@[simp] theorem State.setErrReg_ports (off : Nat) (w : Word) : (s.setErrReg off w).ports = s.ports := rfl
@[simp] theorem State.setErrReg_dln (off : Nat) (w : Word) : (s.setErrReg off w).dln = s.dln := rfl
@[simp] theorem State.setErrReg_mbx (off : Nat) (w : Word) : (s.setErrReg off w).mbx = s.mbx := rfl
@[simp] theorem State.setErrReg_stage (off : Nat) (w : Word) : (s.setErrReg off w).stage = s.stage := rfl
@[simp] theorem State.setErrReg_mill (off : Nat) (w : Word) : (s.setErrReg off w).mill = s.mill := rfl
@[simp] theorem State.setErrReg_host (off : Nat) (w : Word) : (s.setErrReg off w).host = s.host := rfl
@[simp] theorem State.setErrReg_clk (off : Nat) (w : Word) : (s.setErrReg off w).clk = s.clk := rfl
@[simp] theorem State.setErrReg_jtag (off : Nat) (w : Word) : (s.setErrReg off w).jtag = s.jtag := rfl
@[simp] theorem State.setErrReg_waiters (off : Nat) (w : Word) : (s.setErrReg off w).waiters = s.waiters := rfl
@[simp] theorem State.setErrReg_upsets (off : Nat) (w : Word) : (s.setErrReg off w).upsets = s.upsets := rfl
@[simp] theorem State.setErrReg_free (off : Nat) (w : Word) : (s.setErrReg off w).free = s.free := rfl
@[simp] theorem State.setErrReg_outbox (off : Nat) (w : Word) : (s.setErrReg off w).outbox = s.outbox := rfl

-- setPba

@[simp] theorem State.setPba_pending (v : Nat) (b : Bool) : (s.setPba v b).pending = s.pending := rfl
@[simp] theorem State.setPba_powered (v : Nat) (b : Bool) : (s.setPba v b).powered = s.powered := rfl
@[simp] theorem State.setPba_board (v : Nat) (b : Bool) : (s.setPba v b).board = s.board := rfl
@[simp] theorem State.setPba_cores (v : Nat) (b : Bool) : (s.setPba v b).cores = s.cores := rfl
@[simp] theorem State.setPba_mem (v : Nat) (b : Bool) : (s.setPba v b).mem = s.mem := rfl
@[simp] theorem State.setPba_stale (v : Nat) (b : Bool) : (s.setPba v b).stale = s.stale := rfl
@[simp] theorem State.setPba_poison (v : Nat) (b : Bool) : (s.setPba v b).poison = s.poison := rfl
@[simp] theorem State.setPba_transit (v : Nat) (b : Bool) : (s.setPba v b).transit = s.transit := rfl
@[simp] theorem State.setPba_vats (v : Nat) (b : Bool) : (s.setPba v b).vats = s.vats := rfl
@[simp] theorem State.setPba_memRegs (v : Nat) (b : Bool) : (s.setPba v b).memRegs = s.memRegs := rfl
@[simp] theorem State.setPba_ports (v : Nat) (b : Bool) : (s.setPba v b).ports = s.ports := rfl
@[simp] theorem State.setPba_dln (v : Nat) (b : Bool) : (s.setPba v b).dln = s.dln := rfl
@[simp] theorem State.setPba_mbx (v : Nat) (b : Bool) : (s.setPba v b).mbx = s.mbx := rfl
@[simp] theorem State.setPba_stage (v : Nat) (b : Bool) : (s.setPba v b).stage = s.stage := rfl
@[simp] theorem State.setPba_mill (v : Nat) (b : Bool) : (s.setPba v b).mill = s.mill := rfl
@[simp] theorem State.setPba_clk (v : Nat) (b : Bool) : (s.setPba v b).clk = s.clk := rfl
@[simp] theorem State.setPba_err (v : Nat) (b : Bool) : (s.setPba v b).err = s.err := rfl
@[simp] theorem State.setPba_jtag (v : Nat) (b : Bool) : (s.setPba v b).jtag = s.jtag := rfl
@[simp] theorem State.setPba_waiters (v : Nat) (b : Bool) : (s.setPba v b).waiters = s.waiters := rfl
@[simp] theorem State.setPba_upsets (v : Nat) (b : Bool) : (s.setPba v b).upsets = s.upsets := rfl
@[simp] theorem State.setPba_free (v : Nat) (b : Bool) : (s.setPba v b).free = s.free := rfl
@[simp] theorem State.setPba_outbox (v : Nat) (b : Bool) : (s.setPba v b).outbox = s.outbox := rfl

-- setStageReg

@[simp] theorem State.setStageReg_pending (a off : Nat) (w : Word) : (s.setStageReg a off w).pending = s.pending := rfl
@[simp] theorem State.setStageReg_powered (a off : Nat) (w : Word) : (s.setStageReg a off w).powered = s.powered := rfl
@[simp] theorem State.setStageReg_board (a off : Nat) (w : Word) : (s.setStageReg a off w).board = s.board := rfl
@[simp] theorem State.setStageReg_cores (a off : Nat) (w : Word) : (s.setStageReg a off w).cores = s.cores := rfl
@[simp] theorem State.setStageReg_mem (a off : Nat) (w : Word) : (s.setStageReg a off w).mem = s.mem := rfl
@[simp] theorem State.setStageReg_stale (a off : Nat) (w : Word) : (s.setStageReg a off w).stale = s.stale := rfl
@[simp] theorem State.setStageReg_poison (a off : Nat) (w : Word) : (s.setStageReg a off w).poison = s.poison := rfl
@[simp] theorem State.setStageReg_transit (a off : Nat) (w : Word) : (s.setStageReg a off w).transit = s.transit := rfl
@[simp] theorem State.setStageReg_vats (a off : Nat) (w : Word) : (s.setStageReg a off w).vats = s.vats := rfl
@[simp] theorem State.setStageReg_memRegs (a off : Nat) (w : Word) : (s.setStageReg a off w).memRegs = s.memRegs := rfl
@[simp] theorem State.setStageReg_ports (a off : Nat) (w : Word) : (s.setStageReg a off w).ports = s.ports := rfl
@[simp] theorem State.setStageReg_dln (a off : Nat) (w : Word) : (s.setStageReg a off w).dln = s.dln := rfl
@[simp] theorem State.setStageReg_mbx (a off : Nat) (w : Word) : (s.setStageReg a off w).mbx = s.mbx := rfl
@[simp] theorem State.setStageReg_mill (a off : Nat) (w : Word) : (s.setStageReg a off w).mill = s.mill := rfl
@[simp] theorem State.setStageReg_host (a off : Nat) (w : Word) : (s.setStageReg a off w).host = s.host := rfl
@[simp] theorem State.setStageReg_clk (a off : Nat) (w : Word) : (s.setStageReg a off w).clk = s.clk := rfl
@[simp] theorem State.setStageReg_err (a off : Nat) (w : Word) : (s.setStageReg a off w).err = s.err := rfl
@[simp] theorem State.setStageReg_jtag (a off : Nat) (w : Word) : (s.setStageReg a off w).jtag = s.jtag := rfl
@[simp] theorem State.setStageReg_waiters (a off : Nat) (w : Word) : (s.setStageReg a off w).waiters = s.waiters := rfl
@[simp] theorem State.setStageReg_upsets (a off : Nat) (w : Word) : (s.setStageReg a off w).upsets = s.upsets := rfl
@[simp] theorem State.setStageReg_free (a off : Nat) (w : Word) : (s.setStageReg a off w).free = s.free := rfl
@[simp] theorem State.setStageReg_outbox (a off : Nat) (w : Word) : (s.setStageReg a off w).outbox = s.outbox := rfl

variable (c : Core)

-- Core.setReg

@[simp] theorem Core.setReg_run (off : Nat) (w : Word) : (c.setReg off w).run = c.run := rfl
@[simp] theorem Core.setReg_pc (off : Nat) (w : Word) : (c.setReg off w).pc = c.pc := rfl
@[simp] theorem Core.setReg_g (off : Nat) (w : Word) : (c.setReg off w).g = c.g := rfl
@[simp] theorem Core.setReg_f (off : Nat) (w : Word) : (c.setReg off w).f = c.f := rfl
@[simp] theorem Core.setReg_v (off : Nat) (w : Word) : (c.setReg off w).v = c.v := rfl
@[simp] theorem Core.setReg_act (off : Nat) (w : Word) : (c.setReg off w).act = c.act := rfl
@[simp] theorem Core.setReg_dtab (off : Nat) (w : Word) : (c.setReg off w).dtab = c.dtab := rfl
@[simp] theorem Core.setReg_dtabAct (off : Nat) (w : Word) : (c.setReg off w).dtabAct = c.dtabAct := rfl
@[simp] theorem Core.setReg_itlb (off : Nat) (w : Word) : (c.setReg off w).itlb = c.itlb := rfl
@[simp] theorem Core.setReg_dtlb (off : Nat) (w : Word) : (c.setReg off w).dtlb = c.dtlb := rfl
@[simp] theorem Core.setReg_tlb (off : Nat) (w : Word) : (c.setReg off w).tlb = c.tlb := rfl
@[simp] theorem Core.setReg_htlb (off : Nat) (w : Word) : (c.setReg off w).htlb = c.htlb := rfl
@[simp] theorem Core.setReg_wcache (off : Nat) (w : Word) : (c.setReg off w).wcache = c.wcache := rfl
@[simp] theorem Core.setReg_lock (off : Nat) (w : Word) : (c.setReg off w).lock = c.lock := rfl
@[simp] theorem Core.setReg_tlbi (off : Nat) (w : Word) : (c.setReg off w).tlbi = c.tlbi := rfl
@[simp] theorem Core.setReg_l2 (off : Nat) (w : Word) : (c.setReg off w).l2 = c.l2 := rfl
@[simp] theorem Core.setReg_kept (off : Nat) (w : Word) : (c.setReg off w).kept = c.kept := rfl
@[simp] theorem Core.setReg_l1d (off : Nat) (w : Word) : (c.setReg off w).l1d = c.l1d := rfl
@[simp] theorem Core.setReg_hist (off : Nat) (w : Word) : (c.setReg off w).hist = c.hist := rfl
@[simp] theorem Core.setReg_btb (off : Nat) (w : Word) : (c.setReg off w).btb = c.btb := rfl
@[simp] theorem Core.setReg_ras (off : Nat) (w : Word) : (c.setReg off w).ras = c.ras := rfl
@[simp] theorem Core.setReg_dbgHalt (off : Nat) (w : Word) : (c.setReg off w).dbgHalt = c.dbgHalt := rfl
@[simp] theorem Core.setReg_dbgStep (off : Nat) (w : Word) : (c.setReg off w).dbgStep = c.dbgStep := rfl
@[simp] theorem Core.setReg_eng (off : Nat) (w : Word) : (c.setReg off w).eng = c.eng := rfl

-- Core.setActReg

@[simp] theorem Core.setActReg_run (off : Nat) (w : Word) : (c.setActReg off w).run = c.run := rfl
@[simp] theorem Core.setActReg_pc (off : Nat) (w : Word) : (c.setActReg off w).pc = c.pc := rfl
@[simp] theorem Core.setActReg_g (off : Nat) (w : Word) : (c.setActReg off w).g = c.g := rfl
@[simp] theorem Core.setActReg_f (off : Nat) (w : Word) : (c.setActReg off w).f = c.f := rfl
@[simp] theorem Core.setActReg_v (off : Nat) (w : Word) : (c.setActReg off w).v = c.v := rfl
@[simp] theorem Core.setActReg_regs (off : Nat) (w : Word) : (c.setActReg off w).regs = c.regs := rfl
@[simp] theorem Core.setActReg_dtab (off : Nat) (w : Word) : (c.setActReg off w).dtab = c.dtab := rfl
@[simp] theorem Core.setActReg_dtabAct (off : Nat) (w : Word) : (c.setActReg off w).dtabAct = c.dtabAct := rfl
@[simp] theorem Core.setActReg_itlb (off : Nat) (w : Word) : (c.setActReg off w).itlb = c.itlb := rfl
@[simp] theorem Core.setActReg_dtlb (off : Nat) (w : Word) : (c.setActReg off w).dtlb = c.dtlb := rfl
@[simp] theorem Core.setActReg_tlb (off : Nat) (w : Word) : (c.setActReg off w).tlb = c.tlb := rfl
@[simp] theorem Core.setActReg_htlb (off : Nat) (w : Word) : (c.setActReg off w).htlb = c.htlb := rfl
@[simp] theorem Core.setActReg_wcache (off : Nat) (w : Word) : (c.setActReg off w).wcache = c.wcache := rfl
@[simp] theorem Core.setActReg_lock (off : Nat) (w : Word) : (c.setActReg off w).lock = c.lock := rfl
@[simp] theorem Core.setActReg_tlbi (off : Nat) (w : Word) : (c.setActReg off w).tlbi = c.tlbi := rfl
@[simp] theorem Core.setActReg_l2 (off : Nat) (w : Word) : (c.setActReg off w).l2 = c.l2 := rfl
@[simp] theorem Core.setActReg_kept (off : Nat) (w : Word) : (c.setActReg off w).kept = c.kept := rfl
@[simp] theorem Core.setActReg_l1d (off : Nat) (w : Word) : (c.setActReg off w).l1d = c.l1d := rfl
@[simp] theorem Core.setActReg_hist (off : Nat) (w : Word) : (c.setActReg off w).hist = c.hist := rfl
@[simp] theorem Core.setActReg_btb (off : Nat) (w : Word) : (c.setActReg off w).btb = c.btb := rfl
@[simp] theorem Core.setActReg_ras (off : Nat) (w : Word) : (c.setActReg off w).ras = c.ras := rfl
@[simp] theorem Core.setActReg_dbgHalt (off : Nat) (w : Word) : (c.setActReg off w).dbgHalt = c.dbgHalt := rfl
@[simp] theorem Core.setActReg_dbgStep (off : Nat) (w : Word) : (c.setActReg off w).dbgStep = c.dbgStep := rfl
@[simp] theorem Core.setActReg_eng (off : Nat) (w : Word) : (c.setActReg off w).eng = c.eng := rfl

-- Core.setG

@[simp] theorem Core.setG_run (r : Nat) (w : Word) : (c.setG r w).run = c.run := rfl
@[simp] theorem Core.setG_pc (r : Nat) (w : Word) : (c.setG r w).pc = c.pc := rfl
@[simp] theorem Core.setG_f (r : Nat) (w : Word) : (c.setG r w).f = c.f := rfl
@[simp] theorem Core.setG_v (r : Nat) (w : Word) : (c.setG r w).v = c.v := rfl
@[simp] theorem Core.setG_regs (r : Nat) (w : Word) : (c.setG r w).regs = c.regs := rfl
@[simp] theorem Core.setG_act (r : Nat) (w : Word) : (c.setG r w).act = c.act := rfl
@[simp] theorem Core.setG_dtab (r : Nat) (w : Word) : (c.setG r w).dtab = c.dtab := rfl
@[simp] theorem Core.setG_dtabAct (r : Nat) (w : Word) : (c.setG r w).dtabAct = c.dtabAct := rfl
@[simp] theorem Core.setG_itlb (r : Nat) (w : Word) : (c.setG r w).itlb = c.itlb := rfl
@[simp] theorem Core.setG_dtlb (r : Nat) (w : Word) : (c.setG r w).dtlb = c.dtlb := rfl
@[simp] theorem Core.setG_tlb (r : Nat) (w : Word) : (c.setG r w).tlb = c.tlb := rfl
@[simp] theorem Core.setG_htlb (r : Nat) (w : Word) : (c.setG r w).htlb = c.htlb := rfl
@[simp] theorem Core.setG_wcache (r : Nat) (w : Word) : (c.setG r w).wcache = c.wcache := rfl
@[simp] theorem Core.setG_lock (r : Nat) (w : Word) : (c.setG r w).lock = c.lock := rfl
@[simp] theorem Core.setG_tlbi (r : Nat) (w : Word) : (c.setG r w).tlbi = c.tlbi := rfl
@[simp] theorem Core.setG_l2 (r : Nat) (w : Word) : (c.setG r w).l2 = c.l2 := rfl
@[simp] theorem Core.setG_kept (r : Nat) (w : Word) : (c.setG r w).kept = c.kept := rfl
@[simp] theorem Core.setG_l1d (r : Nat) (w : Word) : (c.setG r w).l1d = c.l1d := rfl
@[simp] theorem Core.setG_hist (r : Nat) (w : Word) : (c.setG r w).hist = c.hist := rfl
@[simp] theorem Core.setG_btb (r : Nat) (w : Word) : (c.setG r w).btb = c.btb := rfl
@[simp] theorem Core.setG_ras (r : Nat) (w : Word) : (c.setG r w).ras = c.ras := rfl
@[simp] theorem Core.setG_dbgHalt (r : Nat) (w : Word) : (c.setG r w).dbgHalt = c.dbgHalt := rfl
@[simp] theorem Core.setG_dbgStep (r : Nat) (w : Word) : (c.setG r w).dbgStep = c.dbgStep := rfl
@[simp] theorem Core.setG_eng (r : Nat) (w : Word) : (c.setG r w).eng = c.eng := rfl

-- Core.setF

@[simp] theorem Core.setF_run (r : Nat) (w : Word) : (c.setF r w).run = c.run := rfl
@[simp] theorem Core.setF_pc (r : Nat) (w : Word) : (c.setF r w).pc = c.pc := rfl
@[simp] theorem Core.setF_g (r : Nat) (w : Word) : (c.setF r w).g = c.g := rfl
@[simp] theorem Core.setF_v (r : Nat) (w : Word) : (c.setF r w).v = c.v := rfl
@[simp] theorem Core.setF_regs (r : Nat) (w : Word) : (c.setF r w).regs = c.regs := rfl
@[simp] theorem Core.setF_act (r : Nat) (w : Word) : (c.setF r w).act = c.act := rfl
@[simp] theorem Core.setF_dtab (r : Nat) (w : Word) : (c.setF r w).dtab = c.dtab := rfl
@[simp] theorem Core.setF_dtabAct (r : Nat) (w : Word) : (c.setF r w).dtabAct = c.dtabAct := rfl
@[simp] theorem Core.setF_itlb (r : Nat) (w : Word) : (c.setF r w).itlb = c.itlb := rfl
@[simp] theorem Core.setF_dtlb (r : Nat) (w : Word) : (c.setF r w).dtlb = c.dtlb := rfl
@[simp] theorem Core.setF_tlb (r : Nat) (w : Word) : (c.setF r w).tlb = c.tlb := rfl
@[simp] theorem Core.setF_htlb (r : Nat) (w : Word) : (c.setF r w).htlb = c.htlb := rfl
@[simp] theorem Core.setF_wcache (r : Nat) (w : Word) : (c.setF r w).wcache = c.wcache := rfl
@[simp] theorem Core.setF_lock (r : Nat) (w : Word) : (c.setF r w).lock = c.lock := rfl
@[simp] theorem Core.setF_tlbi (r : Nat) (w : Word) : (c.setF r w).tlbi = c.tlbi := rfl
@[simp] theorem Core.setF_l2 (r : Nat) (w : Word) : (c.setF r w).l2 = c.l2 := rfl
@[simp] theorem Core.setF_kept (r : Nat) (w : Word) : (c.setF r w).kept = c.kept := rfl
@[simp] theorem Core.setF_l1d (r : Nat) (w : Word) : (c.setF r w).l1d = c.l1d := rfl
@[simp] theorem Core.setF_hist (r : Nat) (w : Word) : (c.setF r w).hist = c.hist := rfl
@[simp] theorem Core.setF_btb (r : Nat) (w : Word) : (c.setF r w).btb = c.btb := rfl
@[simp] theorem Core.setF_ras (r : Nat) (w : Word) : (c.setF r w).ras = c.ras := rfl
@[simp] theorem Core.setF_dbgHalt (r : Nat) (w : Word) : (c.setF r w).dbgHalt = c.dbgHalt := rfl
@[simp] theorem Core.setF_dbgStep (r : Nat) (w : Word) : (c.setF r w).dbgStep = c.dbgStep := rfl
@[simp] theorem Core.setF_eng (r : Nat) (w : Word) : (c.setF r w).eng = c.eng := rfl

-- reads after updates

theorem State.core_setCore (k j : Nat) (x : Core) : (s.setCore k x).core j = if j = k then x else s.core j := Tab.get_set _ _ _ _ _

@[simp] theorem State.core_setCore_self (k : Nat) (x : Core) : (s.setCore k x).core k = x := by simp [State.core_setCore]

theorem State.core_updCore (k j : Nat) (h : Core → Core) : (s.updCore k h).core j = if j = k then h (s.core k) else s.core j :=
  State.core_setCore s k j _

@[simp] theorem State.core_updCore_self (k : Nat) (h : Core → Core) : (s.updCore k h).core k = h (s.core k) := by simp [State.core_updCore]

theorem State.core_setG (k j : Nat) (r : Reg) (w : Word) : (s.setG k r w).core j = if j = k then (s.core k).setG r.toNat w else s.core j :=
  State.core_updCore s k j _

@[simp] theorem State.core_setG_self (k : Nat) (r : Reg) (w : Word) : (s.setG k r w).core k = (s.core k).setG r.toNat w := by simp [State.core_setG]

theorem State.core_setF (k j : Nat) (r : Reg) (w : Word) : (s.setF k r w).core j = if j = k then (s.core k).setF r.toNat w else s.core j :=
  State.core_updCore s k j _

@[simp] theorem State.core_setF_self (k : Nat) (r : Reg) (w : Word) : (s.setF k r w).core k = (s.core k).setF r.toNat w := by simp [State.core_setF]

theorem Core.greg_setG (r q : Nat) (w : Word) : (c.setG r w).greg q = if q = r then w else c.greg q := Tab.get_set _ _ _ _ _
@[simp] theorem Core.greg_setG_self (r : Nat) (w : Word) : (c.setG r w).greg r = w := Tab.get_set_self _ _ _ _
theorem Core.freg_setF (r q : Nat) (w : Word) : (c.setF r w).freg q = if q = r then w else c.freg q := Tab.get_set _ _ _ _ _
@[simp] theorem Core.freg_setF_self (r : Nat) (w : Word) : (c.setF r w).freg r = w := Tab.get_set_self _ _ _ _

/-- A register map read after a write of one register, each register with its own reset value. -/
theorem regs_get_set (f : Nat → Word) (t : Regs) (r q : Nat) (w : Word) :
    Tab.get (f q) (Tab.set (f r) t r w) q = if q = r then w else Tab.get (f q) t q := by
  by_cases h : q = r
  · subst h; simp
  · rw [if_neg h, Tab.get_set_ne _ _ _ _ h]

theorem Core.reg_setReg (r q : Nat) (w : Word) : (c.setReg r w).reg q = if q = r then w else c.reg q := regs_get_set coreReset c.regs r q w
@[simp] theorem Core.reg_setReg_self (r : Nat) (w : Word) : (c.setReg r w).reg r = w := by simp [Core.reg_setReg]
theorem Core.actReg_setActReg (r q : Nat) (w : Word) : (c.setActReg r w).actReg q = if q = r then w else c.actReg q :=
  regs_get_set coreReset c.act r q w
@[simp] theorem Core.greg_setReg (r q : Nat) (w : Word) : (c.setReg r w).greg q = c.greg q := rfl
@[simp] theorem Core.freg_setReg (r q : Nat) (w : Word) : (c.setReg r w).freg q = c.freg q := rfl
@[simp] theorem Core.actReg_setReg (r q : Nat) (w : Word) : (c.setReg r w).actReg q = c.actReg q := rfl
@[simp] theorem Core.freg_setG (r q : Nat) (w : Word) : (c.setG r w).freg q = c.freg q := rfl
@[simp] theorem Core.reg_setG (r q : Nat) (w : Word) : (c.setG r w).reg q = c.reg q := rfl
@[simp] theorem Core.actReg_setG (r q : Nat) (w : Word) : (c.setG r w).actReg q = c.actReg q := rfl
@[simp] theorem Core.greg_setF (r q : Nat) (w : Word) : (c.setF r w).greg q = c.greg q := rfl
@[simp] theorem Core.reg_setF (r q : Nat) (w : Word) : (c.setF r w).reg q = c.reg q := rfl
@[simp] theorem Core.actReg_setF (r q : Nat) (w : Word) : (c.setF r w).actReg q = c.actReg q := rfl

theorem State.greg_setG (k j : Nat) (r q : Reg) (w : Word) : (s.setG k r w).greg j q = if j = k ∧ q = r then w else s.greg j q := by
  unfold State.greg
  by_cases hj : j = k
  · subst hj
    simp only [State.core_setG_self, Core.greg_setG, true_and]
    by_cases hq : q = r
    · simp [hq]
    · have : q.toNat ≠ r.toNat := fun h => hq (BitVec.eq_of_toNat_eq h)
      simp [hq, this]
  · simp [State.core_setG, hj]

@[simp] theorem State.greg_setG_self (k : Nat) (r : Reg) (w : Word) : (s.setG k r w).greg k r = w := by simp [State.greg_setG]

theorem State.freg_setF (k j : Nat) (r q : Reg) (w : Word) : (s.setF k r w).freg j q = if j = k ∧ q = r then w else s.freg j q := by
  unfold State.freg
  by_cases hj : j = k
  · subst hj
    simp only [State.core_setF_self, Core.freg_setF, true_and]
    by_cases hq : q = r
    · simp [hq]
    · have : q.toNat ≠ r.toNat := fun h => hq (BitVec.eq_of_toNat_eq h)
      simp [hq, this]
  · simp [State.core_setF, hj]

@[simp] theorem State.freg_setF_self (k : Nat) (r : Reg) (w : Word) : (s.setF k r w).freg k r = w := by simp [State.freg_setF]

theorem State.creg_setCreg (k j off o : Nat) (w : Word) : (s.setCreg k off w).creg j o = if j = k ∧ o = off then w else s.creg j o := by
  unfold State.creg State.setCreg
  by_cases hj : j = k
  · subst hj; simp [Core.reg_setReg]
  · simp [State.core_updCore, hj]

@[simp] theorem State.vat_setVat_self (k : Nat) (x : Vat) : (s.setVat k x).vat k = x := Tab.get_set_self _ _ _ _
theorem State.vat_setVat (k j : Nat) (x : Vat) : (s.setVat k x).vat j = if j = k then x else s.vat j := Tab.get_set _ _ _ _ _
@[simp] theorem State.port_setPort_self (k : Nat) (x : Port) : (s.setPort k x).port k = x := Tab.get_set_self _ _ _ _
theorem State.port_setPort (k j : Nat) (x : Port) : (s.setPort k x).port j = if j = k then x else s.port j := Tab.get_set _ _ _ _ _
@[simp] theorem State.link_setLink_self (k : Nat) (x : Link) : (s.setLink k x).link k = x := Tab.get_set_self _ _ _ _
theorem State.link_setLink (k j : Nat) (x : Link) : (s.setLink k x).link j = if j = k then x else s.link j := Tab.get_set _ _ _ _ _
@[simp] theorem State.chan_setChan_self (k : Nat) (x : Channel) : (s.setChan k x).chan k = x := Tab.get_set_self _ _ _ _
theorem State.chan_setChan (k j : Nat) (x : Channel) : (s.setChan k x).chan j = if j = k then x else s.chan j := Tab.get_set _ _ _ _ _
theorem State.millReg_setMillReg (r q : Nat) (w : Word) : (s.setMillReg r w).millReg q = if q = r then w else s.millReg q :=
  regs_get_set Machine.millReset s.mill.regs r q w
theorem State.clkReg_setClkReg (r q : Nat) (w : Word) : (s.setClkReg r w).clkReg q = if q = r then w else s.clkReg q :=
  regs_get_set Machine.clkReset s.clk r q w
theorem State.dlnReg_setDlnReg (r q : Nat) (w : Word) : (s.setDlnReg r w).dlnReg q = if q = r then w else s.dlnReg q :=
  regs_get_set Machine.dlnReset s.dln.regs r q w
theorem State.errReg_setErrReg (r q : Nat) (w : Word) : (s.setErrReg r w).errReg q = if q = r then w else s.errReg q := Tab.get_set _ _ _ _ _

-- accessors that an update of another block leaves alone

@[simp] theorem State.core_setVat (k j : Nat) (x : Vat) : (s.setVat k x).core j = s.core j := rfl
@[simp] theorem State.core_setPort (k j : Nat) (x : Port) : (s.setPort k x).core j = s.core j := rfl
@[simp] theorem State.core_setLink (k j : Nat) (x : Link) : (s.setLink k x).core j = s.core j := rfl
@[simp] theorem State.core_setChan (k j : Nat) (x : Channel) : (s.setChan k x).core j = s.core j := rfl
@[simp] theorem State.core_setMillReg (r j : Nat) (w : Word) : (s.setMillReg r w).core j = s.core j := rfl
@[simp] theorem State.core_setClkReg (r j : Nat) (w : Word) : (s.setClkReg r w).core j = s.core j := rfl
@[simp] theorem State.core_setDlnReg (r j : Nat) (w : Word) : (s.setDlnReg r w).core j = s.core j := rfl
@[simp] theorem State.core_setErrReg (r j : Nat) (w : Word) : (s.setErrReg r w).core j = s.core j := rfl
@[simp] theorem State.core_setPba (v j : Nat) (b : Bool) : (s.setPba v b).core j = s.core j := rfl
@[simp] theorem State.vat_updCore (k j : Nat) (h : Core → Core) : (s.updCore k h).vat j = s.vat j := rfl
@[simp] theorem State.port_updCore (k j : Nat) (h : Core → Core) : (s.updCore k h).port j = s.port j := rfl
@[simp] theorem State.link_updCore (k j : Nat) (h : Core → Core) : (s.updCore k h).link j = s.link j := rfl
@[simp] theorem State.chan_updCore (k j : Nat) (h : Core → Core) : (s.updCore k h).chan j = s.chan j := rfl
@[simp] theorem State.millReg_updCore (k q : Nat) (h : Core → Core) : (s.updCore k h).millReg q = s.millReg q := rfl
@[simp] theorem State.clkReg_updCore (k q : Nat) (h : Core → Core) : (s.updCore k h).clkReg q = s.clkReg q := rfl
@[simp] theorem State.dlnReg_updCore (k q : Nat) (h : Core → Core) : (s.updCore k h).dlnReg q = s.dlnReg q := rfl

/-- Reading a core of a state whose `cores` are another's. -/
theorem State.core_congr (t : State) (h : t.cores = s.cores) (k : Nat) : t.core k = s.core k := by unfold State.core; rw [h]

/-- An update read back: a listed key through `f`, any other key as the default, which `f` must keep. -/
theorem Tab.get_update {β : Type} [DecidableEq β] (d : β) (t : Tab β) (f : Nat → β → β) (hd : ∀ k, f k d = d) (j : Nat) :
    Tab.get d (Tab.update d t f) j = f j (Tab.get d t j) := by
  unfold Tab.update
  have key : ∀ (l : List Nat) (u : Tab β),
      Tab.get d (l.foldl (fun u k => Tab.set d u k (f k (Tab.get d t k))) u) j =
        if j ∈ l then f j (Tab.get d t j) else Tab.get d u j := by
    intro l
    induction l with
    | nil => intro u; simp
    | cons a l ih =>
      intro u
      rw [List.foldl_cons, ih]
      by_cases hj : j ∈ l
      · simp [hj]
      · by_cases ha : j = a
        · subst ha; simp
        · simp [hj, ha, Tab.get_set]
  rw [key _ t]
  split
  · rfl
  · rename_i hj
    have : ∀ (t : Tab β), j ∉ t.map Prod.fst → Tab.get d t j = d := by
      intro t
      induction t with
      | nil => intro _; rfl
      | cons p t ih =>
        intro h
        obtain ⟨a, v⟩ := p
        simp only [List.map_cons, List.mem_cons, not_or] at h
        simp only [Tab.get]
        rw [if_neg (fun e => h.1 e.symm)]
        exact ih h.2
    rw [this t hj, hd]

end Sys2Proof.Machine
end

