-- ==== Sys2Proof/Laws/Book.lean ====
section
/-! SUPPORT. What the shared operations change: logging, interrupts, counters and retirement leave everything but bookkeeping alone. -/

namespace Sys2Proof.Machine

theorem SameCore.rfl' (c : Core) : SameCore c c := ⟨rfl, fun _ _ => rfl⟩

theorem SameCore.trans {a b c : Core} (h : SameCore a b) (g : SameCore b c) : SameCore a c := by
  refine ⟨?_, fun off ho => (g.2 off ho).trans (h.2 off ho)⟩
  have h1 := h.1
  have g1 := g.1
  cases a; cases b; cases c
  simp_all

/-- A core's register outside the bookkeeping ones is its own. -/
theorem SameCore.reg {c d : Core} (h : SameCore c d) {off : Nat} (ho : off ∉ bookRegs) : d.reg off = c.reg off := h.2 off ho

theorem SameCore.eq {c d : Core} (h : SameCore c d) : d = { c with regs := d.regs } := by
  have h1 := h.1
  cases c; cases d
  simp_all

theorem SameCore.setRegs (c : Core) (r : Regs) (h : ∀ off, off ∉ bookRegs → Tab.get (coreReset off) r off = c.reg off) :
    SameCore c { c with regs := r } := ⟨rfl, h⟩

theorem Book.refl (s : State) : Book s s :=
  ⟨fun _ => SameCore.rfl' _, ⟨s.host.pba, rfl⟩, rfl, Nat.le_refl _, fun _ _ => rfl, rfl, ⟨[], (List.append_nil _).symm⟩, rfl⟩

theorem Book.trans {s t u : State} (h : Book s t) (g : Book t u) : Book s u := by
  obtain ⟨hc, ⟨p, hp⟩, hr, hw, he, hf, ⟨l, hl⟩, hs⟩ := h
  obtain ⟨gc, ⟨q, gq⟩, gr, gw, ge, gf, ⟨m, gm⟩, gs⟩ := g
  refine ⟨fun k => (hc k).trans (gc k), ⟨q, by rw [gq, hp]⟩, gr.trans hr, Nat.le_trans hw gw,
    fun off ho => (ge off ho).trans (he off ho), gf.trans hf, ⟨l ++ m, by rw [gm, hl, List.append_assoc]⟩, ?_⟩
  cases s; cases t; cases u
  simp_all

/-- A change of one core's bookkeeping registers. -/
theorem Book.ofRegs (s : State) (k : Nat) (f : Core → Core) (h : SameCore (s.core k) (f (s.core k))) : Book s (s.updCore k f) := by
  refine ⟨fun j => ?_, ⟨s.host.pba, rfl⟩, rfl, Nat.le_refl _, fun _ _ => rfl, rfl, ⟨[], (List.append_nil _).symm⟩, rfl⟩
  rw [State.core_updCore]
  split
  · rename_i hj; rw [hj]; exact h
  · exact SameCore.rfl' _

theorem Book.core {s t : State} (h : Book s t) (k : Nat) : SameCore (s.core k) (t.core k) := h.1 k

theorem Book.mem {s t : State} (h : Book s t) : t.mem = s.mem := by
  have := h.2.2.2.2.2.2.2
  cases s; cases t; simp_all

theorem Book.greg {s t : State} (h : Book s t) (k : Nat) (r : Reg) : t.greg k r = s.greg k r := by
  unfold State.greg Core.greg; rw [(h.core k).eq]

theorem Book.freg {s t : State} (h : Book s t) (k : Nat) (r : Reg) : t.freg k r = s.freg k r := by
  unfold State.freg Core.freg; rw [(h.core k).eq]

theorem Book.pc {s t : State} (h : Book s t) (k : Nat) : (t.core k).pc = (s.core k).pc := by rw [(h.core k).eq]

theorem Book.v {s t : State} (h : Book s t) (k : Nat) : (t.core k).v = (s.core k).v := by rw [(h.core k).eq]

theorem Book.eng {s t : State} (h : Book s t) (k : Nat) : (t.core k).eng = (s.core k).eng := by rw [(h.core k).eq]

theorem Book.creg {s t : State} (h : Book s t) (k : Nat) {off : Nat} (ho : off ∉ bookRegs) : t.creg k off = s.creg k off := (h.core k).2 off ho

-- outputs

theorem State.book_setPba (s : State) (v : Nat) (b : Bool) : Book s (s.setPba v b) :=
  ⟨fun _ => SameCore.rfl' _, ⟨_, rfl⟩, rfl, Nat.le_refl _, fun _ _ => rfl, rfl, ⟨[], (List.append_nil _).symm⟩, rfl⟩

theorem State.book_out (s : State) (m : OutMsg) : Book s (s.out m) := by
  unfold State.out
  split
  · exact Book.refl s
  · exact ⟨fun _ => SameCore.rfl' _, ⟨s.host.pba, rfl⟩, rfl, Nat.le_refl _, fun _ _ => rfl, rfl, ⟨[m], rfl⟩, rfl⟩

theorem State.book_msix (s : State) (v : Nat) : Book s (s.msix v) := by
  unfold State.msix
  split
  · split
    · exact s.book_setPba v true
    · exact s.book_out _
  · exact Book.refl s

-- interrupts and the log

theorem Core.same_setReg (c : Core) (off : Nat) (w : Word) (h : off ∈ bookRegs) : SameCore c (c.setReg off w) := by
  refine ⟨rfl, fun q hq => ?_⟩
  rw [Core.reg_setReg, if_neg]
  rintro rfl
  exact hq h

theorem State.book_irq (s : State) (k src : Nat) : Book s (s.irq k src) := by
  unfold State.irq
  split
  · exact Book.ofRegs s k _ (Core.same_setReg _ _ _ (by decide))
  · exact Book.refl s

/-- A change of the error log's entries and counters. -/
theorem Book.ofErr (s : State) (e : Err) (hr : e.rptr = s.err.rptr) (hw : s.err.wptr ≤ e.wptr)
    (he : ∀ off, off ≠ ERR_CFG → Tab.get 0 e.regs off = s.errReg off) (hf : Tab.get 0 e.regs ERR_CFG ||| 0x20000 = s.errReg ERR_CFG ||| 0x20000) :
    Book s { s with err := e } :=
  ⟨fun _ => SameCore.rfl' _, ⟨s.host.pba, rfl⟩, hr, hw, he, hf, ⟨[], (List.append_nil _).symm⟩, rfl⟩

/-- Such a change, with what ALERT_N shows of it. -/
theorem State.book_setErr (s : State) (e : Err) (hr : e.rptr = s.err.rptr) (hw : s.err.wptr ≤ e.wptr)
    (he : ∀ off, off ≠ ERR_CFG → Tab.get 0 e.regs off = s.errReg off) (hf : Tab.get 0 e.regs ERR_CFG ||| 0x20000 = s.errReg ERR_CFG ||| 0x20000) :
    Book s (s.setErr e) := by
  unfold State.setErr
  split
  · exact Book.ofErr s e hr hw he hf
  · exact (Book.ofErr s e hr hw he hf).trans (State.book_out _ _)

theorem State.book_lose (s : State) : Book s (s.setErr s.err.lose.1) := by
  unfold Err.lose
  cases hs : satInc s.err.lost 1 with
  | mk n top =>
    cases top
    · exact s.book_setErr _ rfl (Nat.le_refl _) (fun _ _ => rfl) rfl
    · refine s.book_setErr _ rfl (Nat.le_refl _) (fun off ho => ?_) ?_
      · exact Tab.get_set_ne _ _ _ _ ho
      · simp only [if_true, Tab.get_set_self, State.errReg]
        rw [BitVec.or_assoc, BitVec.or_self]

theorem State.book_logOnce (s : State) (code agent unit addr detail : Nat) : Book s (s.logOnce code agent unit addr detail).1 := by
  unfold State.logOnce
  split
  · exact s.book_setErr _ rfl (Nat.le_refl _) (fun _ _ => rfl) rfl
  · split
    · exact s.book_lose
    · exact (s.book_setErr (s.err.push s.cycle code agent (sevOf code) unit addr detail) rfl (Nat.le_succ _) (fun _ _ => rfl) rfl).trans
        (State.book_msix _ 4)

theorem State.book_log (s : State) (code agent unit addr detail : Nat) : Book s (s.log code agent unit addr detail) := by
  unfold State.log
  have h := s.book_logOnce code agent unit addr detail
  generalize s.logOnce code agent unit addr detail = p at h
  obtain ⟨t, new⟩ := p
  simp only
  split
  · exact h.trans ((t.book_irq _ _).trans (State.book_logOnce _ _ _ _ _ _))
  · exact h

theorem State.book_counterOvf (s : State) (g off : Nat) : Book s (s.counterOvf g off) := by
  unfold State.counterOvf
  split
  · exact (s.book_irq _ _).trans (State.book_log _ _ _ _ _ _)
  · exact Book.refl s

-- counters

theorem bump_other (regs : Regs) (off ovf b n q : Nat) (d : Word) (h1 : q ≠ off) (h2 : q ≠ ovf) :
    Tab.get d (bump regs off ovf b n).1 q = Tab.get d regs q := by
  unfold bump
  cases hs : satInc (Tab.get 0 regs off).toNat n with
  | mk v top =>
    cases top
    · simp [Tab.get_set_ne _ _ _ _ h1]
    · simp [Tab.get_set_ne _ _ _ _ h1, Tab.get_set_ne _ _ _ _ h2]

theorem State.book_bumpCore (s : State) (k g off ovf b n : Nat) (h1 : off ∈ bookRegs) (h2 : ovf ∈ bookRegs) : Book s (s.bumpCore k g off ovf b n) := by
  unfold State.bumpCore
  have hb : ∀ q d, q ∉ bookRegs → Tab.get d (bump (s.core k).regs off ovf b n).1 q = Tab.get d (s.core k).regs q := by
    intro q d hq
    exact bump_other _ _ _ _ _ _ _ (by rintro rfl; exact hq h1) (by rintro rfl; exact hq h2)
  generalize bump (s.core k).regs off ovf b n = p at hb
  obtain ⟨regs, new⟩ := p
  simp only
  have hu : Book s (s.updCore k (fun c => { c with regs := regs })) :=
    Book.ofRegs s k _ (SameCore.setRegs _ _ (fun q hq => hb q _ hq))
  split
  · exact hu.trans (State.book_counterOvf _ _ _)
  · exact hu

theorem State.book_bumpHol (s : State) (k i n : Nat) (h : i < 3) : Book s (s.bumpHol k i n) := by
  unfold State.bumpHol
  refine s.book_bumpCore k 0 _ _ i n ?_ (by decide)
  match i, h with
  | 0, _ => decide
  | 1, _ => decide
  | 2, _ => decide

/-- A fold of bookkeeping is bookkeeping. -/
theorem Book.foldl {α : Type} (l : List α) (f : State → α → State) (h : ∀ t, ∀ a ∈ l, Book t (f t a)) (s : State) : Book s (l.foldl f s) := by
  induction l generalizing s with
  | nil => exact Book.refl s
  | cons a l ih => exact (h s a (by simp)).trans (ih (fun t b hb => h t b (by simp [hb])) _)

/-- Counting an event is bookkeeping. -/
theorem State.book_event (s : State) (k code n : Nat) : Book s (s.event k code n) := by
  unfold State.event
  refine Book.foldl _ _ (fun t i hi => ?_) s
  have hi : i < 4 := by simpa using hi
  split
  · refine State.book_bumpCore _ _ _ _ _ _ _ ?_ (by decide)
    match i, hi with
    | 0, _ => decide
    | 1, _ => decide
    | 2, _ => decide
    | 3, _ => decide
  · exact Book.refl t

/-- Retirement moves the pc, ends a single step, and counts (R218, R474). -/
theorem State.book_retire (s : State) (k : Nat) (target : Option Word) (uops : Nat) :
    Book (goAt s k (target.getD ((s.core k).pc + 4))) (s.retire k target uops) := State.book_event _ _ _ _

end Sys2Proof.Machine
end

