-- ==== Sys2Proof/Laws/Instr.lean ====
section
/-! SUPPORT. The frame around an instruction, once: a core that is ready runs the body, and the instruction retires, takes its exception, or waits. -/

namespace Sys2Proof.Machine

variable {s u : State} {k : Nat}

theorem Ready.lt (h : Ready s k) : k < 40 := h.1

/-- Squashing the wet sheets changes a core's headbox, and counters. -/
theorem State.book_squash (s : State) (k : Nat) : Book (s.updCore k (fun c => { c with eng := c.eng.squash.1 })) (s.squash k) := by
  unfold State.squash
  cases h : (s.core k).eng.squash with
  | mk e p =>
    obtain ⟨n, r⟩ := p
    have hu : s.updCore k (fun c => { c with eng := c.eng.squash.1 }) = s.updCore k (fun c => { c with eng := e }) := by
      unfold State.updCore; simp only [h]
    rw [hu]
    simp only
    split
    · exact State.book_event _ _ _ _
    · exact (State.book_bumpHol _ k 2 r (by decide)).trans (State.book_event _ _ _ _)

/-- A core that is ready fetches its word, and the body runs in the state that this leaves. -/
theorem State.runFrame_ready {f : State → Res Unit} (hr : Ready s k) :
    s.runFrame k f = (match f (begun s k) with
      | .ok t _ => t
      | .exc t code sub addr => (t.forgetReads k).takeException k code sub false addr (s.core k).pc none
      | .wait => s
      | .remote t reqs => reqs.foldl (fun t (d, a, n) => t.sendRemote k false d a n [] none) t) := by
  obtain ⟨-, hc, ⟨v, hf⟩, ht⟩ := hr
  simp only [begun, hf] at ht
  simp only [State.runFrame, hc, hf, begun, ht, Bool.not_true, Bool.false_eq_true, if_false] <;> rfl

/-- An uncorrectable error of logic comes to light with the fetch: the body does not run (R463). -/
theorem State.runFrame_doomed {f : State → Res Unit} (hc : s.canRun k = true) (hf : s.fetch k (s.core k).pc = .ok u) (ht : (begun s k).tripped = true) :
    s.runFrame k f = begun s k := by
  simp only [begun, hf] at ht
  simp only [State.runFrame, hc, hf, begun, ht, Bool.not_true, Bool.false_eq_true, if_false, if_true]

/-- A body that answers retires. -/
theorem State.runs_ok {f : State → Res (Option Word)} {target : Option Word} (hr : Ready s k) (hb : f (begun s k) = .ok u target) :
    ∃ t, s.instr k f = .next t ∧ Book (goAt u k (target.getD ((u.core k).pc + 4))) t := by
  refine ⟨u.retire k target 1, ?_, u.book_retire k target 1⟩
  simp [State.instr, hr.lt, State.runInstr, State.runFrame_ready hr, hb, Res.bind]

/-- A body's exception is taken at the instruction. -/
theorem State.instr_exc {f : State → Res (Option Word)} {code sub : Nat} {addr : Word} (hr : Ready s k) (hb : f (begun s k) = .exc u code sub addr) :
    s.instr k f = .next ((u.forgetReads k).takeException k code sub false addr (s.core k).pc none) := by
  simp [State.instr, hr.lt, State.runInstr, State.runFrame_ready hr, hb, Res.bind]

/-- A body that raises an exception before it has changed anything. -/
theorem State.instr_raise {f : State → Res (Option Word)} {code sub : Nat} {addr : Word} (hr : Ready s k)
    (hb : f (begun s k) = .exc (begun s k) code sub addr) : s.instr k f = .next (excAt s k code sub addr) := State.instr_exc hr hb

/-- A body that waits changes nothing. -/
theorem State.instr_wait {f : State → Res (Option Word)} (hr : Ready s k) (hb : f (begun s k) = .wait) : s.instr k f = .next s := by
  simp [State.instr, hr.lt, State.runInstr, State.runFrame_ready hr, hb, Res.bind]

/-- An instruction of a core that exists answers a next state. -/
theorem State.instr_next (f : State → Res (Option Word)) (hk : k < 40) : s.instr k f = .next (s.runInstr k f) := by simp [State.instr, hk]

/-- An instruction of a core that cannot run waits. -/
theorem State.instr_idle (f : State → Res (Option Word)) (hk : k < 40) (hc : s.canRun k = false) : s.instr k f = .next s := by
  simp [State.instr, hk, State.runInstr, State.runFrame, hc]

end Sys2Proof.Machine
end

