-- ==== Sys2Proof/Laws/Memory.lean ====
section
/-! SUPPORT. The shared memory operations of the die, once each: what they do to memory, and that every one of them keeps the canonical form of every memory. -/

namespace Sys2Proof.Machine

variable {s : State}

/-- Stack memory and the vat windows, and every felt, are in canonical form. -/
def State.memWf (s : State) : Prop := Mem.wf s.mem = true ∧ ∀ k, Mem.wf (s.core k).eng.felt = true

theorem reset_memWf : State.reset.memWf := ⟨rfl, fun _ => rfl⟩

/-- A command with its bookkeeping keeps the form. -/
theorem State.memWf_book {t : State} (h : Book s t) (hw : s.memWf) : t.memWf :=
  ⟨by rw [h.mem]; exact hw.1, fun k => by rw [h.eng]; exact hw.2 k⟩

/-- A write of one core's record that leaves its felt alone keeps the form. -/
theorem State.memWf_updCore (k : Nat) (f : Core → Core) (hf : ∀ c : Core, Mem.wf c.eng.felt = true → Mem.wf (f c).eng.felt = true)
    (hw : s.memWf) : (s.updCore k f).memWf := by
  refine ⟨hw.1, fun j => ?_⟩
  unfold State.updCore State.setCore State.core
  simp only [Tab.get_set]
  split
  · exact hf _ (hw.2 k)
  · exact hw.2 j

theorem State.memWf_setPort (p : Nat) (q : Port) (hw : s.memWf) : (s.setPort p q).memWf := hw
theorem State.memWf_setVat (c : Nat) (v : Vat) (hw : s.memWf) : (s.setVat c v).memWf := hw
theorem State.memWf_log (code agent unit addr detail : Nat) (hw : s.memWf) : (s.log code agent unit addr detail).memWf :=
  State.memWf_book (State.book_log _ _ _ _ _ _) hw
theorem State.memWf_event (k code n : Nat) (hw : s.memWf) : (s.event k code n).memWf := State.memWf_book (State.book_event _ _ _ _) hw

theorem State.memWf_bumpPort (p i n : Nat) (hw : s.memWf) : (s.bumpPort p i n).memWf := by
  unfold State.bumpPort
  split
  split
  · exact State.memWf_book (State.book_counterOvf _ _ _) hw
  · exact hw

theorem State.memWf_bumpVat (c i n : Nat) (hw : s.memWf) : (s.bumpVat c i n).memWf := by
  unfold State.bumpVat
  split
  split
  · exact State.memWf_book (State.book_counterOvf _ _ _) hw
  · exact hw

/-- A table of cores changed everywhere by a function that leaves felts alone. -/
theorem State.felt_update (f : Nat → Core → Core) (hf : ∀ k c, (f k c).eng.felt = c.eng.felt) (j : Nat) :
    (Tab.get {} (Tab.update {} s.cores f) j).eng.felt = (s.core j).eng.felt := by
  unfold Tab.update State.core
  have h : ∀ (ks : List Nat) (u : Tab Core), (Tab.get {} u j).eng.felt = (Tab.get {} s.cores j).eng.felt →
      (Tab.get ({} : Core) (ks.foldl (fun u k => Tab.set {} u k (f k (Tab.get {} s.cores k))) u) j).eng.felt = (Tab.get {} s.cores j).eng.felt := by
    intro ks
    induction ks with
    | nil => exact fun u h => h
    | cons k ks ih =>
      intro u hu
      refine ih _ ?_
      simp only [Tab.get_set]
      split
      · rename_i e; subst e; exact hf _ _
      · exact hu
  exact h _ _ rfl

/-- Dropping copies of a line changes caches only. -/
theorem State.memWf_dropCopies (line : Nat) (keep : Option Nat) (hw : s.memWf) : (s.dropCopies line keep).memWf := by
  refine ⟨hw.1, fun j => ?_⟩
  have h := s.felt_update (fun k c => if keep = some k then c else { c with l2 := Tab.set none c.l2 line none }) (fun k c => by split <;> rfl) j
  exact h.symm ▸ hw.2 j

/-- Copies that differ from memory are kept in the caches only. -/
theorem State.memWf_keepCopies (line : Nat) (hw : s.memWf) : (s.keepCopies line).memWf := by
  refine ⟨hw.1, fun j => ?_⟩
  have h := s.felt_update (fun _ c => if (Tab.get none c.l2 line).isSome then { c with kept := keepOne c.kept line (s.memLine line) } else c)
    (fun k c => by split <;> rfl) j
  exact h.symm ▸ hw.2 j

theorem State.memWf_poisonLine (line : Nat) (hw : s.memWf) : (s.poisonLine line).memWf := State.memWf_keepCopies line hw

theorem State.memWf_ite {p : Prop} [Decidable p] {a b : State} (ha : a.memWf) (hb : b.memWf) : (if p then a else b).memWf := by
  split
  · exact ha
  · exact hb

-- errors of the storage

theorem State.memWf_stackUe (pa code detail : Nat) (hw : s.memWf) : (s.stackUe pa code detail).memWf := by
  unfold State.stackUe State.portUe
  refine State.memWf_log _ _ _ _ _ (State.memWf_bumpPort _ _ _ ?_)
  unfold State.errAddr
  split
  · exact hw
  · exact hw

theorem State.memWf_stackEcc (pa : Nat) (e : Ecc) (scrub : Nat) (hw : s.memWf) : (s.stackEcc pa e scrub).memWf := by
  have hp : (s.poisonStack (pa / 64)).memWf := by
    unfold State.poisonStack
    split
    · exact hw
    · exact State.memWf_keepCopies _ hw
  unfold State.stackEcc
  cases e
  · exact hw
  · refine State.memWf_bumpPort _ _ _ ?_
    unfold State.errAddr
    split
    · exact hw
    · exact hw
  · exact State.memWf_stackUe _ _ _ hp
  · exact State.memWf_stackUe _ _ _ hp

theorem State.memWf_stackWrite (line : Nat) (hw : s.memWf) : (s.stackWrite line).1.memWf := by
  unfold State.stackWrite
  split
  · exact hw
  · simp only
    split
    · exact State.memWf_stackUe _ _ _ hw
    · exact hw

theorem State.memWf_loseLine (line : Nat) (hw : s.memWf) : (s.loseLine line).memWf := by
  unfold State.loseLine
  split
  · have h := State.memWf_keepCopies line hw
    exact ⟨Mem.wf_writeN _ _ _ h.1, h.2⟩
  · exact hw

theorem State.memWf_stackPut (line : Nat) (hw : s.memWf) : (s.stackPut line).memWf := by
  unfold State.stackPut
  split
  · have h := State.memWf_stackWrite line hw
    split
    rename_i t ok e
    rw [e] at h
    split
    · exact h
    · exact State.memWf_loseLine _ h
  · exact hw

/-- A fold of operations that keep the form keeps it. -/
theorem State.memWf_foldl {α : Type} (l : List α) (f : State → α → State) (h : ∀ t a, t.memWf → (f t a).memWf) (hw : s.memWf) : (l.foldl f s).memWf := by
  induction l generalizing s with
  | nil => exact hw
  | cons a l ih => exact ih (h s a hw)

/-- What the read-out of a modified line finds keeps the form. -/
theorem State.memWf_readOut (c w line : Nat) (hw : s.memWf) : (s.readOut c w line).1.memWf := by
  unfold State.readOut
  split
  · exact hw
  · rename_i rest _
    have h : State.memWf { s with upsets := rest } := hw
    simp only
    split
    · exact State.memWf_setVat _ _ (State.memWf_log _ _ _ _ _ (State.memWf_bumpVat _ _ _ h))
    · exact State.memWf_log _ _ _ _ _ (State.memWf_poisonLine line h)
    · exact h

theorem State.memWf_disableWay (c sl w : Nat) (hw : s.memWf) : (s.disableWay c sl w).memWf := by
  unfold State.disableWay
  simp only
  split
  · exact hw
  · exact State.memWf_log _ _ _ _ _ (State.memWf_foldl _ _ (fun t a h => State.memWf_stackPut a (State.memWf_readOut c w a h)) hw)

theorem State.memWf_wayError (c sl w pa : Nat) (ue : Bool) (hw : s.memWf) : (s.wayError c sl w pa ue).memWf := by
  unfold State.wayError
  cases ue
  · have h := State.memWf_log logSramCe 0xFF (c * 32 + sl) pa 1 (State.memWf_bumpVat c 3 1 hw)
    simp only [Bool.false_eq_true, if_false]
    split
    · exact State.memWf_disableWay _ _ _ h
    · exact h
  · simp only [if_true]
    exact State.memWf_disableWay _ _ _ (State.memWf_log _ _ _ _ _ (State.memWf_ite (State.memWf_poisonLine _ hw) hw))

theorem State.memWf_vatError (c pa : Nat) (ue : Bool) (hw : s.memWf) : (s.vatError c pa ue).memWf := by
  unfold State.vatError
  split
  · exact State.memWf_wayError _ _ _ _ _ hw
  · split
    · split
      · exact State.memWf_wayError _ _ _ _ _ hw
      · exact hw
    · exact hw

theorem State.memWf_coreSram (k store pa : Nat) (ce : Bool) (mark : Eng → Eng) (hm : ∀ e, (mark e).felt = e.felt) (hw : s.memWf) :
    (s.coreSram k store pa ce mark).memWf := by
  unfold State.coreSram
  split
  · exact State.memWf_log _ _ _ _ _ hw
  · exact State.memWf_log _ _ _ _ _ (State.memWf_updCore _ _ (fun c h => by simp only [hm]; exact h) hw)

theorem State.memWf_l2Error (k line : Nat) (ce : Bool) (hw : s.memWf) : (s.l2Error k line ce).memWf := by
  unfold State.l2Error
  split
  · exact hw
  · exact State.memWf_log _ _ _ _ _ (State.memWf_updCore _ _ (fun _ h => h) hw)
  · split
    · exact State.memWf_log _ _ _ _ _ hw
    · exact State.memWf_log _ _ _ _ _ (State.memWf_poisonLine _ hw)

theorem State.memWf_logicError (unit : Nat) (ce : Bool) (hw : s.memWf) : (s.logicError unit ce).memWf := by
  unfold State.logicError
  exact State.memWf_ite (State.memWf_log _ _ _ _ _ hw) (State.memWf_log _ _ _ _ _ hw)

/-- An error of any unit keeps the form. -/
theorem State.memWf_upset (l : Loc) (e : Ecc) (hw : s.memWf) : (s.upset l e).memWf := by
  unfold State.upset
  cases l
  · exact State.memWf_ite hw (State.memWf_coreSram _ _ _ _ _ (fun _ => rfl) hw)
  · exact State.memWf_ite hw (State.memWf_coreSram _ _ _ _ _ (fun _ => rfl) hw)
  · exact State.memWf_ite hw (State.memWf_coreSram _ _ _ _ _ (fun _ => rfl) hw)
  · exact State.memWf_ite hw (State.memWf_coreSram _ _ _ _ _ (fun _ => rfl) hw)
  · exact State.memWf_ite hw (State.memWf_l2Error _ _ _ hw)
  · exact State.memWf_ite hw (State.memWf_log _ _ _ _ _ hw)
  · exact State.memWf_ite hw (State.memWf_log _ _ _ _ _ hw)
  · exact State.memWf_ite hw (State.memWf_log _ _ _ _ _ (State.memWf_updCore _ _ (fun _ h => h) hw))
  · exact State.memWf_ite hw (State.memWf_vatError _ _ _ hw)
  · exact State.memWf_ite hw (State.memWf_stackEcc _ _ _ hw)
  · exact State.memWf_ite hw hw
  · exact State.memWf_ite hw (State.memWf_logicError _ _ hw)
  · exact State.memWf_ite hw (State.memWf_logicError _ _ hw)
  · exact State.memWf_ite hw (State.memWf_logicError _ _ hw)

/-- What the storage reports for a read keeps the form. -/
theorem State.memWf_strike (p : Loc → Bool) (hw : s.memWf) : (s.strike p).memWf := by
  unfold State.strike
  split
  · exact hw
  · exact State.memWf_foldl _ _ (fun t x h => State.memWf_upset x.1 x.2 h) hw

/-- While no error is to come, a read reports none. -/
theorem State.strike_none (p : Loc → Bool) (h : s.upsets = []) : s.strike p = s := by simp [State.strike, h]

/-- While no error is to come, a stack takes every write. -/
theorem State.stackWrite_none (line : Nat) (h : s.upsets = []) : s.stackWrite line = (s, true) := by simp [State.stackWrite, h, takeUpsets]

-- coherent writes

/-- A modified line that goes to stack memory keeps the form. -/
theorem State.memWf_writeBack (line : Nat) (hw : s.memWf) : (s.writeBack line).memWf := by
  unfold State.writeBack
  split
  · exact State.memWf_ite (State.memWf_disableWay _ _ _ (State.memWf_stackPut _ (State.memWf_readOut _ _ _ hw)))
      (State.memWf_stackPut _ (State.memWf_readOut _ _ _ hw))
  · exact State.memWf_stackPut _ (State.memWf_strike _ hw)

theorem State.memWf_recall (line : Nat) (hw : s.memWf) : (s.recall line).memWf :=
  show (State.dropVatCopies _ _).memWf from State.memWf_dropCopies line none (State.memWf_writeBack line hw)

/-- A write at the point of coherence keeps the form. -/
theorem State.memWf_writeLine (pa : Nat) (bs : List Byte) (hw : s.memWf) : (s.writeLine pa bs).memWf := by
  have h := State.memWf_recall (pa / 64) hw
  unfold State.writeLine
  simp only
  generalize s.recall (pa / 64) = t at h
  split
  · have h2 : (if decide (pa % 64 = 0 ∧ bs.length = 64) = true then t else t.strike (fun l => decide (l = .stack (pa / 64)))).memWf := by
      split
      · exact h
      · exact State.memWf_strike _ h
    have h3 := State.memWf_stackWrite (pa / 64) h2
    exact State.memWf_ite h3 ⟨Mem.wf_writeN _ _ _ h3.1, h3.2⟩
  · exact ⟨Mem.wf_writeN _ _ _ h.1, h.2⟩

/-- A write to a felt writes those bytes there. -/
theorem State.writeFelt_felt (s : State) (k off : Nat) (bs : List Byte) (j : Nat) :
    ((s.writeFelt k off bs).core j).eng.felt = if j = k then (s.core k).eng.felt.writeN off bs else (s.core j).eng.felt := by
  unfold State.writeFelt State.updCore State.setCore State.core
  simp only [Tab.get_set]
  split <;> rfl

theorem State.memWf_writeFelt (k off : Nat) (bs : List Byte) (hw : s.memWf) : (s.writeFelt k off bs).memWf := by
  refine ⟨hw.1, fun j => ?_⟩
  rw [State.writeFelt_felt]
  split
  · exact Mem.wf_writeN _ _ _ (hw.2 k)
  · exact hw.2 j

/-- Every branch of a write by line keeps the form. -/
theorem State.memWf_physWriteLine (ag pa : Nat) (bs : List Byte) (hw : s.memWf) : (s.physWriteLine ag pa bs).memWf := by
  unfold State.physWriteLine
  split
  · exact State.memWf_writeLine pa bs hw
  · split
    · split
      · exact State.memWf_log _ _ _ _ _ hw
      · exact State.memWf_writeLine pa bs hw
    · exact hw
  · split
    · exact State.memWf_writeFelt _ _ bs hw
    · exact hw
  · exact hw

/-- The write of any bytes by an agent that caches nothing keeps the canonical form of every memory. -/
theorem State.memWf_physWrite (ag pa : Nat) (bs : List Byte) (hw : s.memWf) : (s.physWrite ag pa bs).memWf := by
  unfold State.physWrite
  generalize bs.length / 64 + 2 = n
  induction n generalizing s pa bs with
  | zero => exact hw
  | succ n ih =>
    unfold State.physWriteLines
    split
    · exact hw
    · exact ih _ _ (State.memWf_physWriteLine ag pa _ hw)

-- lines and directories

/-- Making room in a set writes modified lines back, and keeps the form. -/
theorem State.memWf_makeRoom (c sl set n : Nat) (hw : s.memWf) : (State.makeRoom c sl set n s).1.memWf := by
  induction n generalizing s with
  | zero => exact hw
  | succ n ih =>
    unfold State.makeRoom
    split
    · exact hw
    · rename_i w _
      cases Tab.get none (s.vat c).lines (wayKey sl set w) with
      | none =>
        simp only
        split
        · exact ih hw
        · exact hw
      | some old =>
        simp only
        split <;> split
        · exact ih (State.memWf_writeBack _ hw)
        · exact State.memWf_writeBack _ hw
        · exact ih hw
        · exact hw

theorem State.memWf_allocate (c line : Nat) (dirty : Bool) (copy : Option (List Byte × Bool)) (hw : s.memWf) : (s.allocate c line dirty copy).1.memWf := by
  unfold State.allocate
  simp only
  split
  · exact hw
  · have h := State.memWf_makeRoom c (lineSlice line) (lineSet line) 16 hw
    split
    · rename_i e; rw [e] at h; exact h
    · rename_i e; rw [e] at h; exact h

theorem State.memWf_placeDirty (k c line : Nat) (hw : s.memWf) : (s.placeDirty k c line).memWf := by
  unfold State.placeDirty
  split
  · split
    · exact State.memWf_log _ _ _ _ _ hw
    · exact hw
  · split
    · have h := State.memWf_allocate c line true none hw
      split
      · rename_i e; rw [e] at h; exact h
      · rename_i e; rw [e] at h; exact State.memWf_stackPut _ h
    · exact State.memWf_stackPut _ hw

theorem State.memWf_presence (line : Nat) (hw : s.memWf) : (s.presence line).memWf := by
  unfold State.presence
  split
  · exact hw
  · have h := State.memWf_strike (fun x => decide (x = .directory (8 + (s.portOf (line * 64)).1))) hw
    simp only
    split
    · exact State.memWf_recall _ h
    · exact h

theorem State.memWf_directory (k line : Nat) (hw : s.memWf) : (s.directory k line).memWf := by
  unfold State.directory
  simp only
  split
  · exact hw
  · have h1 := State.memWf_strike (fun x => decide (x = .directory (clusterOf k))) hw
    generalize s.strike (fun x => decide (x = .directory (clusterOf k))) = u at h1
    split
    · rename_i l _
      have h2 := State.memWf_strike (fun x => (List.range 9).any (fun i => decide (x = .l2 (9 * clusterOf k + i) l))) h1
      generalize u.strike (fun x => (List.range 9).any (fun i => decide (x = .l2 (9 * clusterOf k + i) l))) = v at h2
      have h : State.memWf { v with
          free := v.free + 1,
          cores := Tab.update {} v.cores (fun j x => if j < 36 ∧ clusterOf j = clusterOf k then { x with l2 := Tab.set none x.l2 l none } else x) } := by
        refine ⟨h2.1, fun j => ?_⟩
        have e := v.felt_update (fun j x => if j < 36 ∧ clusterOf j = clusterOf k then { x with l2 := Tab.set none x.l2 l none } else x)
          (fun j x => by split <;> rfl) j
        exact e.symm ▸ h2.2 j
      split
      · exact State.memWf_placeDirty _ _ _ h
      · exact h
    · exact h1

theorem State.memWf_l1dLoad (k line : Nat) (hw : s.memWf) : (s.l1dLoad k line).memWf :=
  State.memWf_updCore _ _ (fun _ h => h) (State.memWf_ite hw (State.memWf_event k 0x06 1 hw))

theorem State.memWf_cacheLoad (k pa : Nat) (data : Bool) (hw : s.memWf) : (s.cacheLoad k pa data).memWf := by
  have h0 := State.memWf_presence (pa / 64) (State.memWf_directory k (pa / 64) hw)
  have h1 : ∀ f : Core → Core, (∀ c, (f c).eng = c.eng) → (((s.directory k (pa / 64)).presence (pa / 64)).updCore k f).memWf :=
    fun f hf => State.memWf_updCore _ _ (fun c h => by rw [hf]; exact h) h0
  unfold State.cacheLoad
  simp only
  split
  · exact State.memWf_ite (State.memWf_l1dLoad _ _ hw) hw
  · refine State.memWf_ite (State.memWf_setVat _ _ ?_) ?_ <;>
      exact State.memWf_ite (State.memWf_event _ _ _ (State.memWf_l1dLoad _ _ (h1 _ (fun _ => rfl)))) (State.memWf_event _ _ _ (h1 _ (fun _ => rfl)))

/-- A core's cacheable store keeps the canonical form of every memory. -/
theorem State.memWf_cacheStore (k pa : Nat) (bs : List Byte) (hw : s.memWf) : (s.cacheStore k pa bs).memWf := by
  have h1 : (((s.cacheLoad k pa true).dropCopies (pa / 64) (some k)).dropVatCopies (pa / 64)).memWf :=
    State.memWf_dropCopies (pa / 64) (some k) (State.memWf_cacheLoad k pa true hw)
  unfold State.cacheStore
  simp only
  generalize ((s.cacheLoad k pa true).dropCopies (pa / 64) (some k)).dropVatCopies (pa / 64) = t at h1
  have h2 : State.memWf ((if t.target pa = .stack then { t with stale := Tab.set none t.stale (pa / 64) (some (t.stackLine (pa / 64))) } else t).updCore k
      (fun c => { c with l2 := Tab.set none c.l2 (pa / 64) (some true), kept := Tab.set none c.kept (pa / 64) none })) := by
    refine State.memWf_updCore _ _ (fun _ h => h) ?_
    split <;> exact h1
  generalize (State.updCore _ k _) = u at h2
  have h3 : ∀ o : Option (List Byte × Bool), State.memWf (match o with
      | some (old, bad) => { u with mem := u.mem.writeN (pa / 64 * 64) old, poison := Tab.set false u.poison (pa / 64) bad }
      | none => u) := by
    intro o
    cases o
    · exact h2
    · exact ⟨Mem.wf_writeN _ _ _ h2.1, h2.2⟩
  have h4 := h3 (Tab.get none ((s.cacheLoad k pa true).core k).kept (pa / 64))
  split
  · exact ⟨Mem.wf_writeN _ _ _ h4.1, h4.2⟩
  · exact ⟨Mem.wf_writeN _ _ _ h4.1, h4.2⟩

end Sys2Proof.Machine
end

