-- ==== Sys2Proof/Laws/Wire.lean ====
section
/-! SUPPORT. What travels on a link (R363): a block that a port builds has a good CRC. -/

namespace Sys2Proof.Machine

/-- The CRC covers every byte of a block but its own. -/
theorem blockBytes_crc (b : LinkBlock) (c : BitVec 64) : blockBytes { b with crc := c } = blockBytes b := rfl

/-- A block that a port builds has the CRC that its receiver computes (R363). -/
theorem blockOf_crcOk (seq : Nat) (fs : List Flit) (ack nak : Option Nat) (credits : List Nat) (park : Bool) :
    (blockOf seq fs ack nak credits park).crcOk = true := beq_self_eq_true _

/-- A block with another CRC fails. -/
theorem crcOk_ne (b : LinkBlock) (c : BitVec 64) (h : b.crcOk = true) (hc : c ≠ b.crc) : LinkBlock.crcOk { b with crc := c } = false := by
  have h' : b.crc = crc64 (blockBytes b) := eq_of_beq h
  have e : LinkBlock.crcOk { b with crc := c } = (c == crc64 (blockBytes b)) := rfl
  rw [e, ← h']
  exact beq_false_of_ne hc

end Sys2Proof.Machine
end

