-- ==== Sys2Proof/Tests/Slice0.lean ====
section
/-! SUPPORT. The tests of the model's author: a named witness for the hypotheses of every statement, the spec's worked examples, at most two small tests of a command, and the well-formedness smoke test with a term for each check. Expected values come from the spec or by hand from it. -/
open Sys2Proof Sys2Proof.Machine
namespace Sys2Proof.Tests

-- One theorem at a time: side by side, their evaluations would ask for more threads than a compile's memory limit holds.
set_option Elab.async false

/-- A running core at `pc`, otherwise as after reset. -/
def coreAt (pc : Word) : Core := { run := .running, pc := pc }

/-- Core 0 runs at 0x1000 and core 39 at 0x2000; the die is otherwise as after reset. -/
def s0 : State := { State.reset with powered := true, cores := [(0, coreAt 0x1000), (39, coreAt 0x2000)] }

/-- The same with core 0 in user mode. -/
def user0 : State := s0.updCore 0 (fun c => c.setReg CORE_ESTATE 0)

/-- The same with some G registers of core 0 written. -/
def withG (l : List (Nat × Word)) : State := s0.updCore 0 (fun c => l.foldl (fun c p => c.setG p.1 p.2) c)

theorem pcAligned_s0 : PcAligned s0 := by
  intro k
  simp only [State.core, s0, Tab.get]
  split
  · decide
  · split <;> decide

/-- What Ready asks, as a test. -/
def ready (s : State) (k : Nat) : Bool := decide (k < 40) && s.canRun k && (match s.fetch k (s.core k).pc with | .ok _ => true | _ => false) && !(begun s k).tripped

theorem ready_of {s : State} {k : Nat} (h : ready s k = true) : Ready s k := by
  simp only [ready, Bool.and_eq_true, decide_eq_true_eq, Bool.not_eq_true'] at h
  obtain ⟨⟨⟨hk, hc⟩, hf⟩, ht⟩ := h
  refine ⟨hk, hc, ?_, ht⟩
  cases hu : s.fetch k (s.core k).pc with
  | ok u => exact ⟨u, rfl⟩
  | _ => simp [hu] at hf

theorem ready_s0 : Ready s0 0 ∧ Ready s0 39 := ⟨ready_of (by decide +kernel), ready_of (by decide +kernel)⟩

theorem witness_integer_ops : Ready s0 0 ∧ Ready s0 39 := ready_s0

theorem witness_integer_division :
    let s := withG [(1, BitVec.intMin 64), (2, BitVec.allOnes 64)]
    Ready s 0 ∧ (begun s 0).greg 0 1 = BitVec.intMin 64 ∧ (begun s 0).greg 0 2 = BitVec.allOnes 64 := ⟨ready_of (by decide +kernel), by decide +kernel⟩

theorem witness_control_transfers :
    Ready s0 0 ∧ PcAligned s0 ∧ ((begun s0 0).greg 0 3 + (4 : BitVec 16).signExtend 64) &&& 3 = 0 ∧
    ((begun s0 0).greg 0 3 + (2 : BitVec 16).signExtend 64) &&& 3 ≠ 0 := ⟨ready_s0.1, pcAligned_s0, by decide +kernel⟩

theorem witness_pcAligned : PcAligned s0 ∧ ∃ t, step { s0 with pending := [.j 0 0x1FFFFF] } = .next t := ⟨pcAligned_s0, _, rfl⟩

/-- A store of core 0 to another device is open. -/
def openStore : State := { s0 with dln := { s0.dln with reqs := [⟨1, 0, true, 5, 0, 8, none, none, false, false⟩] } }

/-- Translation of core 0 is staged on, and its hollander holds a descriptor. -/
def stagedXlat : State := s0.updCore 0 (fun c =>
  { c.setReg CORE_TCTL 0x3801 with eng := { c.eng with hol := [⟨0, 0, 0, 0, false, false, [], .unread, 0, 0, none, none, []⟩] } })

theorem witness_system_control :
    Ready s0 0 ∧ ((begun s0 0).core 0).sup = true ∧ (begun s0 0).storesOpen 0 = false ∧ Ready openStore 0 ∧ (begun openStore 0).storesOpen 0 = true ∧
    Ready user0 0 ∧ ((begun user0 0).core 0).sup = false ∧
    Ready stagedXlat 0 ∧ (((begun stagedXlat 0).core 0).translationStaged && ((begun stagedXlat 0).core 0).eng.untranslated) = true ∧
    (((begun s0 0).core 0).translationStaged && ((begun s0 0).core 0).eng.untranslated) = false := by
  refine ⟨ready_s0.1, ?_, ?_, ready_of ?_, ?_, ready_of ?_, ?_, ready_of ?_, ?_, ?_⟩ <;> decide +kernel

theorem witness_exception_entry : 0x11 < 256 ∧ 0xFF < 256 ∧ ∀ u ∈ some 31, u < 32 := by decide

/-- Interrupts 0x10 and 0x14 of core 0 are pending and enabled, and its engines have a fault recorded. -/
def asked : State := s0.updCore 0 (fun c =>
  (((c.setReg CORE_ESTATE 7).setReg CORE_IPEND 0x110000).setReg CORE_IEN 0x510000).setReg ENG_FREC0 0x8000000000000000)

theorem witness_interrupts :
    (0 : Nat) < 40 ∧ asked.atBoundary 0 = true ∧ (asked.core 0).ie = true ∧ (0x14 : Nat) < 34 ∧
    (asked.ipend 0 &&& asked.creg 0 CORE_IEN).getLsbD 0x14 = true ∧
    (∀ j, j < 34 → 0x14 < j → (asked.ipend 0 &&& asked.creg 0 CORE_IEN).getLsbD j = false) ∧
    (asked.core 0).ee = true ∧ (asked.core 0).frecValid = true ∧
    (∀ j, j < 34 → (s0.ipend 0 &&& s0.creg 0 CORE_IEN).getLsbD j = false) := by decide +kernel

theorem witness_user_control_registers :
    Ready user0 0 ∧ ((begun user0 0).core 0).sup = false ∧ (0x1FF : BitVec 16).toNat * 8 < 0x1000 ∧ 0x1FFF < (0x400 : BitVec 16).toNat * 8 ∧
    0x1000 ≤ (0x3FF : BitVec 16).toNat * 8 ∧ (0x3FF : BitVec 16).toNat * 8 ≤ 0x1FFF ∧ numericMode ((0x3FF : BitVec 16).toNat * 8) = false := by
  refine ⟨ready_of ?_, ?_⟩ <;> decide +kernel

theorem witness_control_register_instructions :
    Ready s0 0 ∧ ((begun s0 0).core 0).sup = true ∧ rowAt coreMap 0xFFF8 = none ∧ plainReg 0 CORE_EVEC = true ∧ plainReg 39 CORE_IEN = true ∧
    (rowAt coreMap CORE_EVEC).isSome = true := by
  refine ⟨ready_s0.1, ?_⟩; decide +kernel

/-- One summary is queued at core 0. -/
def summed : State := s0.updCore 0 (fun c => { c with eng := { c.eng with sums := [⟨3, true, 5, 6, 7⟩] } })

/-- An earlier sheet of core 0 can still post a summary. -/
def summing : State := s0.updCore 0 (fun c => { c with eng := { c.eng with calDone := [⟨0, 0, 0, 0, 0, {}, 0, none, none, some ⟨0, false, 0, 0, 0⟩, none, 0, [], none⟩] } })

theorem witness_summaries :
    Ready summed 0 ∧ (0 : Nat) < 36 ∧ (28 : Reg).toNat ≤ 28 ∧ ((begun summed 0).core 0).eng.sums = [⟨3, true, 5, 6, 7⟩] ∧
    Ready summing 0 ∧ ((begun summing 0).core 0).eng.sums = [] ∧ ((begun summing 0).core 0).eng.sumPending = true ∧
    Ready s0 0 ∧ ((begun s0 0).core 0).eng.sums = [] ∧ ((begun s0 0).core 0).eng.sumPending = false ∧ (State.reset.core 35).modeWritable = true := by
  refine ⟨ready_of ?_, ?_, ?_, ?_, ready_of ?_, ?_, ?_, ready_s0.1, ?_⟩ <;> decide +kernel

/-- A load or store at Gb + disp. -/
def mop (t b : Reg) (am : BitVec 3) (disp : BitVec 13) : MOp := ⟨t, b, am, disp, .clean⟩

/-- A place in memory for the loads and stores of core 0. -/
def atV : State := withG [(2, 0x8000)]

/-- The state in which core 0's instruction executes there. -/
def atV' : State := begun atV 0

theorem witness_loads_and_stores :
    Ready atV 0 ∧ mopBad (mop 1 2 0 8) = false ∧ (mop 1 2 0 8).am = 0 ∧ mopBad (mop 1 2 5 0x300) = false ∧ mopAddr (mop 1 2 0 8) (atV'.core 0) 8 = 0x8008 ∧
    PlainLine atV' 0 0x8008 8 .load (asUser atV' 0 true) 0x8008 0 ∧ PlainLine atV' 0 0x8008 8 .store (asUser atV' 0 true) 0x8008 0 ∧ atV'.openStores 0 < 64 := by
  refine ⟨ready_of ?_, ?_, ?_, ?_, ?_, ⟨?_, ?_, ?_, ?_, ?_, ?_, ?_, ?_, ?_, ?_⟩, ⟨?_, ?_, ?_, ?_, ?_, ?_, ?_, ?_, ?_, ?_⟩, ?_⟩ <;> decide +kernel

/-- The access answers. -/
def answers {α : Type} : Res α → Bool
  | .ok _ _ => true
  | _ => false

theorem answers_ok {α : Type} (r : Res α) : answers r = true → ∃ u a, r = .ok u a := by
  cases r <;> simp [answers]

theorem answers_unit (r : Res Unit) (h : answers r = true) : ∃ u, r = .ok u () := by
  obtain ⟨u, a, h⟩ := answers_ok r h; exact ⟨u, h⟩

theorem witness_vector_loads_and_stores :
    Ready atV 0 ∧ vBad (mop 15 2 0 0) = false ∧ mopAddr (mop 15 2 0 0) (atV'.core 0) vsize = 0x8000 ∧ PlainVector atV' 0 0x8000 ∧ atV'.openStores 0 < 64 := by
  refine ⟨ready_of (by decide +kernel), by decide, by decide +kernel, ⟨by decide +kernel, by decide, by decide +kernel, ⟨by decide +kernel, by decide +kernel⟩, fun i hi => ?_⟩, by decide +kernel⟩
  have h : ∀ j, j < 128 → ∀ n, n < 64 → atV'.target (0x8000 + (64 * j + n)) = .stack := by decide +kernel
  have e : i = 64 * (i / 64) + i % 64 := by omega
  rw [e]
  refine ⟨h _ (by omega) _ (by omega), ?_⟩
  rw [show atV'.poison = [] from by decide +kernel]; rfl

theorem witness_stack_accesses :
    PlainLine s0 0 0x8038 8 .load false 0x8038 0 ∧ PlainLine s0 0 0x8038 (List.length [(1 : Byte)]) .store false 0x8038 0 ∧ s0.openStores 0 < 64 ∧
    (match s0.checkAccess 0 .store false (chunks 4096 0xF000000001 8) with | .ok ps => s0.misaligned 0xF000000001 8 ps | _ => false) = true ∧
    (match s0.checkAccess 0 .load false (chunks 4096 0xF000000001 8) with | .ok ps => s0.misaligned 0xF000000001 8 ps | _ => false) = true := by
  refine ⟨⟨?_, ?_, ?_, ?_, ?_, ?_, ?_, ?_, ?_, ?_⟩, ⟨?_, ?_, ?_, ?_, ?_, ?_, ?_, ?_, ?_, ?_⟩, ?_, ?_, ?_⟩ <;> decide +kernel

theorem witness_addressing_modes :
    Ready s0 0 ∧ (mop 1 2 6 0).am = 6 ∧ (mop 1 2 7 0).am = 7 ∧ (mop 1 2 5 1).disp.setWidth 8 ≠ 0 ∧
    ((withG [(3, 0x500000000)]).greg 0 3).toNat / 2 ^ 32 % 32 = 5 ∧ 25 ≤ ((withG [(3, 0x1F00000000)]).greg 0 3).toNat / 2 ^ 32 % 32 := by
  refine ⟨ready_s0.1, ?_⟩; decide +kernel

theorem witness_rounding : 5 % 2 ^ 1 ≠ 0 ∧ 4 % 2 ^ 1 = 0 ∧ 65535 < 65536 := by decide

theorem witness_formats :
    0x77 < 2 ^ Fmt.n8a.bits ∧ (decodeElem .n8a 0x77).isNan = false ∧
    0x7FC00001 < 2 ^ Fmt.fp32.bits ∧ (decodeElem .fp32 0x7FC00001).isNan = true ∧ (decodeElem .fp32 0x7FC00001).isSig = false := by decide +kernel

/-- Core 0 with floating registers written and every floating trap enabled. -/
def floating : State := s0.updCore 0 (fun c => (((c.setReg CORE_FCTL 0x1F00).setF 1 0x3F800000).setF 2 0))

theorem witness_floating_arithmetic :
    Ready s0 0 ∧ ((begun s0 0).core 0).fpTraps { dz := true } = false ∧ Ready floating 0 ∧
    (let c := (begun floating 0).core 0; c.fpTraps (rnd .fp32 c.frm false (divFV (c.fval .fp32 1) (c.fval .fp32 2))).2 = true) := by
  refine ⟨ready_s0.1, ?_, ready_of ?_, ?_⟩ <;> decide +kernel

theorem witness_floating_moves :
    Ready s0 0 ∧ 6 ≤ (6 : BitVec 5).toNat ∧ (5 : BitVec 5).toNat < 6 ∧ fcvtFmt 31 = none ∧ fcvtFmt 0 = some .fp32 ∧
    Ready floating 0 ∧ ((begun floating 0).core 0).fpTraps (convElem .fp16 ((begun floating 0).core 0).frm false (.fin false 1 30)).flags = true := by
  refine ⟨ready_s0.1, ?_, ?_, ?_, ?_, ready_of ?_, ?_⟩ <;> decide +kernel

theorem witness_vector_operations :
    Ready s0 0 ∧ vopOk 1 0 = true ∧ vopOk 0 0 = false ∧ (15 : Reg).toNat < 16 ∧ 16 ≤ (16 : Reg).toNat ∧
    ((begun s0 0).core 0).fpTraps {} = false ∧ ((begun floating 0).core 0).fpTraps { inv := true } = true := by
  refine ⟨ready_s0.1, ?_⟩; decide +kernel

/-- The word of `ADD G1, G2, G3`, and of `LDD G1, 0(G2)`, as R201 and R208 spell them. -/
def addWord : Nat := 0x08 * 2 ^ 26 + 1 * 2 ^ 21 + 2 * 2 ^ 16 + 3 * 2 ^ 11
def lddWord : Nat := 0x16 * 2 ^ 26 + 1 * 2 ^ 21 + 2 * 2 ^ 16

/-- Customer opcodes 3, 4 and 5 are valid: ADD; ADD and then LDD of a poisoned line; and ADD and then a branch. -/
def customer : State := ({ withG [(2, 0x8000)] with poison := [(0x200, true)] }).updCore 0 (fun c =>
  { c.setReg CORE_DTAB_SEL 0x380000 with
      act := [(CORE_DTAB_SEL, 0x380000)]
      dtabAct := [(96, BitVec.ofNat 64 (2 ^ 37 + addWord)), (128, BitVec.ofNat 64 addWord), (129, BitVec.ofNat 64 (2 ^ 37 + lddWord)),
        (160, BitVec.ofNat 64 addWord), (161, BitVec.ofNat 64 (2 ^ 37 + 0x28 * 2 ^ 26))] })

/-- The micro-ops of a customer opcode at core 0, or the index of one that is not valid. -/
def micros (op : Nat) : Except Nat (List (State → Res (Option Word))) := custMicros 0 ⟨1, 2, 3, 0⟩ 0 (custEntries (customer.core 0) op 32)

/-- What a run of micro-ops ends in: 0 all answered, n + 1 micro-op n took an exception. -/
def microsEnd : State → Nat → List (State → Res (Option Word)) → Option Nat
  | _, _, [] => some 0
  | s, n, b :: bs => match b s with
    | .ok u _ => microsEnd u (n + 1) bs
    | .exc .. => some (n + 1)
    | _ => none

theorem witness_customer_instructions :
    Ready customer 0 ∧ ((customer.core 0).actReg CORE_DTAB_SEL).getLsbD (16 + 3) = true ∧ ((customer.core 0).actReg CORE_DTAB_SEL).getLsbD (16 + 6) = false ∧
    ((micros 3).toOption.map (microsEnd (begun customer 0) 0)) = some (some 0) ∧ ((micros 4).toOption.map (microsEnd (begun customer 0) 0)) = some (some 2) ∧
    (match micros 5 with | .error i => i | .ok _ => 99) = 1 ∧ (begun customer 0).upsets = [] := by
  refine ⟨ready_of ?_, ?_⟩ <;> decide +kernel

/-- A slot: its unit, operation code and lower bits; the last slot of a sheet has its stop bit. -/
def slotW (unit op low : Nat) : Word := BitVec.ofNat 64 (0x3E * 2 ^ 58 + 2 ^ 57 + unit * 2 ^ 54 + op * 2 ^ 52 + low)

/-- Core 0 with these engines. -/
def withEng (e : Eng) : State := s0.updCore 0 (fun c => { c with eng := e })

/-- The words of an ENOP slot, an EBAR slot, a TLD with its stop bit clear, and one with a reserved operation. -/
def enopW : Word := slotW 4 0 0
def ebarW : Word := slotW 4 0 (2 ^ 50)
def tldW : Word := slotW 1 0 0

theorem witness_sheet_dispatch :
    (35 : Nat) < 36 ∧ s0.dispatches 0 = true ∧ sheetForm [tldW &&& 0xFDFFFFFFFFFFFFFF, enopW] = true ∧ (0x1000 : Word) &&& 3 = 0 ∧ (match s0.fetchSheet 0 0x1000 4 0 with | some (_, none) => true | _ => false) = true ∧ (s0.core 0).eng.headbox.length < 256 ∧
    sheetBad [tldW &&& 0xFDFFFFFFFFFFFFFF, enopW] = false ∧ ((s0.core 0).eng.headbox.filter Sheet.wet).length < 64 := by decide +kernel

/-- A sheet of one slot. -/
def sheetOf (w : Word) (wet : Bool) (gv : List Word) : Sheet := ⟨0, 0x1000, wet, 1, 0, [⟨w, gv⟩], 0, false, [], []⟩

/-- Slots at the front of the headbox: a TLD of one row, the same with a felt address that is not a multiple of 16, an ENOP, and an H slot. -/
def relOk : State := withEng { headbox := [sheetOf tldW false [0, 16, 0]], nextSeq := 1, nextDry := 1 }
def relBad : State := withEng { headbox := [sheetOf tldW false [1, 16, 0]], nextSeq := 1, nextDry := 1 }
def relFull : State := withEng { headbox := [sheetOf enopW false []], nextSeq := 1, nextDry := 1, yq := List.replicate 4 ⟨0, 0, enopW, [], false, [], [], none, none⟩ }
def relH : State := withEng { headbox := [sheetOf (slotW 0 0 0) false [0]], nextSeq := 1, nextDry := 1 }

/-- The check and the room of the slot at the front. -/
def relState (s : State) : Option (Option Nat × Bool) :=
  match (s.core 0).eng.headbox with
  | h :: _ => (h.slots[h.gone]?).map (fun x =>
      let o := releasedOp (s.core 0).eng h x
      ((lowest (s.slotChecks 0 o)).map Prod.fst, (s.core 0).eng.queueRoom x.word && (s.core 0).eng.claimRoom (slotClaims o)))
  | [] => none

theorem witness_sheet_progress :
    (let s := withEng { headbox := [sheetOf ebarW true []], nextSeq := 1 };
      s.canRun 0 = true ∧ (s.core 0).eng.headbox.find? Sheet.wet = some (sheetOf ebarW true []) ∧ (sheetOf ebarW true []).addr = (s.core 0).pc ∧ s.ebarReady 0 = true ∧
      (s.core 0).frecValid = false) ∧
    hasEbar [enopW] = false ∧
    (relOk.core 0).frecHold = false ∧ relState relOk = some (none, true) ∧ slotUnit tldW ≠ unitH ∧ relState relH = some (none, true) ∧ slotUnit (slotW 0 0 0) = unitH ∧
    relState relFull = some (none, false) ∧ (relState relBad).bind Prod.fst ≠ none ∧ slotUnit (slotW 3 0 0) = unitC ∧ (s0.core 0).eng.descReady 0 0 0x7FFF00 = true := by decide +kernel

/-- A hollander descriptor of 1 row: operation and spaces, elements of 4 bytes, and the bases of its sides. -/
def desc (w0 count src dst : Nat) : List Byte :=
  leBytes 4 (w0 + 2 * 2 ^ 4) ++ leBytes 4 count ++ leBytes 4 1 ++ leBytes 4 0 ++ leBytes 8 src ++ leBytes 16 0 ++ leBytes 8 dst ++ leBytes 16 0

/-- The entry of a descriptor at felt offset `off`. -/
def entry (ph : HPhase) (off : Nat) (bs : List Byte) : HolEntry := ⟨0, 0, 0, off, false, false, bs, ph, 0, 0, none, none, []⟩

/-- COPY from the felt's byte 0x100 to 0x200, COPY from virtual 0x8000 to felt, the same with a source that is not aligned. -/
def dCopy : List Byte := desc 0 2 0x100 0x200
def dCopyV : List Byte := desc (2 ^ 11) 2 0x8000 0x200
def dFill : List Byte := desc 1 2 7 0x200
def dBad : List Byte := desc 0 2 0x101 0x200
/-- UADD from the felt to virtual 0x8000, and VFETCH of virtual 0x8000. -/
def dUadd : List Byte := desc (2 + 2 ^ 16) 2 0x100 0x8000
def dVfetch : List Byte := desc (5 + 2 ^ 11) 2 0x8000 0

/-- Core 0 whose hollander holds a descriptor. -/
def holAt (ph : HPhase) (bs : List Byte) : State := withEng { hol := [entry ph 0x7FFFC0 bs], felt := Mem.writeN [] 0x7FFFC0 bs, nextSeq := 1, nextDry := 1 }

/-- What the hypotheses of HMV ask of a descriptor. -/
def hmvAsks (bs : List Byte) : Bool :=
  let s := holAt .unread bs
  let e := (s.core 0).eng
  let h := entry .unread 0x7FFFC0 bs
  let d := holDescOf (e.felt.readN h.off 64)
  decide (e.hol.find? (fun x => decide (x.phase = .unread)) = some h) && !s.tripped && !e.syncWaits h.seq && decide (h.off % 64 = 0) && decide (h.off + 64 ≤ feltSize) &&
  !e.feltWaits h.seq h.pos h.idx (if d.bad then [(h.off, h.off + 64, false)] else holCheckSpans h.off d) && decide (e.feltPoison h.off 64 = [])

/-- The answer of the descriptor's check. -/
def hmvCheck (bs : List Byte) : Option Found := holCheck 0x7FFFC0 (Mem.writeN [] 0x7FFFC0 bs) (holDescOf bs)

theorem witness_hmv :
    hmvAsks dCopy = true ∧ hmvCheck dCopy = none ∧ (∀ p ∈ holCheckSpans 0x7FFFC0 (holDescOf dCopy), ((holAt .unread dCopy).core 0).eng.feltPoison p.1 (p.2.1 - p.1) = []) ∧
    hmvAsks dBad = true ∧ (hmvCheck dBad).isSome = true := by decide +kernel

/-- The descriptor is ready, and its elements are located and read. -/
def moves (bs : List Byte) (op : Nat) : Bool :=
  let s := holAt .ready bs
  match s.holReady 0 0 op with
  | some (h, d) =>
    let g := s.gather 0 d h.ix (h.user || d.uperm) d.total 0 h.placed []
    let m := s.movable 0 h d g.2.1
    decide (g.2.2 = (none, false)) && decide ((remoteSrcs (g.2.1.take m)).length = 0) && decide (0 < m) && d.isUpd == (decide (2 ≤ op) && decide (op ≤ 4))
  | none => false

theorem witness_hollander_operations :
    moves dCopy hopCopy = true ∧ moves dCopyV hopCopy = true ∧ moves dFill hopFill = true ∧ moves dUadd hopUadd = true ∧
    moves (desc (3 + 2 ^ 16) 2 0x100 0x8000) hopUmax = true ∧ moves (desc (4 + 2 ^ 16) 2 0x100 0x8000) hopUmin = true ∧
    (match (holAt .ready dVfetch).holReady 0 0 hopVfetch with
      | some (h, d) => (match (holAt .ready dVfetch).fetchLines 0 d h.ix (h.user || d.uperm) d.total 0 none with | some (_, none) => true | _ => false)
      | none => false) = true ∧
    ((holAt .issued dCopy).core 0).eng.hol[0]? = some (entry .issued 0x7FFFC0 dCopy) := by decide +kernel

/-- An update request waits at port 0. -/
def updAt : State := s0.setPort 0 { upd := [⟨0, 0, 0, 0, 0, 0x8038, 0x8000, 0, 2, false, [(0x38, 5)]⟩] }

theorem witness_memory_updates :
    updAt.upsets = [] ∧ updAt.updBefore ⟨0, 0, 0, 0, 0, 0x8038, 0x8000, 0, 2, false, [(0x38, 5)]⟩ = false ∧
    updAt.target 0x8000 = .stack ∧ Tab.get false updAt.poison (0x8000 / 64) = false ∧
    0x7F7FFFFF < 2 ^ Fmt.fp32.bits ∧ (decodeElem .fp32 0x7F7FFFFF).isNan = false ∧ (decodeElem .fp32 0).lt (decodeElem .fp32 0x7F7FFFFF) = true := by decide +kernel

/-- A vat's status register and configuration. -/
def vatIn (cfg stat : Word) : Vat := ({} : Vat).setReg VAT_CFG cfg |>.setReg VAT_STAT stat

/-- The bytes of a vat command: its first word, HOME, IN, OUT, FLAG address and parameters. -/
def vcmdOf (w home in_ out flag p0 p1 : Nat) : List Byte :=
  leBytes 4 w ++ leBytes 4 7 ++ leBytes 8 home ++ leBytes 8 in_ ++ leBytes 8 out ++ leBytes 8 flag ++ leBytes 4 p0 ++ leBytes 4 p1 ++ leBytes 16 0

/-- Vat 0 is enabled with `n` window ways, otherwise as after reset. -/
def vatOf (n : Nat) : Vat := ({} : Vat).setReg VAT_CFG (BitVec.ofNat 64 (n + 256)) |>.setReg VAT_STAT 1

/-- A UADD of one I32 element at the window's first byte, its source in stack memory. -/
def uaddCmd : List Byte := vcmdOf (4 + 1 * 2 ^ 6 + 2 * 2 ^ 8) 0xE000000000 0x8000 0 0 1 1

/-- Core 0 whose hollander holds a VCMD. -/
def vcmdAt : State :=
  let bs := vcmdOf (4 + 0 * 2 ^ 6 + 2 * 2 ^ 8) 0xE000000000 0x100 0 0 1 1
  (withEng { hol := [{ entry .unread 0 [] with vcmd := true }], felt := Mem.writeN [] 0 bs, nextSeq := 1, nextDry := 1 }).setVat 0 (vatOf 16)

def vcmdBytes : List Byte := (vcmdAt.core 0).eng.felt.readN 0 64

theorem witness_vat_posted :
    s0.windowRoom 41 3 31 0 = true ∧ s0.waiters = [] ∧ ({ s0 with vats := [(3, vatIn 0 0x10)] } : State).held 3 = true ∧ s0.held 3 = false ∧ (s0.setVat 0 { queue := [(0, List.replicate 64 (windowCmd 0 uaddCmd))] }).windowRoom 0 0 0 0 = false ∧
    (let e := (vcmdAt.core 0).eng;
      e.hol.find? (fun x => decide (x.phase = .unread)) = some { entry .unread 0 [] with vcmd := true } ∧ vcmdAt.upsets = [] ∧ e.syncWaits 0 = false ∧
      e.feltWaits 0 0 0 [(0, 64, false)] = false ∧ e.vcmdChecks { entry .unread 0 [] with vcmd := true } vcmdBytes = none ∧
      lowest (vcFelt vcmdBytes none ++ vcSpan vcmdBytes (vcHome vcmdBytes) (vcIn vcmdBytes) (vcOut vcmdBytes) (vcFlaga vcmdBytes) none) = none ∧
      e.feltWaits 0 0 0 (vcFeltSpans vcmdBytes) = false ∧ e.fenceMet { entry .unread 0 [] with vcmd := true } vcmdBytes = true ∧ (vcmdAt.core 0).eng.felt.readN 0 64 = vcmdBytes) ∧
    (match vcmdAt.vcResolve 0 vcmdBytes false with
      | (u, some (.ok (home, inA, _))) => decide (u.vcSlices vcmdBytes home = some (0, [0])) && !u.vcmdWaits 0 0 [0] (u.cameAt { entry .unread 0 [] with vcmd := true } 0 [0]) && decide (u.upsets = []) &&
          decide ((vcmdAt.core 0).eng.feltPoison inA (vcSizes vcmdBytes none).2.1 = [])
      | _ => false) = true := by decide +kernel

/-- A window command at the front of a slice's queue. -/
def queued (bs : List Byte) : State := s0.setVat 0 { vatOf 16 with queue := [(0, [windowCmd 41 bs])] }

/-- What the front command's checks find. -/
def found (bs : List Byte) : Option Nat :=
  (lowest (((queued bs).setVat 0 { (queued bs).vat 0 with queue := [] }).vcChecks 0 0 (windowCmd 41 bs))).map Prod.fst

theorem witness_vat_run :
    ((queued uaddCmd).vat 0).q 0 = [windowCmd 41 uaddCmd] ∧ (queued uaddCmd).tripped = false ∧ (queued uaddCmd).upsets = [] ∧
    (queued uaddCmd).vcHeld 0 (windowCmd 41 uaddCmd).inAddr = false ∧ vcOp uaddCmd = 4 ∧ found uaddCmd = none ∧
    found (vcmdOf (4 + 1 * 2 ^ 6 + 2 * 2 ^ 8) 0xE000001000 0x8000 0 0 1 1) = some 0x72 := by decide +kernel

/-- A command that has run and not completed. -/
def ran (m : VCmd) : State := s0.setVat 0 { vatOf 16 with done := [(0, [⟨m, 1⟩])] }

theorem witness_vat_complete :
    let m := windowCmd 41 uaddCmd
    let f := windowCmd 41 (vcmdOf (4 + 2 ^ 4) 0xE000000000 0x8000 0 0x8000 1 1)
    Tab.get [] ((ran m).vat 0).done 0 = [⟨m, 1⟩] ∧ (ran m).tripped = false ∧ ((ran m).vat 0).closing = false ∧ m.core = none ∧ vcFlag m.bytes = false ∧
    Tab.get [] ((ran f).vat 0).done 0 = [⟨f, 1⟩] ∧ f.core = none ∧ vcFlag f.bytes = true ∧ (ran f).target f.flagAddr = .stack ∧ (ran f).upsets = [] ∧ (ran f).vcHeld 0 f.flagAddr = false ∧ f.flagAddr % 8 = 0 ∧
    ({ m with core := some (0, 0, 0, 0) }).core = some (0, 0, 0, 0) := by decide +kernel

/-- An engine operation of sheet 0. -/
def engOp (w : Word) (gv : List Word) : EngOp := ⟨0, 0, w, gv, false, [], [], none, none⟩

theorem witness_tile_transfers :
    (withEng { lq := [engOp tldW [0, 16, 0]] }).lReady 0 0 = some (engOp tldW [0, 16, 0]) ∧
    (withEng { lq := [engOp (slotW 1 1 0) [0, 16, 0]] }).lReady 0 1 = some (engOp (slotW 1 1 0) [0, 16, 0]) ∧
    (deckleOf (slotDeck tldW)).rowbytes ≤ 16 ∧ (deckleOf (slotDeck tldW)).scales = 0 ∧
    lMoves (engOp tldW [0, 16, 0]) ≠ [] ∧ ∀ m ∈ lMoves (engOp tldW [0, 16, 0]), ((withEng {}).core 0).eng.feltPoison m.1 m.2.2 = [] := by decide +kernel

/-- A BLD and an MMA of a 1 × 4 FP32 tile with a 4 × 4 FP32 operand. -/
def bldO : EngOp := engOp (slotW 2 0 (3 * 2 ^ 28)) []
def mmaO (low : Nat) : EngOp := engOp (slotW 2 1 low) [0]

/-- The MMA waits, with its operand loaded. -/
def mmaAt (low : Nat) : State := withEng { mq := [mmaO low], b0 := ⟨true, 3, []⟩, nextSeq := 1, nextDry := 1 }

theorem witness_operand_preload :
    let e := ((withEng { mq := [mmaO 0, bldO], mrun := some ⟨0, 0, false, {}, 0, none⟩ }).core 0).eng
    splitAtOp 0 e.mq = some ([mmaO 0], bldO) ∧ mmasStarted e [mmaO 0] = true ∧ e.claimed bldO.seq bldO.pos = false ∧ e.syncWaits bldO.seq = false ∧
    s0.tripped = false ∧ s0.upsets = [] := by decide +kernel

theorem witness_matrix_pass :
    (mmaAt 0).tripped = false ∧ (mmaAt 0).mmaReady 0 = some (mmaO 0) ∧ ((mmaAt 0).core 0).eng.mrun = none ∧
    lowest (((mmaAt 0).core 0).mmaStartFaults (mmaO 0)) = none ∧ mChin (mmaO 0).word = false ∧ ((mmaAt 0).core 0).eng.couch = [] ∧ (∀ x < 4, ((mmaAt 0).core 0).eng.choutReads (mmaO 0) x = false) ∧
    (deckleOf (slotDeck (mmaO 0).word)).rows ≤ 128 ∧
    (deckleOf ((((mmaAt 0).core 0).mmaStart (mmaO 0)).eng.buf (((mmaAt 0).core 0).mmaStart (mmaO 0)).eng.bActive).deckle).epr ≤ 512 ∧
    (mmaAt (2 ^ 8 + 2 ^ 21)).mmaReady 0 = some (mmaO (2 ^ 8 + 2 ^ 21)) ∧ mTok (mmaO (2 ^ 8 + 2 ^ 21)).word = true := by decide +kernel

/-- Core 0 has a CHOUT of two blocks; its ENG_CHAIN sends to slot 1 or nowhere. -/
def choutAt (chain en : Word) : State :=
  (({ s0 with mill := { s0.mill with regs := [(MILL_SLOTEN, en)] } } : State).updCore 0 (fun c =>
    { c with act := [(ENG_CHAIN, chain)], eng := { c.eng with mq := [engOp (slotW 2 2 (2 ^ 18)) []] } }))

/-- A block on its way to core 1, whose ENG_CHAIN takes blocks of slot 0, or of nobody. -/
def arriving (chain : Word) : State := { s0 with transit := [⟨0, 1, 0, 3, 0, [], []⟩], cores := [(1, { act := [(ENG_CHAIN, chain)] })] }

theorem witness_chain_blocks :
    let s := choutAt 0x81000000 3
    let e := (s.core 0).eng
    splitAtOp 2 e.mq = some ([], engOp (slotW 2 2 (2 ^ 18)) []) ∧ e.syncWaits 0 = false ∧ s.tripped = false ∧ e.chSent = 0 ∧
    ((s.core 0).actReg ENG_CHAIN).getLsbD 31 = true ∧ s.slotEnabled (wfld ((s.core 0).actReg ENG_CHAIN) 24 6) = true ∧ s.transit.find? (fun x => x.src == 0) = none ∧
    s.chainOut 0 = 0 ∧ s.upsets = [] ∧ e.mmaBefore (engOp (slotW 2 2 (2 ^ 18)) []) = false ∧ choutTotal (slotW 2 2 (2 ^ 18)) = 2 ∧
    (((choutAt 0 3).core 0).actReg ENG_CHAIN).getLsbD 31 = false ∧ (choutAt 0x81000000 1).slotEnabled 1 = false ∧
    ((arriving 0x800000).transit.find? (fun x => x.dst == 1)).isSome = true ∧ (((arriving 0x800000).core 1).actReg ENG_CHAIN).getLsbD 23 = true ∧
    wfld (((arriving 0x800000).core 1).actReg ENG_CHAIN) 16 6 = 0 ∧ (((arriving 0).core 1).actReg ENG_CHAIN).getLsbD 23 = false ∧
    wfld (((arriving 0x820000).core 1).actReg ENG_CHAIN) 16 6 ≠ 0 := by decide +kernel

/-- A calender operation of one row and one column: its first stream's word, and the couch's tokens. -/
def calAt (w0 : Nat) (toks : List Token) : State :=
  let bs := leBytes 4 0 ++ leBytes 4 1 ++ leBytes 4 1 ++ leBytes 4 0 ++ leBytes 4 w0 ++ leBytes 236 0
  withEng { cq := [⟨0, 0, slotW 3 0 0, [0, 0, 0, 0], false, [], bs, none, none⟩], couch := toks, nextSeq := 1, nextDry := 1 }

/-- What the hypotheses of CAL ask. -/
def calAsks (s : State) : Bool :=
  let e := (s.core 0).eng
  match e.cq with
  | o :: _ => !s.tripped && decide (e.calDone.length < 2) && !e.sumsFull && decide (s.upsets = []) && !e.claimed o.seq o.pos && !e.syncWaits o.seq && !e.feltWaits o.seq o.pos 0 (cSpans o)
  | [] => false

theorem witness_calender_operation :
    calAsks (calAt 1 []) = true ∧ calAsks (calAt 3 [⟨0, 0, 0⟩]) = true ∧ calAsks (calAt 3 [⟨1, 0, 0⟩]) = true ∧
    (∀ w ∈ [(1 : Nat), 3], ∀ o ∈ ((calAt w [⟨0, 0, 0⟩]).core 0).eng.cq, let d := calDescOf o.desc;
      d.s0.kind = w ∧ d.s0.ntok = 1 ∧ d.s0.ream = 0 ∧ d.cols = 1) := by decide +kernel

/-- A calender operation that has run, with a condition, and a summary or none. -/
def calDoneAt (sum : Option Summary) (sums : List Summary) (flags nmode : Nat) : State :=
  withEng { calDone := [⟨0, 0, nmode, 0, 0, {}, flags, none, none, sum, none, 5, [], none⟩], sums := sums, nextSeq := 1, nextDry := 1 }

theorem witness_calender_completes :
    let full := calDoneAt (some ⟨0, false, 0, 0, 0⟩) (List.replicate 16 ⟨0, false, 0, 0, 0⟩) 0 0
    full.tripped = false ∧ (full.core 0).eng.calDone.length = 1 ∧ 16 ≤ (full.core 0).eng.sums.length ∧
    ((calDoneAt none [] 1 0x1F00).core 0).eng.calDone.length = 1 ∧ trapCause 0x1F00 1 ≠ 0 ∧ ((calDoneAt none [] 1 0x1F00).core 0).frecValid = false := by decide +kernel

/-- A sync unit's slot at the front of its queue. -/
def syncAt (w : Word) (gv : List Word) : State := withEng { yq := [engOp w gv], nextSeq := 1, nextDry := 1 }

theorem witness_sync_slots :
    s0.tripped = false ∧ yOp enopW = yEnop ∧ yOp ebarW = yEbar ∧ yOp (slotW 4 1 0) = yEwr ∧ yRsel (slotW 4 1 (2 * 2 ^ 40)) = 2 ∧
    ((syncAt (slotW 4 1 0) [0]).core 0).eng.ewr = [] ∧
    seqBefore ((((syncAt (slotW 4 1 0) [0]).core 0).eng.nextDry + 2 ^ 48 - 1024) % 2 ^ 48) ((0 + 4) % 2 ^ 48) = true := by decide +kernel

/-- An ESAVE and an ERESTORE of no part, and an ESAVE behind an MMA of two rows. -/
def esaveW : Word := slotW 4 0 (2 * 2 ^ 50)
def erestoreW : Word := slotW 4 0 (3 * 2 ^ 50)
def stopping : State := withEng { mq := [mmaO (2 ^ 28)], b0 := ⟨true, 3, []⟩, yq := [{ engOp esaveW [0x10000] with pos := 1 }], nextSeq := 1, nextDry := 1 }

/-- The pages of a save area. -/
def pagesOk (s : State) (k : Nat) (w base : Word) (kind : AccKind) : Bool :=
  match s.ctxPages k base.toNat false kind (0 :: partPages (yParts w)) with
  | (t, some (.ok ps)) => !ps.any (fun p => t.waitsFor k (t.target p.2)) && ps.all (fun p => decide (t.target p.2 = .stack)) && decide (t.upsets = [])
  | _ => false

/-- An ESAVE under translation with empty tables. -/
def unmappedSave : State := (syncAt esaveW [0x10000]).updCore 0 (fun c => { c with act := [(CORE_TCTL, 0x3801)] })

theorem witness_save_area_unmapped :
    unmappedSave.yFront 0 yEsave = some (engOp esaveW [0x10000]) ∧ (unmappedSave.core 0).eng.othersDone (engOp esaveW [0x10000]) = true ∧
    (unmappedSave.core 0).eng.earlierM (engOp esaveW [0x10000]) = [] ∧
    (match (unmappedSave.ctxPages 0 0x10000 false .store (0 :: partPages (yParts esaveW))).2 with | some (.error _) => true | _ => false) = true := by decide +kernel

theorem witness_save_area :
    (syncAt esaveW [0x10000]).yFront 0 yEsave = some (engOp esaveW [0x10000]) ∧ ((syncAt esaveW [0x10000]).core 0).eng.othersDone (engOp esaveW [0x10000]) = true ∧
    ((syncAt esaveW [0x10000]).core 0).eng.earlierM (engOp esaveW [0x10000]) = [] ∧ pagesOk (syncAt esaveW [0x10000]) 0 esaveW 0x10000 .store = true ∧
    (stopping.stoppable 0 { engOp esaveW [0x10000] with pos := 1 } 1) = some (mmaO (2 ^ 28)) ∧ pagesOk stopping 0 esaveW 0x10000 .store = true ∧
    (stopping.stopMma 0 (mmaO (2 ^ 28)) 1 0).isSome = true ∧
    (syncAt erestoreW [0x10000]).yFront 0 yErestore = some (engOp erestoreW [0x10000]) ∧ s0.dln.reqs = [] ∧
    (syncAt erestoreW [0x10000]).target 0x10000 = .stack ∧ (syncAt erestoreW [0x10000]).firstHole 0x10000 88 = none ∧
    (match ((syncAt erestoreW [0x10000]).ctxPages 0 0x10000 false .load [0]).2 with | some (.ok l) => l | _ => []) = [(0, 0x10000)] ∧
    leAt (({ syncAt erestoreW [0x10000] with mem := Mem.writeLE [] 0x10000 4 0x1D080C01 } : State).physRead 0x10000 256) 0 4 = ctxMagic ∧
    leAt ((syncAt erestoreW [0x10000]).physRead 0x10000 256) 0 4 ≠ ctxMagic := by decide +kernel

theorem witness_engine_registers :
    (s0.core 0).modeWritable = false ∧ (s0.core 1).modeWritable = true ∧ (s0.core 1).eng.ewr = [] ∧ (s0.core 0).frecValid = false ∧ (asked.core 0).frecValid = true ∧
    (s0.core 0).stopped = false ∧ (s0.core 38).stopped = true := by decide +kernel

theorem witness_translation_registers :
    (39 : Nat) < 40 ∧ (0xFFF : BitVec 44).toNat * 2 ^ 12 < 2 ^ vbitsOf ((s0.core 0).actReg CORE_TCTL) ∧
    (s0.core 39).tlbi = none ∧ ((s0.updCore 39 (fun c => { c with tlbi := some ⟨0, true, 0, 0, [], [], []⟩ })).core 39).tlbi = some ⟨0, true, 0, 0, [], [], []⟩ ∧
    (match s0.xlat 0 0x8000 .load false .probe false with | (_, .ok pa _) => pa | _ => 1) = 0x8000 ∧
    (match (s0.tlockBegun 0 1 8).walk true 0 0x8000 with | (_, .fault _ _, _) => true | _ => false) = true ∧ s0.tlockWaits 0 8 = false ∧ s0.upsets = [] ∧
    (let s := { s0 with mem := Mem.writeN [] 0 (leBytes 8 1 ++ leBytes 8 7) };
      (match (s.tlockBegun 0 1 0x40000).walk true 0 (2 ^ 30) with | (_, .leaf a e l, _) => (a, e, l) | _ => (0, 0, 0)) = (8, 7, 1) ∧ s.tlockWaits 0 0x40000 = false ∧ s.target 8 = .stack ∧ bit 0x47 6 = true ∧ (0x40000 : BitVec 44).toNat * 2 ^ 12 = 2 ^ 30) := by decide +kernel

theorem witness_vat_control :
    (vatIn 16 1).enabled = true ∧ (vatIn 16 4).enabled = false ∧ (vatIn 16 4).busy = true ∧ (vatIn 16 0).busy = false ∧ (vatIn 16 0).invalidated = false ∧
    (vatIn 16 2).invalidated = true ∧ (17 : BitVec 5).toNat ≠ (vatIn 16 0).addrw ∧ 16 < (17 : BitVec 5).toNat ∧ (16 : BitVec 5).toNat = (vatIn 16 0).addrw ∧
    (0 : BitVec 5).toNat ≤ 16 ∧ (vatIn 16 0).addrw ≤ 16 ∧ (vatIn 16 1).closing = false ∧ (vatIn 16 1).drained = true ∧ (vatIn 16 5).busy = true ∧
    ({ vatIn 16 1 with queue := [(0, [windowCmd 0 uaddCmd])] } : Vat).drained = false := by decide +kernel

/-- A vat whose range registers name `n` bytes at `base`. -/
def rangeAt (stat base n : Word) : State := s0.setVat 3 ((vatIn 8 stat).setReg VAT_RBASE base |>.setReg VAT_RSIZE n)

theorem witness_vat_ranges :
    rangeReason (rangeAt 0 0x8000 0x80) 3 0 = 0 ∧ rangeReason (rangeAt 0 0x8000 0) 3 1 = 0 ∧ rangeReason (rangeAt 4 0x8000 0x80) 3 2 = 2 ∧
    rangeReason (rangeAt 0 0x8001 0x80) 3 0 = 5 ∧ rangeReason (rangeAt 0 0 0x2000000) 3 3 = 0 ∧ rangeReason (rangeAt 0 0 0x2000040) 3 3 = 5 ∧
    rangeReason (rangeAt 1 0 0) 3 4 = 6 ∧ rangeReason (rangeAt 1 0 0) 3 5 = 0 ∧ StaleOk s0 ∧
    ((s0.setVat 0 { range := some ⟨5, 0, 0, true⟩ }).vat 0).range = some ⟨5, 0, 0, true⟩ := by
  refine ⟨?_, ?_, ?_, ?_, ?_, ?_, ?_, ?_, fun l bs h => ?_, ?_⟩
  case refine_9 => exact nomatch (show (none : Option (List Byte × Bool)) = some bs from h)
  all_goals decide +kernel

/-- Core 0 holds line 0x200 in its L2, clean or modified, and vat 0 caches. -/
def offering (d : Bool) : State := (s0.updCore 0 (fun c => { c with l2 := [(0x200, some d)] })).setVat 0 (vatIn 8 1)

theorem witness_vat_lines :
    Tab.get none (s0.core 0).l2 0x200 = none ∧ Tab.get none ((offering true).core 0).l2 0x200 = some true ∧ (offering true).stackLineOk 0x200 = true ∧
    ((offering false).vat 0).caches = true ∧ (s0.vat 0).caches = false ∧ ((offering false).vat 0).wayOf 0x200 = none ∧ Tab.get false ((offering false).vat 0).stream 0x200 = false ∧
    ((offering false).vat 0).setBusy 0x200 = false ∧ (List.range 16).any (((offering false).vat 0).eligible (lineSlice 0x200)) = true ∧ (offering true).upsets = [] ∧ ((offering false).vat 0).fillWay (lineSlice 0x200) (lineSet 0x200) = some 0 ∧
    (({ vatIn 8 1 with regs := ((List.range 32).foldl (fun (v : Vat) i => v.setReg (VAT_WAYDIS + 8 * i) 0xFFFF) (vatIn 8 1)).regs } : Vat).fillWay (lineSlice 0x200) (lineSet 0x200) = none) := by
  decide +kernel

/-- Port 7 in patrol or in self-refresh, with the scrub period of reset. -/
def scrubbing (pstat scrub : Word) : State := { s0 with board := {} }.setPort 7 { regs := [(MEM_PSTAT, pstat), (MEM_SCRUB, scrub)], scrub := granules - 1 }

theorem witness_memory_controllers :
    (scrubbing 1 0x3E818).portUsed 7 = true ∧ ((scrubbing 1 0x3E818).port 7).scrub < granules ∧ wfld (((scrubbing 1 0x3E818).port 7).reg MEM_SCRUB) 0 8 ≠ 0 ∧
    (((scrubbing 1 0x3E818).port 7).reg MEM_PSTAT).getLsbD 1 = false ∧ (((scrubbing 1 0x3E818).port 7).reg MEM_PSTAT).getLsbD 2 = false ∧
    (((scrubbing 5 0x3E818).port 7).reg MEM_PSTAT).getLsbD 2 = true ∧ wfld (((scrubbing 1 0x3E800).port 7).reg MEM_SCRUB) 0 8 = 0 ∧
    s0.powered = true ∧ s0.mill.mapWritten = false ∧ ({ s0 with mill := { s0.mill with mapWritten := true } } : State).mill.mapWritten = true ∧
    ((scrubbing 1 0x3E818).portOf ((scrubbing 1 0x3E818).addrOf 7 0)).1 = 7 ∧ ((scrubbing 1 0x3E818).port 7).reg MEM_CE ≠ BitVec.allOnes 64 := by decide +kernel

theorem witness_power_and_heat :
    s0.powered = true ∧ wfld (s0.clkReg PWR_THROT) 0 6 ≤ 45 ∧ (919 : BitVec 16).toInt < 8 * 115 ∧ 8 * 115 ≤ (920 : BitVec 16).toInt ∧ s0.tripped = false ∧
    (0x8000 : BitVec 16).toInt < 8 * 115 := by decide +kernel

/-- An error log of `n` unread entries, the newest one with this code. -/
def logged (n code : Nat) : State := { s0 with err := { s0.err with wptr := n, ring := [((n + 255) % 256, { code := code })] } }

theorem witness_error_log :
    (∀ n ∈ [0, 1, 256], (logged n 5).err.rptr ≤ (logged n 5).err.wptr ∧ (logged n 5).err.wptr ≤ (logged n 5).err.rptr + 256) ∧
    (logged 1 5).err.rptr < (logged 1 5).err.wptr ∧ (Tab.get {} (logged 1 5).err.ring 0).code = 5 ∧ (logged 256 5).err.wptr = (logged 256 5).err.rptr + 256 ∧
    (logged 255 5).err.wptr < (logged 255 5).err.rptr + 256 ∧ (logged 1 5).err.wptr < (2 : Word).toNat ∧ s0.jtag.ir.drives = false := by decide +kernel

/-- A flit of a type for a device. -/
def aFlit (dst typ : Nat) (pl : List Byte) : Flit := { s0.flitTo dst typ with payload := pl, len := pl.length }

/-- Port 5 is UP with partner 9, and its lanes have `n` credits. -/
def linkUp (n : Nat) : Link := { regs := [(DLN_PCFG, 1), (DLN_PSTAT, 4 + 9 * 2 ^ 16)], credits := [(0, n), (1, n), (2, n), (3, n)] }
def upAt (n : Nat) : State := s0.setLink 5 (linkUp n)

/-- A block with sequence number `q`. -/
def block (q : Nat) (crc : Bool) (fs : List Flit) (park : Bool) : LinkBlock :=
  let b := blockOf q fs none none [] park
  { b with crc := if crc then b.crc else ~~~b.crc }

theorem block_crcOk (q : Nat) (crc : Bool) (fs : List Flit) (park : Bool) : (block q crc fs park).crcOk = crc := by
  cases crc with
  | true => exact blockOf_crcOk ..
  | false => exact crcOk_ne _ _ (blockOf_crcOk ..) (fun h => by have := congrArg (·.getLsbD 0) h; simp at this)

/-- Port 5 parked, with the block of number `q` not acknowledged. -/
def parkedLink (q : Nat) : Link := { regs := [(DLN_PCFG, 1), (DLN_PSTAT, 1 + 9 * 2 ^ 16)], replay := [block q true [aFlit 9 tyRd []] false], txSeq := q + 1 }

theorem witness_link_blocks :
    (s0.link 5).state ≠ 2 ∧ ((upAt 1).link 5).state = 2 ∧ (block 0 false [] false).crcOk = false ∧ (block 0 true [] false).crcOk = true ∧ (block 0 true [] false).nak = none ∧
    (block 0 true [] false).ack = none ∧ ({ block 0 true [] false with nak := some 3 } : LinkBlock).nak = some 3 ∧ (parkedLink 3).replay.any (fun x => x.seq == 3) = true ∧
    (parkedLink 3).state ≠ 2 ∧ (parkedLink 3).parked = true ∧ (parkedLink 3).nakCount = 0 ∧ 16 ≤ ({ linkUp 1 with nakSeq := 3, nakCount := 16, replayed := true } : Link).nakCount ∧
    ({ linkUp 1 with rxSeq := 1 } : Link).rxSeq = 1 ∧ (block 0 true [] false).seq < 1 ∧ ((upAt 1).link 5).rxSeq < (block 1 true [] false).seq ∧
    (block 0 true [] false).seq = ((upAt 1).link 5).rxSeq ∧
    (block 0 true [aFlit 9 0x55 []] false).flits.any (fun f => !typeListed f.typ.toNat) = true ∧
    (block 0 true [aFlit 9 tyRd []] true).flits.all (fun f => typeListed f.typ.toNat) = true ∧ (block 0 true [] true).park = true ∧
    (upAt 1).jtag.ir.drives = false ∧ ((upAt 1).link 5).resend = [] ∧ ((upAt 1).link 5).replay.length < 64 ∧
    64 ≤ (List.replicate 64 (block 0 true [] false)).length ∧ (∃ b bs, ({ linkUp 1 with resend := [block 0 true [] false] } : Link).resend = b :: bs) ∧
    Machine.LinkBlock.hasIdle (block 0 true [] false) = true ∧ Machine.LinkBlock.hasIdle (block 0 true (List.replicate 5 (aFlit 9 tyRd [])) false) = false := by
  refine ⟨?_, ?_, block_crcOk .., block_crcOk .., rfl, rfl, rfl, ?_, ?_, ?_, rfl, ?_, rfl, ?_, ?_, rfl, ?_, ?_, rfl, ?_, rfl, ?_, ?_, ⟨_, _, rfl⟩, ?_, ?_⟩
  all_goals decide +kernel

/-- The check values of CRC-64/ECMA-182 and of the SMBus packet error code's CRC-8, over the digits 1 to 9, from the catalogues of both. -/
theorem test_crc : crc64 ((List.range 9).map (fun i => BitVec.ofNat 8 (0x31 + i))) = 0x6C40DF5F0B497347 ∧
    smbPec ((List.range 9).map (fun i => BitVec.ofNat 8 (0x31 + i))) = 0xF4 := by decide +kernel

/-- Flits for device 9 go to port 5. -/
def routing (n : Nat) : State := { upAt n with dln := { (upAt n).dln with route := [(9, 0x80000005)], outq := [aFlit 9 tyRd []] } }

theorem witness_link_states :
    ((routing 0).link 5).state = 2 ∧ (routing 0).routerFlits.any ((routing 0).waitsOn 5 0) = true ∧ (routing 1).routerFlits.any ((routing 1).waitsOn 5 0) = false ∧
    (s0.link 5).state ≠ 2 ∧ ((s0.setLink 5 { regs := [(DLN_PSTAT, 2)] }).link 5).state = 1 ∧ ((s0.setLink 5 { regs := [(DLN_PSTAT, 6)] }).link 5).state = 3 ∧
    ((s0.setLink 5 { regs := [(DLN_PSTAT, 1)] }).link 5).parked = true ∧ 4 ≤ (4 : BitVec 4).toNat ∧ (2 : BitVec 2).toNat ≠ ((upAt 0).link 5).role ∧
    (1 : BitVec 2).toNat = ((upAt 0).link 5).role := by decide +kernel

theorem witness_flit_routing :
    (s0.setLink 3 { rx := [(0, [aFlit 9 tyRd []])] }).routed (aFlit 9 tyRd []) ≠ .wait ∧ (routing 0).routed (aFlit 9 tyRd []) = .wait ∧
    (routing 1).routed (aFlit 9 tyRd []) = .forward 5 0 ∧ (routing 1).routed { aFlit 9 tyRd [] with hops := 6 } = .drop ∧ (routing 1).routed (aFlit 0 tyRd []) = .deliver ∧
    (routing 1).dln.outq = [aFlit 9 tyRd []] ∧ classOf (aFlit 9 tyRd []).typ.toNat = (1 : BitVec 2).toNat / 2 ∧ (aFlit 9 tyRd []).typ.toNat ≠ tyReturn ∧
    ({ linkUp 1 with acc := [(3, 2, 1)] } : Link).acc[0]? = some (3, 2, 1) ∧ (linkUp 1).usable = true ∧ 0 < Tab.get 0 (linkUp 1).credits 2 ∧
    (aFlit 0 tyNotice []).typ.toNat = tyNotice ∧ (24 : Nat) < 25 ∧ (∀ r, r < 64 → s0.fcState r = 0) ∧ (aFlit 0 tyNotice []).cls ≠ 0xF ∧
    s0.fcState 64 ≠ 1 ∧ (s0.setDlnReg DLN_FCREC (2 ^ 24)).fcState 0 = 1 ∧ (s0.setDlnReg DLN_FCREC (2 * 2 ^ 24)).fcState 0 = 2 := by decide +kernel

/-- An RD and a WR of 8 bytes of stack memory, and one of a hole, from device 9. -/
def rdFlit (typ addr : Nat) : Nat × Flit := (5, { aFlit 0 typ [1, 2, 3, 4, 5, 6, 7, 8] with src := 9, addr := addr })
def inboxOf (x : Nat × Flit) (reqs : List RemReq) : State := { s0 with dln := { s0.dln with inbox := [x], reqs := reqs } }

theorem witness_remote_accesses :
    (inboxOf (rdFlit tyRd 0x8000) []).firstReq tyRd [rdFlit tyRd 0x8000] [] = some (rdFlit tyRd 0x8000) ∧
    (inboxOf (rdFlit tyWr 0x8FF8) []).firstReq tyWr [rdFlit tyWr 0x8FF8] [] = some (rdFlit tyWr 0x8FF8) ∧
    s0.acceptsRemote 0x8FF8 8 = true ∧ s0.acceptsRemote 0x8FF9 8 = false ∧ s0.target 0x8FF8 = .stack ∧ s0.anyBad 0x8FF8 8 = false ∧
    (rdFlit tyWr 0x8FF8).2.payload.length = (rdFlit tyWr 0x8FF8).2.len ∧
    (inboxOf (rdFlit tyWrack 0) [⟨0, 0, true, 9, 0, 8, none, none, false, false⟩]).reqOf 0 = some ⟨0, 0, true, 9, 0, 8, none, none, false, false⟩ ∧
    (inboxOf (rdFlit tyRdrsp 0) [⟨0, 0, false, 9, 0, 8, some (0, 0, 0), none, false, false⟩]).reqOf 0 = some ⟨0, 0, false, 9, 0, 8, some (0, 0, 0), none, false, false⟩ ∧
    (s0.core 0).eng.yq.any (fun o => o.seq == 0 && o.pos == 0) = false ∧ s0.reqOf 0xFFFF = none := by decide +kernel

/-- The entry of bucket 2 in the chain table: its first byte, KIND and ROLE in it, and its STATE; local and landing areas in stack memory. -/
def bucketAt (b0 state : Nat) (bk : Bkt) (active : List Nat) : State :=
  let bytes := leBytes 1 b0 ++ leBytes 3 0 ++ leBytes 2 9 ++ leBytes 2 9 ++ leBytes 4 100 ++ leBytes 4 0 ++ leBytes 4 0 ++ leBytes 2 1 ++ leBytes 1 state ++ leBytes 1 0 ++
    leBytes 8 0x10000 ++ leBytes 8 0x20000 ++ leBytes 8 0x30000 ++ leBytes 8 0x40000 ++ leBytes 8 0x50000
  { s0 with mem := Mem.writeN [] (s0.bucketAddr 2) bytes, dln := { s0.dln with active := active, bkts := Tab.set {} [] 2 bk } }

/-- A flit of a chain for bucket 2: its index and STEP. -/
def chainFlitOf (typ idx step : Nat) : Flit := { aFlit 0 typ (List.replicate 256 0) with addr := idx * 2 ^ 16 + 2, step := BitVec.ofNat 16 step }

theorem witness_chain_unit :
    (bucketAt 3 0 {} []).target ((bucketAt 3 0 {} []).bucketAddr 2) = .stack ∧ (2 : BitVec 14).toNat = 2 ∧
    ((bucketAt 3 1 {} [2]).bucket 2).valid = true ∧ ((bucketAt 3 1 {} [2]).bucket 2).state ≠ 0 ∧ ((bucketAt 3 0 {} []).bucket 2).state = 0 ∧
    (bucketAt 3 0 {} []).upsets = [] ∧ s0.waiters.any Waiter.atBucket = false ∧ ([.bucket 0xFF 5 false] : List Waiter).any Waiter.atBucket = true ∧
    ((bucketAt 3 1 {} [2]).bucket 2).state ≠ 2 ∧ s0.target ((bucketAt 3 1 {} [2]).bucket 2).param = .stack ∧ 256 ≤ (bucketAt 3 0 {} (List.range 256)).dln.active.length ∧ (bucketAt 3 0 {} []).entryOk ((bucketAt 3 0 {} []).bucket 2) = true ∧
    ((bucketAt 5 2 {} [2]).bucket 2).state = 2 ∧ ((bucketAt 5 2 {} [2]).bucket 2).role = roleOwner ∧ ((bucketAt 3 0 {} []).bucket 2).role = roleMiddle ∧
    (chainFlitOf tyChain 1 1).addr % 2 ^ 14 = 2 ∧ flitIndex (chainFlitOf tyChain 1 1) = 1 ∧ 1 < streamLen ((bucketAt 3 1 {} [2]).bucket 2) ∧
    (chainFlitOf tyChain 1 1).step.toNat = ((bucketAt 3 1 {} [2]).bucket 2).step ∧ (chainFlitOf tyReturn 0 2).step.toNat ≠ ((bucketAt 3 1 {} [2]).bucket 2).step ∧
    ((bucketAt 3 1 {} [2]).bucket 2).land = 0x30000 ∧ s0.target (0x30000 + 256 * 1 + 255) = .stack ∧ (chainFlitOf tyChain 1 1).payload.length = 256 ∧
    ((bucketAt 3 1 { landed := [(0, some (256, false))] } [2]).bkt 2).landed = [(0, some (256, false))] ∧ ((bucketAt 3 1 {} [2]).bucket 2).kind = 0 ∧
    Tab.get none ((bucketAt 3 1 {} [2]).bkt 2).landed 0 = none ∧ flitIndex (chainFlitOf tyReturn 0 1) < Nat.max 1 (ceilDiv ((bucketAt 3 1 {} [2]).bucket 2).plen 256) := by
  decide +kernel

/-- A mover descriptor: operation and spaces, and its sides' bases. -/
def mvD (w0 src dst : Nat) : List Byte := desc w0 2 src dst

/-- Queue 3 runs a batch of one descriptor, which stands in the service SRAM or in stack memory. -/
def mvAt (bs : List Byte) (bme : Bool) : State :=
  { s0 with mem := Mem.writeN [] 0x4000 bs, host := { s0.host with bme := bme },
            mill := { s0.mill with regs := [(MILL_MVS + 3 * 16, 2 ^ 31)], batch := [(3, 0x4000)] } }

/-- What the hypotheses ask of a batch. -/
def mvAsks (bs : List Byte) : Bool × Bool × Bool :=
  let s := mvAt bs false
  (s.mvBusy 3 && s.mvCount 3 == 1 && decide (s.mvDesc 3 0 = (some bs, false)) && !s.mvHeld 3 (holDescOf bs), s.mvBad (holDescOf bs), mvMisaligned (holDescOf bs))

/-- COPY and FILL between places in stack memory, COPY from the host, one with a reserved bit, and one that is not aligned. -/
def mvCopy : List Byte := mvD (2 ^ 11 + 2 ^ 16) 0x8000 0x9000
def mvFill : List Byte := mvD (1 + 2 ^ 16) 7 0x9000
def mvHost : List Byte := mvD (2 ^ 16) 0x8000 0x9000

theorem witness_mover :
    mvAsks mvCopy = (true, false, false) ∧ mvAsks mvFill = (true, false, false) ∧ mvAsks mvHost = (true, false, false) ∧
    mvAsks (mvD (2 ^ 7 + 2 ^ 11 + 2 ^ 16) 0x8000 0x9000) = (true, true, false) ∧ mvAsks (mvD (2 ^ 11 + 2 ^ 16) 0x8001 0x9000) = (true, false, true) ∧
    (holDescOf mvHost).op = hopCopy ∧ (holDescOf mvHost).src.space = 0 ∧ ((mvAt mvHost true).host.bme = true ∧ (mvAt mvHost true).host.d3 = false ∧ (mvAt mvHost true).host.ctoOff = false ∧
      (mvAt mvHost true).upsets = [] ∧ (∀ j, j < 4 → ((mvAt mvHost true).mvBusy j = true ↔ j = 3)) ∧ 0x4000 + (mvCopy).length ≤ 2 ^ 21) ∧ (holDescOf mvCopy).dst.space = 1 ∧
    (∀ n, n < 2 → (mvAt mvCopy false).target (mvDst (holDescOf mvCopy) n) = .stack ∧ (mvAt mvCopy false).target (mvSrc (holDescOf mvCopy) n) = .stack ∧
      (mvAt mvCopy false).anyBad (mvSrc (holDescOf mvCopy) n) 4 = false) ∧
    (∀ n m, n < 2 → m < 2 → (n ≠ m → runsApart (mvDst (holDescOf mvCopy) n) (mvDst (holDescOf mvCopy) m) 4) ∧ runsApart (mvSrc (holDescOf mvCopy) n) (mvDst (holDescOf mvCopy) m) 4) ∧
    s0.mvBusy 3 = false := by
  refine ⟨?_, ?_, ?_, ?_, ?_, ?_, ?_, ?_, ?_, ?_, ?_, ?_⟩
  case refine_11 =>
    intro n m hn hm
    have h : (n = 0 ∨ n = 1) ∧ (m = 0 ∨ m = 1) := by omega
    obtain ⟨rfl | rfl, rfl | rfl⟩ := h <;> unfold runsApart <;> decide +kernel
  all_goals decide +kernel

/-- A post of 8 words in a channel's slot: its sender and message. -/
def posted (ch ag : Nat) (msg : List Word) : State :=
  s0.setChan ch { regs := [(MBX_CTL, BitVec.ofNat 64 (2 ^ 31 + ag * 2 ^ 8 + 8))] ++ (msg.zip (List.range 16)).map (fun p => (MBX_MSG + 8 * p.2, p.1)), owed := true }

/-- Senders 3 and 41 wait for channel 2. -/
def waiting : State := s0.setChan 2 { wait := [⟨3, 8, List.replicate 8 1⟩, ⟨41, 16, List.replicate 16 2⟩], rr := 41 }

theorem witness_mailboxes :
    (let s := withG [(1, 0x802), (2, 0x8000)];
      let f := begun s 0;
      Ready s 0 ∧ f.postOk 0 (s.greg 0 1) (s.greg 0 2) = true ∧ f.storesOpen 0 = false ∧ answers (f.coreLoad 0 0x8000 64 false .clean) = true ∧
      f.postOk 0 (s.greg 0 3) (s.greg 0 2) = false) ∧ (begun openStore 0).storesOpen 0 = true ∧
    chanExists 50 = true ∧ chanExists 41 = false ∧ ((posted 2 3 []).chan 2).go = true ∧ (s0.chan 2).wait = [] ∧
    (waiting.chan 2).go = false ∧ (waiting.chan 2).rr < 42 ∧ (41 + 42 - (waiting.chan 2).rr) % 42 < (3 + 42 - (waiting.chan 2).rr) % 42 ∧
    receiverOf 2 = 2 ∧ ((posted 2 3 []).chan 2).owed = true ∧ s0.maySend 2 41 = true ∧ s0.maySend 49 41 = false ∧
    areaOwner 0 = 41 ∧ s0.stageBusy 0 = false ∧ s0.stageReg 0 MBX_HPOST = 0 ∧ (0 == areaOf 41 2) = true ∧ (1 == areaOf 41 48) = true ∧
    ({ s0 with waiters := [.window 0 0 0 0 (windowCmd 0 uaddCmd) 0] } : State).windowRoom 0 0 0 0 = true := by
  refine ⟨⟨ready_of ?_, ?_⟩, ?_⟩ <;> decide +kernel

theorem witness_host_and_smbus :
    s0.powered = true ∧ s0.jtag.ir.drives = false ∧ s0.host.d3 = false ∧ ({ s0 with host := { s0.host with d3 := true } } : State).host.d3 = true ∧ s0.upsets = [] ∧
    s0.smbGood 0x11 [1] none = true ∧ s0.smbGood 0x11 [1] (some (smbPec [0xB0, 0x11, 1])) = true ∧ s0.smbGood 0x11 [1] (some 0) = false ∧
    ({ s0 with vats := [(0, vatIn 0 0x10)] } : State).hostHeld 8 (.ctl (windowOff 0 0 0 0)) = true ∧ s0.hostHeld 8 (.ctl 0x3FFFFF8) = false ∧ 0x3FFFFF8 + 8 ≤ 2 ^ 26 ∧ 0x3FFFFF8 % 8 = 0 ∧
    ({ s0 with vats := [(0, vatIn 0 0x10)] } : State).held 0 = true ∧
    ({ s0 with mill := { s0.mill with regs := [(MILL_SLOTEN, 1)] } } : State).slotEnabled 0 = true ∧ s0.held 0 = false ∧
    (s0.setPstate 1).pstate = 1 ∧ s0.pstate ≠ 1 ∧ s0.pstate ≠ 3 ∧ s0.mill.loft = .none ∧ s0.mill.loftQueue = [] ∧ s0.mill.change = none ∧
    linkOk 6 16 true = true ∧ linkOk 6 16 false = false ∧ linkOk 5 16 false = true := by decide +kernel

/-- A die that runs, with a post of the mill's channel in its slot. -/
def running (ch ag : Nat) (msg : List Word) : State :=
  ((posted ch ag msg).setPstate 1).setMillReg MILL_BSTAT 9

/-- A SWAP of slots 0 and 1 of cluster 0, whose record makes them ENABLED and SPARE. -/
def swapping : State :=
  let s := running 48 41 [2 + 1 * 2 ^ 16]
  { s with mill := { s.mill with clusRec := [(0, leBytes 4 9 ++ List.replicate 4348 0)] } }

/-- A change of cluster 0 in phase `ph`. -/
def changing (ph : Nat) : State :=
  let s := running 48 41 []
  { s with mill := { s.mill with regs := Tab.set 0 s.mill.regs MILL_SLOTEN 1, change := some ⟨1, 0, 0, 0, 41, 0, [], 0, ph, false⟩ } }

theorem witness_live_changes :
    swapping.postCode 48 = some 2 ∧ swapping.bootState = 9 ∧ swapping.pstate = 1 ∧ swapping.mill.loft = .none ∧ swapping.mill.change = none ∧
    (swapping.changeCheck 48 2).toOption.isSome = true ∧ (running 48 41 [2]).postCode 48 = some 2 ∧ ((running 48 41 [2]).changeCheck 48 2).toOption.isSome = false ∧
    (running 50 36 [1 + 1 * 2 ^ 8]).postCode 50 = some 1 ∧ ((running 50 36 [1 + 1 * 2 ^ 8]).changeCheck 50 1).toOption.isSome = false ∧
    (changing 0).mill.stopping = [] ∧ (∃ k ∈ (changing 0).changeCores ⟨1, 0, 0, 0, 41, 0, [], 0, 0, false⟩, (changing 0).atRest k = false) ∧
    ({ changing 0 with mill := { (changing 0).mill with stopping := [0] } } : State).mill.stopping ≠ [] ∧ (changing 1).tripped = false ∧
    (∀ k ∈ (changing 1).enabledIn 0, k ∉ [1]) ∧ ((changing 1).enabledIn 0).filter (fun k => [0].contains k) = [0] := by decide +kernel

/-- The die in a phase of loft. -/
def lofting (ph : LoftPhase) (st : Nat) : State :=
  let s := (running 48 41 [0x20]).setPstate st
  { s with mill := { s.mill with loft := ph } }

theorem witness_loft :
    (lofting .none 1).postCode 48 = some 0x20 ∧ (lofting .none 1).msgsZero 48 1 = true ∧ (lofting .none 1).pstate = 1 ∧ (lofting .none 4).pstate ≠ 1 ∧
    (lofting .loft 3).pstate = 3 ∧ (running 48 41 [0x21, 1]).msgsZero 48 1 = false ∧ (running 48 41 [0x21]).postCode 48 = some 0x21 ∧
    (lofting .entering 1).mill.stopping = [] ∧ (lofting .entering 1).loftReady = false ∧ s0.upsets = [] ∧ (lofting .entering 1).atRest 39 = false ∧ 39 ∈ (lofting .entering 1).loftCores ∧
    ({ lofting .entering 1 with mill := { (lofting .entering 1).mill with stopping := [36] } } : State).mill.stopping ≠ [] ∧ ({ lofting .entering 1 with cores := [] } : State).loftReady = true ∧
    (lofting .parking 1).loftQuiet = true ∧ ((lofting .parking 1).setLink 0 { linkUp 1 with parking := true }).loftQuiet = false ∧
    (lofting .exiting 3).mill.loft = .exiting := by decide +kernel

theorem witness_reset_and_boot :
    State.reset.powered = false ∧ s0.powered = true ∧ ({} : Board).sfdp = .absent ∧ ({ sfdp := .spi 50 } : Board).sfdp ≠ .absent ∧ tooSlow { sfdp := .spi 50 } [] = false ∧
    (match imgCheck { sfdp := .spi 50 } [] with | .error c => c | .ok _ => 0) = 3 ∧ s0.portTraining 7 = true ∧ (s0.port 6).settled = false ∧
    (let s := { s0 with ports := (List.range 7).map (fun q => (q, ({ regs := [(MEM_PSTAT, 1)] } : Port))), memRegs := [(MEM_MAP, 0x40003210)], mill := { s0.mill with regs := [(MILL_BSTAT, 5)] } };
      s.portTraining 7 = true ∧ s.bootState = 5 ∧ (∀ q, q < 8 → q ≠ 7 → (s.port q).settled = true) ∧ (s.port 7).reg MEM_PSTAT = 0 ∧ s.tripped = false ∧ s.chooseMap = none ∧
      ({ s with mill := { s.mill with dieRec := leBytes 4 0 ++ leBytes 4 0x13210 ++ List.replicate 56 0 } } : State).chooseMap = some 0x13210 ∧ s.mill.copies = []) ∧
    (let s := (posted 48 41 [0x10]).setMillReg MILL_BSTAT 15; s.bootState = 15 ∧ s.postCode 48 = some 0x10 ∧ s.tripped = false ∧ (s.port 0).settled = false) ∧
    (let s := (posted 48 41 [0x11, 0, 0x10000000]).setMillReg MILL_BSTAT 15; s.bootState = 15 ∧ s.postCode 48 = some 0x11 ∧ ((s.chan 48).reg (MBX_MSG + 16)).toNat ≤ 2 ^ 28 ∧ s.hostMaster = false ∧ s.tripped = false ∧
      ({ s with host := { s.host with bme := true } } : State).hostMaster = true) ∧
    (s0.setMillReg MILL_BSTAT 3).bootState = 3 ∧ s0.board.large = false ∧ s0.tripped = false ∧ (s0.setPstate 5).tripped = true ∧ s0.err.rptr = s0.err.wptr := by decide +kernel

theorem witness_test_port :
    s0.unlocked = false ∧ (s0.setMillReg MILL_DBG 1).unlocked = true ∧ plainReg 0 CORE_EVEC = true ∧ CORE_EVEC ≠ CORE_DTAB_SEL ∧ (rowAt coreMap CORE_EVEC).isSome = true ∧
    ctlSlot 0xFFFFFFF8 = .none ∧ ¬((2 = 4 ∨ 2 = 8) ∧ 0 % 2 = 0 ∧ 0 < 2 ^ 32) := by decide +kernel

-- more witnesses: the clauses of the statements one by one

theorem witness_fetch_keeps : Ready s0 0 ∧ s0.upsets = [] ∧ NoOldCopies s0 0 := ⟨ready_s0.1, by decide +kernel, by decide +kernel, by decide +kernel⟩

/-- User mode on core 39, which has no engines. -/
def user39 : State := s0.updCore 39 (fun c => c.setReg CORE_ESTATE 0)

/-- The index of a register's offset in CRD and CWR. -/
def crIndex (off : Nat) : BitVec 16 := BitVec.ofNat 16 (off / 8)

theorem witness_user_writes :
    Ready user39 39 ∧ ((begun user39 39).core 39).sup = false ∧ plainReg 0 ENG_NSTAT = true ∧ isSlot 39 = false ∧ isEngineReg ENG_FCTL = true ∧
    (∀ off ∈ [ENG_NSTAT, ENG_FCTL, HOL_CNTCTL, ENG_CSUMQ], 0x1000 ≤ off ∧ off ≤ 0x1FFF ∧ (crIndex off).toNat * 8 = off) ∧ rowAt coreMap 0x1FF8 = none ∧
    (BitVec.ofNat 64 0x102).getLsbD 8 = true := by
  refine ⟨ready_of ?_, ?_⟩ <;> decide +kernel

/-- A VCMD of core 0 at the front of a slice's queue. -/
def queuedV (bs : List Byte) : State := s0.setVat 0 { vatOf 16 with queue := [(0, [{ windowCmd 0 bs with core := some (0, 7, 1, 2), window := false }])] }

/-- A SCORE of a slice without a query buffer, and a state whose vat has an error recorded. -/
def scoreCmd : List Byte := vcmdOf (3 + 2 * 2 ^ 6 + 2 * 2 ^ 8) 0xE000000000 0 0 0 1 1
def recorded : State := (queued scoreCmd).setVat 0 (((queued scoreCmd).vat 0).setReg VAT_CERR0 0x80FF000000000000)

theorem witness_vat_faults :
    (∀ s ∈ [queued scoreCmd, queuedV scoreCmd, recorded], ∀ m ∈ (s.vat 0).q 0, (s.vat 0).q 0 = [m] ∧ s.tripped = false ∧ s.upsets = [] ∧ vcOp m.bytes = 3 ∧
      vcIspace m.bytes ≠ 1 ∧ vcOspace m.bytes ≠ 1 ∧
      ((lowest ((s.setVat 0 { s.vat 0 with queue := Tab.set [] (s.vat 0).queue 0 [] }).vcChecks 0 0 m)).map Prod.fst).isSome = true) ∧
    ((queued scoreCmd).vat 0).q 0 ≠ [] ∧ ((queuedV scoreCmd).vat 0).q 0 ≠ [] ∧ ((recorded.vat 0).reg VAT_CERR0).getLsbD 63 = true ∧
    (((queued scoreCmd).vat 0).reg VAT_CERR0).getLsbD 63 = false := by decide +kernel

/-- A VCMD of core 0 has run in a slice, with conditions; its entry waits for `n` completions, and its traps are enabled or not. -/
def ranV (n nmode : Nat) (hol : Bool) : State :=
  let m : VCmd := { windowCmd 0 uaddCmd with core := some (0, 7, 1, 2), window := false, nmode := nmode }
  (withEng { hol := if hol then [{ entry .issued 0 (vcmdOf (4 + 2 ^ 4) 0xE000000000 0 0 0x100 1 1) with vcmd := true, seq := 7, pos := 1, idx := 2, outstanding := n }] else [] }).setVat 0
    { vatOf 16 with done := [(0, [⟨m, 0x21⟩])] }

theorem witness_vcmd_complete :
    (∀ s ∈ [ranV 1 0x100 true, ranV 2 0 true, ranV 1 0 false, (ranV 1 0x100 true).updCore 0 (fun c => c.setReg ENG_FREC0 0x8000000000000000)],
      (∃ x, Tab.get [] (s.vat 0).done 0 = [x] ∧ x.cmd.core = some (0, 7, 1, 2) ∧ x.flags = 0x21) ∧ s.tripped = false ∧ (s.vat 0).closing = false) ∧
    ((ranV 1 0x100 true).core 0).frecValid = false ∧ (0x21 &&& 0xF ||| (0x21 >>> 5 &&& 1) <<< 4) &&& (0x100 >>> 8 &&& 0x1F) ≠ 0 ∧
    (0x21 &&& 0xF ||| (0x21 >>> 5 &&& 1) <<< 4) &&& (0 >>> 8 &&& 0x1F) = 0 := by
  refine ⟨?_, ?_⟩
  · intro s hs
    simp only [List.mem_cons, List.not_mem_nil, or_false] at hs
    obtain rfl | rfl | rfl | rfl := hs <;> refine ⟨⟨_, rfl, ?_, ?_⟩, ?_⟩ <;> decide +kernel
  · decide +kernel

/-- A stream of 32-bit elements in felt rows of 64 bytes. -/
def strm (w0 base : Nat) : List Byte := leBytes 4 w0 ++ leBytes 4 base ++ leBytes 4 64 ++ leBytes 20 0

/-- A calender descriptor of two rows of three elements: its first word, OUT, AUX and its nips. -/
def chainDesc (w0 : Nat) (out aux : List Byte) (nips : List Nat) : List Byte :=
  leBytes 4 w0 ++ leBytes 4 2 ++ leBytes 4 3 ++ leBytes 4 0 ++ strm 1 0 ++ strm 1 0x100 ++ out ++ aux ++ leBytes 16 0 ++ nips.flatMap (leBytes 8) ++
  List.replicate (96 - 8 * (nips.length - 1)) 0

/-- S0 + S1 to OUT at 0x400, and the sum of each row or column of S0 to AUX there. -/
def addDesc : List Byte := chainDesc 1 (strm 1 0x400) (leBytes 32 0) [0x01 + 2 * 2 ^ 9]
def redDesc (cols : Nat) : List Byte := chainDesc 1 (leBytes 32 0) (strm 1 0x400) [0x30 + cols * 2 ^ 16]

/-- Core 0 with a calender operation of a descriptor. -/
def calOf (bs : List Byte) : State := withEng { cq := [⟨0, 0, slotW 3 0 0, [0, 0, 0, 0], false, [], bs, none, none⟩], nextSeq := 1, nextDry := 1 }

theorem plainIn_of (d : CalDesc) (h : decide (1 ≤ d.rows ∧ 1 ≤ d.cols ∧ (d.s0.kind = 1 ∧ d.s0.bcast = 0 ∧ (Fmt.ofCode d.s0.fmt).scaled = false ∧ 8 ≤ (Fmt.ofCode d.s0.fmt).bits) ∧
      (d.s1.kind = 1 ∧ d.s1.bcast = 0 ∧ (Fmt.ofCode d.s1.fmt).scaled = false ∧ 8 ≤ (Fmt.ofCode d.s1.fmt).bits) ∧ d.mkind = 0 ∧
      ∀ n ∈ d.nips, n.kind ≠ nkExpand ∧ n.kind ≠ nkScupd ∧ n.kind ≠ nkHist ∧ n.kind ≠ nkCvt) = true) : d.plainIn := by
  simp only [decide_eq_true_eq] at h
  obtain ⟨h1, h2, h3, h4, h5, h6⟩ := h
  exact ⟨h1, h2, h3, .inr h4, h5, fun n hn => ⟨(h6 n hn).1, (h6 n hn).2.1, (h6 n hn).2.2.1, fun hc => absurd hc (h6 n hn).2.2.2⟩⟩

theorem clearOf_of (s t : Stream) (rows cols n m : Nat)
    (h : ∀ r, r < rows → ∀ c, c < cols → s.at r c + s.size ≤ t.base ∨ t.base + (n - 1) * t.pitch + m * t.size ≤ s.at r c) : s.clearOf t rows cols n m :=
  fun r c hr hc => h r hr c hc

theorem witness_calender_chain :
    let d := calDescOf addDesc
    calAsks (calOf addDesc) = true ∧ d.bad = false ∧ d.plainIn ∧ d.term = none ∧ d.out.plain ∧ d.out.apart d.rows d.cols ∧ d.s0.clearOf d.out d.rows d.cols d.rows d.cols ∧
    d.s1.clearOf d.out d.rows d.cols d.rows d.cols ∧ d.sumq = false := by
  refine ⟨by decide +kernel, by decide +kernel, plainIn_of _ (by decide +kernel), by decide +kernel, ⟨by decide +kernel, by decide +kernel, by decide +kernel, by decide +kernel⟩,
    .inr (by decide +kernel), clearOf_of _ _ _ _ _ _ (by decide +kernel), clearOf_of _ _ _ _ _ _ (by decide +kernel), by decide +kernel⟩

/-- The context of an I32 operation, and a lane that holds 5 and -7. -/
def intCtx : CalCtx := let bs := chainDesc (1 + 2 * 2 ^ 4) (strm 1 0x400) (leBytes 32 0) [0x01 + 2 * 2 ^ 9]
  (calOf bs).calCtx 0 (engOp (slotW 3 0 0) [0, 0, 0, 0]) (calDescOf bs)
def intLane : Lane := ⟨FV.ofInt 5, FV.ofInt (-7), FV.ofInt 5, true, {}, true⟩
def intNip (kind : Nat) : Nip := ⟨kind, 0, 2, 0, 0, 0, 0, 0, false, 0⟩

theorem witness_calender_integers :
    intCtx.d.wtype = 2 ∧ (∀ kind ∈ [0x01, 0x05, 0x16], (intNip kind).kind ≠ nkExpand ∧ intCtx.operand (intNip kind) intLane (intNip kind).opa = FV.ofInt (5 : BitVec 32).toInt ∧
      intCtx.operand (intNip kind) intLane (intNip kind).opb = FV.ofInt (-7 : BitVec 32).toInt) ∧
    (nipWord 0x05 5 (-7)).isSome = true ∧ (nipExact 0x01 5 (-7)).isSome = true ∧ intCtx.saturates 1 = false ∧ intCtx.saturates 2 = true ∧
    (let s := (calDescOf (chainDesc (1 + 2 * 2 ^ 4) (strm (1 + 7 * 2 ^ 4) 0x400) (leBytes 32 0) [])).out; s.kind = 1 ∧ s.fmt = 7) := by decide +kernel

theorem witness_calender_reductions :
    (∀ c, c < 2 → ∃ n, let d := calDescOf (redDesc c)
      calAsks (calOf (redDesc c)) = true ∧ d.bad = false ∧ d.plainIn ∧ d.term = some n ∧ n.kind = nkReduce ∧ n.sub < 4 ∧ d.out.kind = 0 ∧ d.aux.plain ∧ bit n.fmt 0 = decide (c = 1) ∧
      d.aux.apart (if c = 1 then 1 else d.rows) (if c = 1 then d.cols else 1) ∧ d.s0.clearOf d.aux d.rows d.cols (if c = 1 then 1 else d.rows) (if c = 1 then d.cols else 1) ∧
      d.s1.clearOf d.aux d.rows d.cols (if c = 1 then 1 else d.rows) (if c = 1 then d.cols else 1)) ∧
    (let vs := [FV.zero, FV.inf true, .fin false 3 0]; vs.length ≤ 2 ^ 40 ∧ 2 ^ 1 < vs.length ∧ vs.length ≤ 2 ^ (1 + 1) ∧ 2 ^ 0 < (vs.take 2).length ∧ (vs.take 2).length ≤ 2 ^ (0 + 1)) := by
  refine ⟨fun c hc => ?_, by decide⟩
  have h : c = 0 ∨ c = 1 := by omega
  obtain rfl | rfl := h <;>
  exact ⟨_, by decide +kernel, by decide +kernel, plainIn_of _ (by decide +kernel), rfl, by decide +kernel, by decide +kernel, by decide +kernel,
    ⟨by decide +kernel, by decide +kernel, by decide +kernel, by decide +kernel⟩, by decide +kernel, by first | exact .inl (by decide +kernel) | exact .inr (by decide +kernel),
    clearOf_of _ _ _ _ _ _ (by decide +kernel), clearOf_of _ _ _ _ _ _ (by decide +kernel)⟩

/-- A calender operation that has run and writes or adds to a tally at felt offset 0x40. -/
def tallyAt (tally : Nat) : State :=
  withEng { calDone := [⟨0, 0, 0, tally, 0x40, { sat := 1, elems := 0x100000000 }, 0, none, none, none, none, 5, [], none⟩], nextSeq := 1, nextDry := 1 }

theorem witness_tally :
    ∀ w, w < 4 → let s := tallyAt w; s.tripped = false ∧ s.upsets = [] ∧ (s.core 0).eng.sums.length < 16 ∧ ∃ x, (s.core 0).eng.calDone = [x] ∧ x.tally = w ∧ x.scup = none ∧ x.hist = none ∧
      (x.tally ≠ 0 ↔ w ≠ 0) := by
  intro w hw
  have h : w = 0 ∨ w = 1 ∨ w = 2 ∨ w = 3 := by omega
  obtain rfl | rfl | rfl | rfl := h <;> exact ⟨by decide +kernel, by decide +kernel, by decide +kernel, _, rfl, rfl, rfl, rfl, Iff.rfl⟩

theorem target_low {s : State} (hw : s.ways4 = false) {a : Nat} (h : a < 0xC000000000) : s.target a = .stack := by
  rw [State.target, if_pos h, hw]; rfl

theorem noHole {s : State} (hw : s.ways4 = false) (n : Nat) : ∀ pa, pa + n ≤ 0xC000000000 → s.firstHole pa n = none := by
  induction n with
  | zero => intro _ _; rfl
  | succ n ih =>
    intro pa h
    have : s.physByte pa = some (s.mem.read pa) := by simp only [State.physByte, target_low hw (show pa < 0xC000000000 by omega)]
    rw [State.firstHole, this, ih (pa + 1) (by omega)]; rfl

/-- The pages that a save or restore of core 0 translates to, when all lie in stack memory. -/
def pagesOf (s : State) (kind : AccKind) (l : List Nat) : Option (List (Nat × Nat)) :=
  match s.ctxPages 0 0x10000 false kind l with
  | (t, some (.ok ps)) => if ps.all (fun p => decide (p.2 + 4096 ≤ 0xC000000000)) && !t.ways4 && decide (t.upsets = []) then some ps else none
  | _ => none

theorem pagesOf_some {s : State} {kind : AccKind} {l : List Nat} {ps : List (Nat × Nat)} (h : pagesOf s kind l = some ps) :
    ∃ t, s.ctxPages 0 0x10000 false kind l = (t, some (.ok ps)) ∧ t.pagesHere 0 ps ∧ t.upsets = [] ∧ ∀ p ∈ ps, t.logHole 0 0 p.2 4096 = t := by
  unfold pagesOf at h
  split at h
  · rename_i t qs hq
    split at h
    · rename_i hc
      cases h
      simp only [Bool.and_eq_true, List.all_eq_true, Bool.not_eq_true', decide_eq_true_eq] at hc
      obtain ⟨⟨hp, hw⟩, hu⟩ := hc
      refine ⟨t, hq, fun p h => ?_, hu, fun p h => by rw [State.logHole, noHole hw _ _ (hp p h)]⟩
      have ht := target_low hw (show p.2 < 0xC000000000 by have := hp p h; omega)
      exact ⟨by rw [ht]; rfl, .inl ht⟩
    · exact absurd h (by simp)
  · exact absurd h (by simp)

/-- An ESAVE of no part with translation off, alone; and one behind an MMA, whose command names a row at which the MMA, which a barrier holds, cannot stop. -/
def saving0 : State := syncAt esaveW [0x10000]
def waitingSave : State := (withEng { mq := [mmaO (2 ^ 28)], cq := [⟨0, 0, slotW 3 0 0, [0, 0, 0, 0], false, [], [], none, none⟩], yq := [{ engOp esaveW [0x10000] with pos := 1 }], nextSeq := 1, nextDry := 1 })

theorem witness_save_completes :
    saving0.yFront 0 yEsave = some (engOp esaveW [0x10000]) ∧ (saving0.core 0).eng.saving = none ∧ ((saving0.core 0).actReg CORE_TCTL).getLsbD 0 = false ∧ saving0.upsets = [] ∧
    partPages (yParts esaveW) = [] ∧ saving0.ways4 = false ∧ (0x10000 : Nat) + 4096 ≤ 0xC000000000 ∧ (saving0.core 0).eng.othersDone (engOp esaveW [0x10000]) = true ∧
    (saving0.core 0).eng.earlierM (engOp esaveW [0x10000]) = [] ∧ saving0.yWaits 0 (engOp esaveW [0x10000]) = false ∧ saving0.stopAt 0 (engOp esaveW [0x10000]) none = none ∧
    pagesOf saving0 .store [0] = some [(0, 0x10000)] ∧
    (let o : EngOp := { engOp esaveW [0x10000] with pos := 1 };
      waitingSave.yFront 0 yEsave = some o ∧ (waitingSave.core 0).eng.saving = none ∧ pagesOf waitingSave .store [0] = some [(0, 0x10000)] ∧ waitingSave.stopAt 0 o (some 5) = some 5 ∧
      (waitingSave.stoppable 0 o 5).bind (fun m => waitingSave.stopMma 0 m 5 0) = none ∧ (waitingSave.core 0).eng.earlierM o ≠ [] ∧ (waitingSave.core 0).eng.othersDone o = false) ∧
    (stopping.stopMma 0 (mmaO (2 ^ 28)) 1 0).any (fun u => decide (u.upsets = []) && !u.yWaits 0 { engOp esaveW [0x10000] with pos := 1 } &&
      decide ((u.core 0).eng.earlierM { engOp esaveW [0x10000] with pos := 1 } = [])) = true := by
  decide +kernel

/-- A restore from an area whose header selects `parts`, or whose first word is `magic`. -/
def restoring (magic parts : Nat) : State := { syncAt erestoreW [0x10000] with mem := Mem.writeN [] 0x10000 (leBytes 4 magic ++ leBytes 4 parts) }

/-- The same under translation with empty tables, and from another device. -/
def unmappedRestore : State := (restoring ctxMagic 0).updCore 0 (fun c => { c with act := [(CORE_TCTL, 0x3801)] })
def farRestore : State := syncAt erestoreW [0x800000000000]

theorem witness_restore :
    (∀ s ∈ [restoring ctxMagic 0, restoring ctxMagic 7, restoring ctxMagic 8, restoring 0 0, unmappedRestore], s.yFront 0 yErestore = some (engOp erestoreW [0x10000]) ∧
      (s.core 0).eng.othersDone (engOp erestoreW [0x10000]) = true ∧ (s.core 0).eng.earlierM (engOp erestoreW [0x10000]) = [] ∧ s.yReads 0 (engOp erestoreW [0x10000]) = []) ∧
    (∀ s ∈ [restoring ctxMagic 0, restoring ctxMagic 7, restoring ctxMagic 8, restoring 0 0], pagesOf s .load [0] = some [(0, 0x10000)] ∧ (s.seenBy false 0).mem = s.mem) ∧
    (let h := fun (s : State) => ((s.seenBy false 0).physRead 0x10000 88);
      leAt (h (restoring ctxMagic 7)) 0 4 = 0x1D080C01 ∧ leAt (h (restoring ctxMagic 7)) 4 4 = 7 ∧ leAt (h (restoring ctxMagic 8)) 4 4 = 8 ∧ leAt (h (restoring 0 0)) 0 4 ≠ 0x1D080C01) ∧
    (match (unmappedRestore.ctxPages 0 0x10000 false .load [0]).2 with | some (.error _) => true | _ => false) = true ∧
    (match farRestore.ctxPages 0 0x800000000000 false .load [0] with
      | (t, some (.ok [(o, a)])) => decide (o = 0) && !t.waitsFor 0 (t.target a) && decide (t.target a = .remote)
      | _ => false) = true := by
  decide +kernel

theorem witness_restore_parts : (pagesOf (restoring ctxMagic 1) .load (partPages 1)).isSome = true := by decide +kernel

/-- A restore under translation, of whose area the header's page alone is mapped. -/
def headMapped : State := (restoring ctxMagic 1).updCore 0 (fun c =>
  { c with act := [(CORE_TCTL, 0x3801)], htlb := [⟨0, true, 0x10000, 4096, 0x10000, 0, true, false, true, true, true⟩] })

theorem witness_restore_unmapped_part :
    headMapped.yFront 0 yErestore = some (engOp erestoreW [0x10000]) ∧ pagesOf headMapped .load [0] = some [(0, 0x10000)] ∧
    (match (headMapped.ctxPages 0 0x10000 false .load (partPages 1)).2 with | some (.error _) => true | _ => false) = true := by decide +kernel

/-- A range operation runs at vat 0, and a disable waits for its end. -/
def closingAt : State := s0.setVat 0 { vatOf 16 with range := some ⟨1, 0x8000, 0x80, false⟩, closing := true }

theorem witness_range_closing : (closingAt.vat 0).range = some ⟨1, 0x8000, 0x80, false⟩ ∧ (closingAt.vat 0).closing = true ∧ (closingAt.vat 0).drained = true := by decide +kernel

/-- A map of ports 0 to 3, four ways: port 7 is not named. -/
def darkAt : State := { scrubbing 1 0x3E818 with memRegs := [(MEM_MAP, 0x13210)] }

theorem witness_scrub_dark :
    darkAt.portUsed 7 = false ∧ (darkAt.port 7).scrub < granules ∧ wfld ((darkAt.port 7).reg MEM_SCRUB) 0 8 ≠ 0 ∧ ((darkAt.port 7).reg MEM_PSTAT).getLsbD 1 = false ∧
    ((darkAt.port 7).reg MEM_PSTAT).getLsbD 2 = false ∧ (darkAt.port 7).reg MEM_CE ≠ BitVec.allOnes 64 ∧ (darkAt.port 7).reg MEM_UE ≠ BitVec.allOnes 64 ∧
    (let s := scrubbing 1 0x3E818
     let a := s.addrOf 7 ((s.port 7).scrub * 64)
     Tab.get none s.stale (a / 64) = none ∧ (s.portOf a).1 = 7 ∧ Tab.get none ({ s with stale := Tab.set none [] (a / 64) (some ([], false)) } : State).stale (a / 64) = some ([], false)) := by
  decide +kernel

theorem witness_log_and_throttle : LogAndThrottle s0 ∧ ∃ t, step { s0 with pending := [.nop 0] } = .next t := ⟨⟨by decide +kernel, by decide +kernel, by decide +kernel⟩, _, rfl⟩

theorem witness_stale : StaleOk s0 ∧ ∃ t, step { s0 with pending := [.nop 0] } = .next t :=
  ⟨fun _ bs h => absurd (show (none : Option (List Byte × Bool)) = some bs from h) nofun, _, rfl⟩

/-- Port 5 replays a block, which holds an IDLE flit or none, long after its last IDLE flit. -/
def replaying (n since : Nat) : Link := { linkUp 1 with resend := [block 4 true (List.replicate n (aFlit 9 tyRd [])) false], replay := [block 4 true (List.replicate n (aFlit 9 tyRd [])) false], nakSeq := 4, sinceIdle := since }

theorem witness_link_replays :
    ((s0.setLink 5 (replaying 5 1023)).link 5).state = 2 ∧ (replaying 5 1023).resend = [block 4 true (List.replicate 5 (aFlit 9 tyRd [])) false] ∧ 1023 ≤ (replaying 5 1023).sinceIdle ∧
    Machine.LinkBlock.hasIdle (block 4 true (List.replicate 5 (aFlit 9 tyRd [])) false) = false ∧ (replaying 5 1022).sinceIdle < 1023 ∧
    Machine.LinkBlock.hasIdle (block 4 true (List.replicate 4 (aFlit 9 tyRd [])) false) = true ∧ (linkUp 1).txSeq = 0 ∧ ({ linkUp 1 with txSeq := 1, sinceIdle := 7 } : Link).txSeq ≠ 0 :=
  ⟨by decide +kernel, rfl, by decide, by decide +kernel, by decide, by decide +kernel, rfl, by decide⟩

/-- Bucket 2 is RETURNING, and its last flit is alone, behind one of another class that waits, or before another of its flits. -/
def returning (l : List Flit) : State := let s := (bucketAt 5 3 {} [2]).setLink 5 (linkUp 1); { s with dln := { s.dln with route := [(9, 0x80000005)], outq := l } }
def ownReturn : Flit := { s0.flitTo 9 tyReturn with addr := 2, len := 0 }

theorem witness_return_flits :
    (let s := returning [aFlit 9 tyWrack [], ownReturn]
     ownReturn.typ.toNat = tyReturn ∧ ownReturn.src.toNat = s.dev ∧ ownReturn.addr % 2 ^ 14 = 2 ∧ classOf ownReturn.typ.toNat ≠ classOf (aFlit 9 tyWrack []).typ.toNat ∧
     s.routed ownReturn ≠ .wait ∧ (s.bucket 2).state = 3 ∧ s.upsets = [] ∧ s.target (s.bucketAddr 2) = .stack ∧ s.target ((s.bucket 2).flag + 8) = .stack ∧
     (∀ g ∈ [aFlit 9 tyWrack []], ¬(g.typ.toNat = tyReturn ∧ g.src.toNat = s.dev ∧ g.addr % 2 ^ 14 = 2))) ∧
    ({ ownReturn with src := 7 } : Flit).src.toNat ≠ s0.dev ∧ (returning [ownReturn, ownReturn]).dln.outq = [] ++ ownReturn :: [ownReturn] := by decide +kernel

/-- Requests of a core's load and store, of its hollander, of its sync unit and of a mover. -/
def reqAs (core : Nat) (write : Bool) (desc : Option (Nat × Nat × Nat)) : RemReq := ⟨0, core, write, 9, 0x40, 8, desc, none, false, false⟩

theorem witness_remote_failures :
    (∀ r ∈ [reqAs 0 false none, reqAs 0 true none, reqAs 0 false (some (0, 0, 0)), reqAs 36 false (some (0, 0, 1))],
      (inboxOf (rdFlit tyNack 0) [r]).reqOf 0 = some r ∧ (inboxOf (rdFlit tyNack 0) [r]).dln.inbox = [rdFlit tyNack 0] ∧ (rdFlit tyNack 0).2.tag.toNat = 0 ∧ (rdFlit tyNack 0).2.typ.toNat = tyNack) ∧
    (let s := syncAt erestoreW [0x10000]; (s.core 0).eng.yq.any (fun o => o.seq == 0 && o.pos == 0) = true) ∧ (s0.core 0).eng.yq.any (fun o => o.seq == 0 && o.pos == 0) = false ∧
    (let f : Flit := { (rdFlit tyRdrsp 0).2 with status := 1, len := 0 }; f.status = 1 ∧ f.len = 0 ∧ f.typ.toNat = tyRdrsp) ∧
    (let f : Flit := { (rdFlit tyRdrsp 0).2 with status := 1 }; ¬(f.status = 1 ∧ f.len = 0)) := by
  decide +kernel


/-- The bytes of an entry of KIND FP32 and ROLE MIDDLE whose landing and parameter areas begin at `a`. -/
def areaEntry (state a : Nat) : List Byte :=
  leBytes 1 3 ++ leBytes 3 0 ++ leBytes 2 9 ++ leBytes 2 9 ++ leBytes 4 100 ++ leBytes 4 0 ++ leBytes 4 256 ++ leBytes 2 1 ++ leBytes 1 state ++ leBytes 1 0 ++
  leBytes 8 0x10000 ++ leBytes 8 0 ++ leBytes 8 a ++ leBytes 8 0 ++ leBytes 8 0 ++ leBytes 8 a ++ leBytes 8 0 ++ leBytes 8 0x60000

/-- Bucket 2 with that entry and one flit for it in the inbox, cluster 0 held or not. -/
def areaAt (held : Bool) (typ state a : Nat) : State :=
  { s0 with mem := Mem.writeN [] (s0.bucketAddr 2) (areaEntry state a), dln := { s0.dln with active := [2], inbox := [(5, chainFlitOf typ 0 1)] },
            vats := [(0, vatIn 16 (if held then 0x11 else 1))] }

theorem witness_chain_windows :
    (∀ held typ, (held, typ) ∈ [(true, tyChain), (true, tyReturn), (false, tyReturn)] → let s := areaAt held typ (if held then 1 else 2) (if held then 0xE000000000 else 0x30000)
      let e := s.bucket 2
      e.state ≠ 4 ∧ s.entryOk e = true ∧ s.target (s.bucketAddr 2) = .stack ∧ s.upsets = [] ∧ s.dln.inbox = [(5, chainFlitOf typ 0 1)] ∧ (chainFlitOf typ 0 1).addr % 2 ^ 14 = 2 ∧
      flitIndex (chainFlitOf typ 0 1) = 0 ∧ s.heldTarget (s.target (e.land + 256 * 0)) = held ∧ s.heldTarget (s.target (e.param + 256 * 0)) = held ∧
      s.heldTarget (s.target e.flag) = false ∧ (held = false → e.state = 2 ∧ (chainFlitOf typ 0 1).step.toNat = e.step ∧ 0 < Nat.max 1 (ceilDiv e.plen 256) ∧
        s.target (e.param + 255) = .stack ∧ (e.param + 256 ≤ s.bucketAddr 2 ∨ s.bucketAddr 2 + 128 ≤ e.param))) ∧
    (chainFlitOf tyReturn 0 1).payload.length = (chainFlitOf tyReturn 0 1).len := by
  refine ⟨?_, by decide +kernel⟩
  intro held typ h
  simp only [List.mem_cons, Prod.mk.injEq, List.not_mem_nil, or_false] at h
  obtain ⟨rfl, rfl⟩ | ⟨rfl, rfl⟩ | ⟨rfl, rfl⟩ := h <;> decide +kernel

theorem witness_mover_go :
    s0.mvBusy 3 = false ∧ (s0.millReg (MILL_MVQ + 3 * 0x10)).getLsbD 5 = false ∧ ((s0.setMillReg (MILL_MVQ + 3 * 0x10) 0x20).millReg (MILL_MVQ + 3 * 0x10)).getLsbD 5 = true ∧
    (0x21 : Word).getLsbD 5 = true ∧ wfld (0x21 : Word) 6 42 * 64 + [(1 : Byte)].length ≤ 2 ^ 21 ∧ Tab.get 0 (mvAt mvCopy false).mill.mvElem 3 = 0 ∧
    Tab.get 0 (mvAt mvCopy false).mill.moved 3 = 0 ∧ (mvAt mvCopy false).dln.reqs = [] ∧ (mvAt mvCopy false).mvDesc 3 0 = (some mvCopy, false) := by decide +kernel

theorem witness_held_host_read :
    (let s : State := { s0 with vats := [(0, vatIn 0 0x10)] }
     s.host.d3 = false ∧ s.hostHeld 8 (.ctl (windowOff 0 0 0 0)) = true ∧ windowOff 0 0 0 0 + 8 ≤ 2 ^ 26 ∧ s.err.rptr = s.err.wptr) := by decide +kernel

theorem witness_fatal :
    s0.powered = true ∧ s0.inTrip = false ∧ s0.mill.doomed = false ∧ ({ s0 with mill := { s0.mill with doomed := true } } : State).mill.doomed = true ∧
    ({ s0 with mill := { s0.mill with doomed := true } } : State).inTrip = false ∧ (s0.setPstate 5).inTrip = true ∧ s0.board.sfdp = .absent ∧ s0.err.rptr = s0.err.wptr := by decide +kernel

theorem witness_hollander_waits :
    (let s := holAt .ready dCopy
     let h := entry .ready 0x7FFFC0 dCopy
     let t : State := { s with dln := { s.dln with reqs := [⟨0, 0, true, 9, 0x40, 4, some (0, 0, 0), none, false, false⟩] } }
     (s.core 0).eng.hol = [h] ∧ (match t.holReady 0 0 hopCopy with
       | some (h, d) => (let g := t.gather 0 d h.ix (h.user || d.uperm) d.total 0 h.placed []; decide (g.2.2 = (none, false)) && decide (t.movable 0 h d g.2.1 = 0) && decide (t.holReads 0 h = []))
       | none => false) = true) ∧
    (let s := holAt .ready (desc (2 ^ 11) 2 0x800000000000 0x200)
     (match s.holReady 0 0 hopCopy with
       | some (h, d) => (let g := s.gather 0 d h.ix (h.user || d.uperm) d.total 0 h.placed []
           decide (g.2.2 = (none, false)) && decide (remoteSrcs (g.2.1.take (s.movable 0 h d g.2.1)) ≠ []) && decide (s.holReads 0 h = []))
       | none => false) = true) := by decide +kernel

theorem witness_own_read_open :
    ∃ q ∈ ({ s0 with dln := { s0.dln with reqs := [reqAs 0 false none] } } : State).dln.reqs, q.core = 0 ∧ q.desc = none ∧ q.write = false := ⟨_, .head _, rfl, rfl, rfl⟩

-- witnesses of single clauses

theorem witness_poisoned_transfers :
    let o := engOp tldW [0, 16, 0]
    let p := engOp (slotW 1 1 0) [0, 16, 0]
    (let s := withEng { lq := [o], feltBad := [(0, true)] }; s.lReady 0 0 = some o ∧ ((lMoves o).flatMap (fun m => (s.core 0).eng.feltPoison m.1 m.2.2)).head?.map Prod.fst = some 0x69) ∧
    (let s := withEng { lq := [p], tileBad := [(0, true)] }; s.lReady 0 1 = some p ∧ ((lMoves p).flatMap (fun m => (s.core 0).eng.tilePoison m.2.1 m.2.2)).head?.map Prod.fst = some 0x6A) ∧
    (((withEng { tileBad := [(0, true)] }).core 0).eng.tilePoison (slotTile bldO.word * 32768) 64).head?.map Prod.fst = some 0x6A := by decide +kernel

/-- The last block of core 0's CHOUT is on its way to core 1, which takes blocks of slot 0 or of nobody. -/
def lastBlock (chain : Word) : State :=
  let b : ChainBlock := ⟨0, 1, 0, 3, 0, [], []⟩
  { s0 with transit := [b], cores := [(0, { coreAt 0x1000 with eng := { mq := [engOp (slotW 2 2 0) []], chSent := 1 } }), (1, { act := [(ENG_CHAIN, chain)] })] }

theorem witness_chain_end :
    (lastBlock 0).transit.find? (fun x => x.dst == 1) = some ⟨0, 1, 0, 3, 0, [], []⟩ ∧ (lastBlock 0).held 0 = false ∧
    splitAtOp 2 ((lastBlock 0).core 0).eng.mq = some ([], engOp (slotW 2 2 0) []) ∧ choutTotal (slotW 2 2 0) ≤ ((lastBlock 0).core 0).eng.chSent ∧
    ((lastBlock 0).core 0).eng.reamBad.isEmpty = true ∧ ((lastBlock 0).core 1).eng.chainIn = [] ∧
    (((lastBlock 0x800000).core 1).actReg ENG_CHAIN).getLsbD 23 = true ∧ wfld (((lastBlock 0x800000).core 1).actReg ENG_CHAIN) 16 6 = 0 ∧
    (((lastBlock 0).core 1).actReg ENG_CHAIN).getLsbD 23 = false := by decide +kernel

/-- Bucket 2 is REDUCED, with this role, its PARAM, and its flags in stack memory or in a held window. -/
def reduced (role param flag : Nat) : State :=
  { areaAt true tyReturn 2 param with
      mem := Mem.writeN [] (s0.bucketAddr 2) (leBytes 1 (1 + 2 * role) ++ ((areaEntry 2 param).drop 1).take 79 ++ leBytes 8 flag) }

theorem witness_return_ends :
    (let s := areaAt false tyReturn 2 0x30000
      let e := s.bucket 2
      s.bkt 2 = {} ∧ e.state = 2 ∧ e.role = roleMiddle ∧ Nat.max 1 (ceilDiv e.plen 256) = 1 ∧
      Nat.min 256 (e.plen - 0) ≤ ((chainFlitOf tyReturn 0 1).payload.take (chainFlitOf tyReturn 0 1).len).length ∧ s.target (e.flag + 8) = .stack ∧ e.flag % 8 = 0 ∧
      s.bucketAddr 2 + 128 ≤ e.flag + 8) ∧
    (let s := reduced 3 0x30000 0x60000
     let e := s.bucket 2
     e.state = 2 ∧ e.role = roleSole ∧ s.target (e.flag + 8) = .stack ∧ s.heldTarget (s.target e.flag) = false ∧ e.flag % 8 = 0 ∧ s.bucketAddr 2 + 128 ≤ e.flag + 8) ∧
    (let s := reduced 3 0x30000 0xE000000000; (s.bucket 2).role = roleSole ∧ (s.bucket 2).state = 2 ∧ s.heldTarget (s.target (s.bucket 2).flag) = true) ∧
    (let s := reduced 2 0xE000000000 0x60000; (s.bucket 2).role = roleOwner ∧ (s.bucket 2).state = 2 ∧ s.heldTarget (s.target (s.bucket 2).param) = true) := by
  decide +kernel

/-- A flit that port 5 sent before it parked stands without an acknowledgement; its device's flits go to port 6, which is UP with one credit or none. -/
def parkedSent (n : Nat) : State :=
  let s := (s0.setLink 5 (parkedLink 3)).setLink 6 (linkUp n)
  { s with dln := { s.dln with route := [(9, 0x80000006)] } }

theorem witness_rerouted :
    (∀ n ∈ [0, 1], ((parkedSent n).link 5).parked = true ∧ ((parkedSent n).link 5).state ≠ 2 ∧ (sentOpen ((parkedSent n).link 5)).map (fun f => (f.dst.toNat, f.typ.toNat)) = [(9, tyRd)]) ∧
    (parkedSent 0).routed (aFlit 9 tyRd []) = .wait ∧ (parkedSent 1).routed (aFlit 9 tyRd []) = .forward 6 0 ∧
    s0.pstate ≠ 3 ∧ (s0.setPstate 3).pstate = 3 := by decide +kernel

theorem witness_narrow_register_writes :
    plainReg 0 CORE_DTAB_SEL = true ∧ (rowAt coreMap CORE_DTAB_SEL).isSome = true ∧ (s0.core 0).stopped = false ∧ (s0.core 1).stopped = true ∧
    (rowAt coreMap CORE_EVEC).any RegRow.wide = true ∧ plainReg 0 CORE_FCTL = true ∧ ((rowAt coreMap CORE_FCTL).any RegRow.wide) = false := by decide +kernel

/-- Core 0 and its vat hold lines modified: the vat's way 2 of a slice, which is not disabled. -/
def dirtyWay : State := s0.setVat 0 { vatIn 8 1 with lines := [(wayKey 8 0 2, some ⟨0x200, true⟩)] }

theorem witness_disabled_way :
    (0xFFFF : Word).getLsbD 2 = true ∧ (dirtyWay.vat 0).wayDisabled 8 2 = false ∧ dirtyWay.upsets = [] ∧ Tab.get none (dirtyWay.vat 0).lines (wayKey 8 0 2) = some ⟨0x200, true⟩ ∧
    (vatIn 16 5).enabled = true ∧ (vatIn 16 5).busy = true ∧ (vatIn 16 4).invalidated = false ∧
    ({ s0 with mem := Mem.writeLE [] 0x8000 8 0x47 } : State).mem.readLE 0x8000 8 = 0x47 := by decide +kernel

-- worked examples of the spec

/-- The state that a command leaves. -/
def after (i : Instr) (s : State) : State := match exec i s with | .next t => t | _ => s

/-- A conversion's encoding from an FP32 encoding. -/
def cvt (f : Fmt) (rm : RMode) (ftz : Bool) (b : Nat) : Nat := (convElem f rm ftz (decodeElem .fp32 b)).bits

/-- 1/3 to N16, as "Worked conversions" gives it. -/
theorem test_third_to_n16 : cvt .n16 .nearest false 0x3EAAAAAB = 0x3EAB ∧ cvt .n16 .zero false 0x3EAAAAAB = 0x3EAA ∧
    cvt .n16 (.stoch 0x5555) false 0x3EAAAAAB = 0x3EAB ∧ cvt .n16 (.stoch 0x5554) false 0x3EAAAAAB = 0x3EAA := by decide +kernel

/-- 0.3 to N8A, from the same table. -/
theorem test_three_tenths_to_n8a : cvt .n8a .nearest false 0x3E99999A = 0x2A ∧ cvt .n8a .zero false 0x3E99999A = 0x29 ∧
    cvt .n8a (.stoch 0x5A3C) false 0x3E99999A = 0x29 ∧ cvt .n8a (.stoch 0xB001) false 0x3E99999A = 0x2A := by decide +kernel

/-- Saturation against overflow: 300 and -300 to N8A, 70,000 to FP16. -/
theorem test_saturation : cvt .n8a .nearest false 0x43960000 = 0x77 ∧ cvt .n8a .nearest false 0xC3960000 = 0xF7 ∧
    (convElem .n8a .nearest false (decodeElem .fp32 0x43960000)).flags = { satc := true, inx := true } ∧ cvt .fp16 .nearest false 0x4788B800 = 0x7C00 ∧
    (convElem .fp16 .nearest false (decodeElem .fp32 0x4788B800)).flags = { ovf := true, inx := true } := by decide +kernel

/-- The N4 ties of the same section. -/
theorem test_n4_ties : cvt .n4 .nearest false 0x40200000 = 4 ∧ cvt .n4 .nearest false 0x40A00000 = 6 ∧ cvt .n4 .nearest false 0x40E00000 = 7 ∧
    cvt .n4 .nearest false 0xBE800000 = 8 := by decide +kernel

/-- The elements of the N8A block with scale 0x82, and the third one under FTZ. -/
theorem test_n8a_block : (convScaled .n8a .nearest false 0x82 (decodeElem .fp32 0x447A0000)).bits = 0x70 ∧
    (convScaled .n8a .nearest false 0x82 (decodeElem .fp32 0x40400000)).bits = 0x2C ∧ (convScaled .n8a .nearest false 0x82 (decodeElem .fp32 0x3C23D70A)).bits = 1 ∧
    (convScaled .n8a .nearest true 0x82 (decodeElem .fp32 0x3C23D70A)).bits = 0 := by decide +kernel

/-- One tile read under FP32, N16 and N8A. -/
theorem test_tile_views :
    let m := Mem.writeN [] 0 ((List.range 4).flatMap (fun _ => leBytes 4 0x3F800000))
    (deckleOf 0).raw m 0 0 0 = 0x3F800000 ∧ (deckleOf 0x200000).epr = 8 ∧ (deckleOf 0x200000).raw m 0 0 1 = 0x3F80 ∧ (deckleOf 0x400000).epr = 16 ∧
    (deckleOf 0x400000).raw m 0 0 2 = 0x80 ∧ (deckleOf 0x400000).raw m 0 0 3 = 0x3F := by decide +kernel

/-- The two slots of "encoding a two-slot sheet". -/
theorem test_two_slot_sheet :
    let t : Word := 0xF8440077F452C000
    let m : Word := 0xFA940077F033C998
    (slotUnit t = unitL ∧ slotOp t = 0 ∧ slotDeck t = 0x40077F ∧ slotTile t = 4 ∧ lBreg t = 10 ∧ lPreg t = 11 ∧ lSreg t = 0) ∧
    (slotUnit m = unitM ∧ slotOp m = 1 ∧ slotDeck m = 0x40077F ∧ slotTile m = 0 ∧ mReam m = 0 ∧ mAcc m = true ∧ mTotal m = true ∧ mRun m = 16 ∧ mSat m = 0) ∧
    (mSwap m = true ∧ mSrow m = false ∧ mChin m = false ∧ mTok m = true ∧ mTally m = 2 ∧ mTreg m = 12) ∧ sheetForm [t, m] = true ∧ sheetBad [t, m] = false := by decide +kernel

/-- FP32 operands of 16 elements for an MMA of one row: A in tile 0, B loaded, with its first column. -/
def dot (w : Word) (a b : List (Nat × Nat)) : State :=
  let ta := a.foldl (fun m p => Mem.writeLE m (4 * p.1) 4 p.2) []
  let tb := b.foldl (fun m p => Mem.writeLE m (16 * p.1) 4 p.2) []
  withEng { mq := [engOp w [0]], tiles := ta, b0 := ⟨true, 0xF, tb⟩, nextSeq := 1, nextDry := 1 }

/-- The sticky bit at a tie. -/
theorem test_sticky_tie :
    let w := slotW 2 1 (0x300 * 2 ^ 28)
    let go := fun x => ((after (.mma 0) (dot w [(0, 0x3F800000), (1, 0x39800000), (2, x)] [(0, 0x3F800000), (1, 0x39800000), (2, 0x35800000)])).core 0).eng.reamElem 0 0 0
    go 0xB0800000 = (0x3F800001, 0) ∧ go 0 = (0x3F800000, 0) := by decide +kernel

/-- Total mode of "cancellation across three passes": passes 2 and 3, and the run's end. -/
theorem test_total_mode :
    (totalElem false true false 0x4E800000 0 (f32 0x40400000) {}).w = 0x4E800000 ∧ (totalElem false true false 0x4E800000 0 (f32 0x40400000) {}).c = 0x40400000 ∧
    (totalElem false true false 0x4E800000 0x40400000 (f32 0xCE800000) {}).w = 0 ∧ (totalElem false true false 0x4E800000 0x40400000 (f32 0xCE800000) {}).c = 0x40400000 ∧
    (totalElem false true true 0x4E800000 0x40400000 (f32 0xCE800000) {}).w = 0x40400000 ∧ (totalElem false true true 0x4E800000 0x40400000 (f32 0xCE800000) {}).c = 0 := by
  decide +kernel

/-- The bit-reversed load of the FFT: its first word, and the source addresses of both rows. -/
theorem test_fft_descriptor :
    let bs := leBytes 4 0xB40 ++ leBytes 4 8 ++ leBytes 4 2 ++ leBytes 4 0 ++ leBytes 8 0x20000000 ++ leBytes 4 16 ++ leBytes 4 128 ++ leBytes 8 3 ++
      leBytes 8 0x10000 ++ leBytes 4 0 ++ leBytes 4 128 ++ leBytes 8 0
    let d := holDescOf bs
    d.bad = false ∧ d.src.space = 1 ∧ (List.range 9).map (fun n => d.srcAddr [] n - 0x20000000) = [0, 0x40, 0x20, 0x60, 0x10, 0x50, 0x30, 0x70, 0x80] ∧
    d.dstAddr [] 1 = 0x10010 := by decide +kernel

/-- The offsets of eight FLDD in AM 5 from Gx = 3 << 32, and Gx after the eighth. -/
theorem test_fft_addressing :
    let next := fun (g : Word) => match mopUpdate (mop 1 0 5 0x300) (({} : Core).setG 3 g) 8 with | some (_, v) => v | none => 0
    let seq := (List.range 8).foldl (fun (l : List Word) _ => l ++ [next (l.getLastD 0)]) [0x300000000]
    seq.map (fun g => g.toNat % 2 ^ 32) = [0, 32, 16, 48, 8, 40, 24, 56, 0] := by decide +kernel

/-- The window offset of R284's example, with A = 8. -/
theorem test_window_place : (vatIn 8 1).place 0x01234560 = (20, 12, 1109) := by decide +kernel

/-- KVGATHER of the X-N8A element 0x2C with scale 0x7D to N16 (DFMT 2). -/
theorem test_kvgather :
    (kvGather (windowCmd 0 (vcmdOf (1 + 2 ^ 6 + 2 ^ 9) 0xE000000000 0 0 0 (12 + 2 * 2 ^ 4) 1)) ([0x2C] ++ List.replicate 15 0 ++ [0x7D])).home = [0xC0, 0x3D] := by
  decide +kernel

/-- The chain's scale raise at d1 and d2, and the owner's results. The table prints 0x06 for c2's third element, whose value there, 3 × 2^-8 at scale 2, is 0x03. -/
theorem test_scale_raise :
    (blockAdd .n8a ⟨0x80, false, [0x70, 0x3C, 0x01]⟩ 0x80 [0x6C, 0x30, 0x01]).1 = ⟨0x80, false, [0x76, 0x40, 0x02]⟩ ∧
    (blockAdd .n8a ⟨0x80, false, [0x76, 0x40, 0x02]⟩ 0x80 [0x60, 0x28, 0x03]).1 = ⟨0x81, true, [0x70, 0x39, 0x02]⟩ ∧
    blockFin .n8a (some ⟨0x81, true, [0x70, 0x39, 0x02]⟩) 0x80 [0xD8, 0x20, 0x01] = [0x43F00000, 0x40980000, 0x3CA00000] := by decide +kernel

/-- ENG_NMODE of core slot 23 in control space. -/
theorem test_control_space : coreBlock 23 + ENG_NMODE = 0x01941000 := by decide

/-- The descriptor of the top-k example, at felt offset 0x1000: S0 at 0, S1 and AUX at 0x100, OUT at 0x200. -/
def topkDesc : List Byte :=
  let stream := fun (base : Nat) => leBytes 4 1 ++ leBytes 4 base ++ leBytes 4 32 ++ leBytes 20 0
  leBytes 4 2 ++ leBytes 4 1 ++ leBytes 4 8 ++ leBytes 4 0 ++ stream 0 ++ stream 0x100 ++ stream 0x200 ++ stream 0x100 ++ leBytes 16 0 ++
  leBytes 8 (0x01 + 1 * 2 ^ 6 + 2 * 2 ^ 9) ++ leBytes 8 (0x33 + 3 * 2 ^ 32) ++ leBytes 80 0

def topkAt : State :=
  let row := fun (l : List Nat) => l.flatMap (leBytes 4)
  let felt := Mem.writeN (Mem.writeN [] 0 (row [0x3F000000, 0xBE800000, 0x40400000, 0x3E000000, 0xC0000000, 0x3F800000, 0x3F400000, 0xBF000000])) 0x100
    (row [0x3E800000, 0xC0000000, 0, 0x3E000000, 0, 0x3F800000, 0x3E800000, 0x3F000000])
  withEng { cq := [⟨0, 0, slotW 3 0 0, [0, 0, 0, 0], false, [], topkDesc, none, none⟩], felt := felt, nextSeq := 1, nextDry := 1 }

/-- Top-k with residual: the three records and the new residuals. -/
theorem test_topk :
    let f := ((after (.cal 0) topkAt).core 0).eng.felt
    (calDescOf topkDesc).bad = false ∧ (List.range 3).map (fun i => f.readLE (0x200 + 8 * i) 8) = [0xC010000000000001, 0x4040000000000002, 0xC000000000000004] ∧
    (List.range 8).map (fun i => f.readLE (0x100 + 4 * i) 4) = [0x3F400000, 0, 0, 0x3E800000, 0, 0x40000000, 0x3F800000, 0] := by decide +kernel

/-- SHA-384 of "abc", from FIPS 180-4. -/
theorem test_sha384 :
    beNat (sha384 [0x61, 0x62, 0x63]) =
      0xCB00753F45A35E8BB5A03D699AC65007272C32AB0EDED1631A8B605A43FF5BED8086072BA1E7CC2358BAECA134C825A7 := by decide +kernel

/-- The throttle of "a 700 W cap": at 702.8 W it rises from 15, at 699.4 W it stays at 16. -/
theorem test_power_cap :
    let s := (s0.setClkReg PWR_CAP 700).setClkReg PWR_THROT 15
    wfld ((after (.throttleUpdate 2811) s).clkReg PWR_THROT) 0 6 = 16 ∧
    wfld ((after (.throttleUpdate 2797) (s.setClkReg PWR_THROT 16)).clkReg PWR_THROT) 0 6 = 16 := by decide +kernel

-- instructions

/-- The value that a command leaves in a G register of core 0. -/
def gAfter (i : Instr) (l : List (Nat × Word)) (r : Nat) : Word := (after i (withG l)).greg 0 (BitVec.ofNat 5 r)

theorem test_add_wraps : gAfter (.add 0 false 3 1 2) [(1, BitVec.allOnes 64), (2, 2)] 3 = 1 ∧ gAfter (.add 0 true 3 1 2) [(1, 0x7FFFFFFF), (2, 1)] 3 = 0xFFFFFFFF80000000 := by
  decide +kernel
theorem test_sub_order : gAfter (.sub 0 false 1 1 2) [(1, 5), (2, 7)] 1 = 0xFFFFFFFFFFFFFFFE := by decide +kernel
theorem test_mulh_signs : gAfter (.mulh 0 false 3 1 2) [(1, BitVec.allOnes 64), (2, 2)] 3 = BitVec.allOnes 64 ∧ gAfter (.mulhu 0 false 3 1 2) [(1, BitVec.allOnes 64), (2, 2)] 3 = 1 := by
  decide +kernel
theorem test_div_corners : gAfter (.div 0 false 3 1 2) [(1, 7)] 3 = BitVec.allOnes 64 ∧ gAfter (.rem 0 false 3 1 2) [(1, 7)] 3 = 7 ∧
    gAfter (.div 0 true 3 1 2) [(1, 0x80000000), (2, BitVec.allOnes 64)] 3 = 0xFFFFFFFF80000000 ∧ gAfter (.div 0 false 3 1 2) [(1, -7), (2, 2)] 3 = -3 := by decide +kernel
theorem test_sra_sign : gAfter (.sra 0 false 3 1 2) [(1, BitVec.intMin 64), (2, 63)] 3 = BitVec.allOnes 64 ∧ gAfter (.srli 0 3 1 63) [(1, BitVec.intMin 64)] 3 = 1 := by decide +kernel
theorem test_clz_brev : gAfter (.clz 0 false 3 1) [] 3 = 64 ∧ gAfter (.brev 0 false 3 1) [(1, 1)] 3 = BitVec.intMin 64 ∧ gAfter (.popc 0 true 3 1) [(1, BitVec.allOnes 64)] 3 = 32 := by
  decide +kernel
theorem test_lih_keeps : gAfter (.lih 0 1 3 0xABCD) [(1, 0x1111222233334444)] 1 = 0xABCD222233334444 := by decide +kernel
theorem test_immediates : gAfter (.addi 0 3 1 0xFFFF) [(1, 1)] 3 = 0 ∧ gAfter (.ori 0 3 1 0x8000) [] 3 = 0x8000 := by decide +kernel
theorem test_jalr_same_register : ((after (.jalr 0 1 1 8) (withG [(1, 0x4000)])).core 0).pc = 0x4008 ∧ gAfter (.jalr 0 1 1 8) [(1, 0x4000)] 1 = 0x1004 := by decide +kernel
theorem test_branch : ((after (.blt 0 1 2 0xFFFF) (withG [(1, -1), (2, 1)])).core 0).pc = 0xFFC ∧ ((after (.bltu 0 1 2 0xFFFF) (withG [(1, -1), (2, 1)])).core 0).pc = 0x1004 := by
  decide +kernel
theorem test_load_wins : gAfter (.ldb 0 (mop 2 2 3 0)) [(2, 0x8000)] 2 = 0 ∧
    (after (.ldb 0 (mop 1 2 2 8)) { withG [(2, 0x8000)] with mem := [(0x8000, 0x80)] }).greg 0 1 = 0xFFFFFFFFFFFFFF80 := by decide +kernel
theorem test_store_low_bytes : (after (.sth 0 (mop 1 2 0 2)) (withG [(1, 0x123456), (2, 0x8000)])).mem = [(0x8002, 0x56), (0x8003, 0x34)] := by decide +kernel
theorem test_trap_and_eret :
    let t := after (.trap 0) (s0.updCore 0 (fun c => ({ c with act := [(CORE_EVEC, 0x7000)] } : Core).setReg CORE_ESTATE 6))
    (t.core 0).pc = 0x7000 ∧ t.creg 0 CORE_EPC = 0x1000 ∧ t.creg 0 CORE_ESTATE = 0x61 ∧ ((after (.eret 0) t).core 0).pc = 0x1000 ∧
    (after (.eret 0) t).creg 0 CORE_ESTATE = 0x66 := by decide +kernel
theorem test_syncx_activates :
    let t := after (.cwr 0 1 (BitVec.ofNat 16 (CORE_EVEC / 8))) (withG [(1, 0x9000)])
    (t.core 0).actReg CORE_EVEC = 0 ∧ ((after (.syncx 0) t).core 0).actReg CORE_EVEC = 0x9000 := by decide +kernel
theorem test_float :
    (after (.fadd 0 true 3 1 2) (s0.updCore 0 (fun c => (c.setF 1 0x3FF0000000000000).setF 2 0x4000000000000000))).freg 0 3 = 0x4008000000000000 ∧
    (after (.fdiv 0 true 3 1 2) (s0.updCore 0 (fun c => c.setF 1 0x3FF0000000000000))).freg 0 3 = 0x7FF0000000000000 := by decide +kernel
theorem test_boot_without_flash : wfld ((after (.powerUpReset {}) State.reset).millReg MILL_BSTAT) 8 8 = 1 ∧ (after (.powerUpReset {}) State.reset).bootState = 15 := by decide +kernel
theorem test_idcode : (after .idcode State.reset).outbox = [.tdo ((List.range 32).map (fun i => (0xB1D08A4B : BitVec 32).getLsbD i))] := by decide +kernel

-- well-formedness

/-- Commands that name a unit that the die does not have. -/
def illFormed : List Instr :=
  [.stackTrainingDone 8 true, .add 40 false 0 0 0, .postGrant 41, .postGrant 51, .sheetDry 36, .updateRequest 8 .clean, .commandWindowPost 42 0 0 0 0,
   .commandWindowPost 0 4 0 0 0, .commandWindowPost 0 0 32 0 0, .commandWindowPost 0 0 0 64 0, .vnop 4 0, .vnop 0 32, .nmodeWrite 42 0 0, .nmodeWrite 0 36 0] ++
  [.coreDtabDataWrite 42 0 0, .coreDtabDataWrite 0 40 0, .vatEnable 42 0, .vatEnable 0 4, .vatWaydisWrite 0 0 32 0, .rangeComplete 4, .patrolScrubStep 8 .clean, .memMapWrite 42 0,
   .linkBlock 24 (block 0 true [] false), .flitRoute 25 0, .coalescerHold 65, .moverGo 42 0 ⟨0, []⟩, .moverGo 0 4 ⟨0, []⟩, .moverBatchDone 4 [] .ok] ++
  [.takePost 42 0, .takePost 0 41, .mbxCrst 42 0, .mbxHpost 42 0 0, .mbxHpost 41 3 0, .apply 49, .swap 0, .registerWrite 42 0 8 0, .pwrCapWrite 42 0, .errRptrWrite 42 0, .clrlost 42]

/-- The command ends as `noSuchUnit`. -/
def stops (i : Instr) : Bool := match exec i State.reset with | .fault .noSuchUnit => true | _ => false

theorem test_ill_formed : illFormed.all (fun i => !i.wf && stops i) = true := by decide +kernel

theorem test_well_formed :
    [Instr.stackTrainingDone 7 true, .add 39 false 0 0 0, .postGrant 40, .postGrant 50, .sheetDry 35, .commandWindowPost 41 3 31 63 0, .flitRoute 24 0, .coalescerHold 64,
      .moverGo 41 3 ⟨0, []⟩, .mbxHpost 41 2 0, .apply 50, .swap 48].all Instr.wf = true := by decide +kernel

theorem witness_step : step { s0 with pending := [.nop 0] } = exec (.nop 0) s0 ∧ s0.pending = [] := ⟨rfl, rfl⟩

-- a boot image

/-- A directory entry (R425). -/
def dirEntry (typ index off size : Nat) : List Byte := leBytes 2 typ ++ leBytes 2 index ++ leBytes 4 0 ++ leBytes 8 off ++ leBytes 8 size ++ leBytes 8 0

/-- The start of a boot image: header, directory and die record. -/
def imgFront : List Byte :=
  (leBytes 4 0x1D085E01 ++ leBytes 2 1 ++ leBytes 2 10 ++ leBytes 8 0x4800 ++ leBytes 16 0) ++
  dirEntry 1 0 0x200 0 ++ ((List.range 4).flatMap (fun i => dirEntry 2 i 0x200 0)) ++ dirEntry 3 0 0x200 64 ++
  ((List.range 4).flatMap (fun i => dirEntry 4 i (0x300 + 4352 * i) 4352)) ++ List.replicate 160 0 ++
  (leBytes 3 0 ++ leBytes 1 0xE4 ++ leBytes 4 0x3210 ++ List.replicate 56 0)

def imgSigned : List Byte := imgFront ++ List.replicate (0x4700 - 0x240) 0

def imgDigest : Nat := 0xb485a5e6a0cc1895742c82abc262311fafa08773182ba5fe42b05810bf807ffbf0febfdde9151995a81a2992ca860fbe
def imgTrailer : List Byte :=
  [4] ++ beBytes 48 0x3bdf39db44e41a167b4df20cb4bc68f24ac95e41c5b14e176a4f335a4d60df6b16165740c39584ae34fb5f98b59c2b45 ++
  beBytes 48 0xc9d8574511310648170935fa80b1da9a045c0be2a010af378e3acdc68df664c50c4a104c2535ce38a0bc4204faa4b4d8 ++ List.replicate 31 0 ++
  beBytes 48 imgDigest ++ beBytes 48 imgDigest ++ List.replicate 32 0
def image : List Byte := imgSigned ++ imgTrailer
theorem front_length : imgFront.length = 576 := by decide +kernel
theorem signed_length : imgSigned.length = 0x4700 := by rw [imgSigned, List.length_append, front_length, List.length_replicate]
theorem trailer_length : imgTrailer.length = 256 := by decide +kernel
theorem image_length : imgLength image = 0x4800 := by decide +kernel
theorem image_trailer : trailer image = imgTrailer := by
  rw [trailer, image_length, image, List.drop_left' signed_length, List.take_of_length_le (Nat.le_of_eq trailer_length)]
theorem image_signed : signedBytes image = imgSigned := by
  rw [signedBytes, image_length, image, List.take_left' signed_length]

theorem leNat_zeros (n : Nat) : leNat (List.replicate n 0) = 0 := by
  induction n with
  | zero => rfl
  | succ n ih => rw [List.replicate_succ, leNat, ih]; rfl

theorem leAt_zeros (n o k : Nat) : leAt (List.replicate n 0) o k = 0 := by
  rw [leAt, List.drop_replicate, List.take_replicate, leNat_zeros]

/-- Bytes inside a run of zeros are zero. -/
theorem middle_zeros (a c : List Byte) (m o n : Nat) (h : a.length ≤ o) (h' : o + n ≤ a.length + m) :
    ((a ++ List.replicate m 0 ++ c).drop o).take n = List.replicate n 0 := by
  rw [List.append_assoc, List.drop_append, List.drop_eq_nil_of_le h, List.nil_append, List.drop_append, List.drop_replicate, List.take_append,
    List.take_replicate, List.length_replicate, Nat.sub_eq_zero_of_le (by omega : n ≤ m - (o - a.length)), List.take_zero, List.append_nil,
    Nat.min_eq_left (by omega)]

theorem cluster_zeros : clusRecOk (List.replicate 4352 0) = true := by
  have h : (List.range 512).all (fun i => decide (recDtab (List.replicate 4352 0) i < 2 ^ 38) && !bit (recDtab (List.replicate 4352 0) i) 32) = true := by
    rw [List.all_eq_true]; intro i _; rw [recDtab, leAt_zeros]; rfl
  have k : ∀ i, recRole (List.replicate 4352 0) i = 0 := fun i => by rw [recRole, leAt_zeros]; simp [fld]
  simp only [clusRecOk, h, k, recAddrw, recDtvalid, leAt_zeros, List.length_replicate]
  decide

theorem image_dir : imgDir image =
    ⟨1, 0, 0, 0x200, 0, 0⟩ :: ((List.range 4).map (fun i => (⟨2, i, 0, 0x200, 0, 0⟩ : Sect)) ++ ⟨3, 0, 0, 0x200, 64, 0⟩ ::
      (List.range 4).map (fun i => (⟨4, i, 0, 0x300 + 4352 * i, 4352, 0⟩ : Sect))) := by decide +kernel

theorem image_format : formatOk image = true := by decide +kernel
theorem image_die : dieRecOk ((⟨3, 0, 0, 0x200, 64, 0⟩ : Sect).bytes image) = true := by decide +kernel

theorem image_records : recordsOk image = true := by
  rw [recordsOk, image_dir]
  have h : ∀ i, i < 4 → clusRecOk ((⟨4, i, 0, 0x300 + 4352 * i, 4352, 0⟩ : Sect).bytes image) = true := fun i hi => by
    rw [Sect.bytes, image, imgSigned, middle_zeros _ _ _ _ _ (by rw [front_length]; show 576 ≤ 0x300 + 4352 * i; omega)
      (by rw [front_length]; show 0x300 + 4352 * i + 4352 ≤ _; omega), cluster_zeros]
  simp [List.range_succ, secDie, secCluster, image_die, h 0, h 1, h 2, h 3]

/-- The board whose flash holds the image, its key fused. -/
def bootBoard : Board := { sfdp := .xspi 200, primary := image, digest0 := beBytes 48 0x9a8de9cdd135593e6382e2b95ad305ba6556e4e2a14de09027e9f71b9c2920fa69c7a191930b45fa840aa1b7a0f7f0a3 }

theorem image_key : keyOk bootBoard image = true := by
  have h : sha384 (imgTrailer.take 97) = bootBoard.digest0 := by decide +kernel
  have k : imgKeyslot image = 0 := by decide +kernel
  simp only [keyOk, image_trailer, h, k]
  decide +kernel
theorem image_signature : signatureOk image (beBytes 48 imgDigest) = true := by
  rw [signatureOk, image_trailer]; decide +kernel

theorem witness_boot_image (h : sha384 imgSigned = beBytes 48 imgDigest) :
    bootBoard.sfdp ≠ .absent ∧ tooSlow bootBoard bootBoard.primary = false ∧ imgCheck bootBoard bootBoard.primary = .ok (beBytes 48 imgDigest) ∧
    imgParent bootBoard.primary = 0 := by
  refine ⟨by decide, rfl, ?_, by decide +kernel⟩
  show imgCheck bootBoard image = _
  simp [imgCheck, image_format, image_key, image_signed, h, image_signature, image_records]

end Sys2Proof.Tests
end

section
/-! The addressing modes of the M format (R202, R203): the displacement as a signed number, the bit-reversed step, and the encoding errors of every load and store that uses the mode. -/

namespace Sys2Proof.Machine

/-- The two's-complement reading of a field is the signed value of its bits. -/
theorem sext_eq_toInt {w : Nat} (hw : 0 < w) (v : Nat) : sext w v = (BitVec.ofNat w v).toInt := by
  obtain ⟨n, rfl⟩ : ∃ n, w = n + 1 := ⟨w - 1, by omega⟩
  have h2 : 2 ^ (n + 1) = 2 * 2 ^ n := by rw [Nat.pow_succ, Nat.mul_comm]
  rw [BitVec.toInt_eq_toNat_cond, BitVec.toNat_ofNat, sext, Nat.add_sub_cancel]
  simp only [h2, Nat.mul_lt_mul_left (by decide : 0 < 2)]

theorem mopDisp13_eq (m : MOp) : mopDisp13 m = m.disp.toInt := by
  rw [mopDisp13, sext_eq_toInt (by decide), BitVec.ofNat_toNat, BitVec.setWidth_eq]

theorem mopDisp8_eq (m : MOp) : mopDisp8 m = (m.disp.setWidth 8).toInt := by
  rw [mopDisp8, sext_eq_toInt (by decide), BitVec.ofNat_toNat]

theorem mopX_eq (m : MOp) : mopX m = m.disp.toNat / 2 ^ 8 % 32 := by
  show (m.disp.toNat >>> 8) % 32 = _
  rw [Nat.shiftRight_eq_div_pow]

/-- A wrapped address as a word. -/
theorem ofNat_wrap64 (x : Int) : BitVec.ofNat 64 (wrap64 x) = BitVec.ofInt 64 x :=
  BitVec.eq_of_toNat_eq (by rw [BitVec.toNat_ofNat, ← BitVec.toNat_mod_cancel, BitVec.toNat_ofInt]; rfl)

/-- The sum of a base and a signed displacement (R202). -/
theorem ofNat_wrap64_add {w : Nat} (n : Nat) (d : BitVec w) :
    BitVec.ofNat 64 (wrap64 (n + d.toInt)) = BitVec.ofNat 64 n + d.signExtend 64 := by
  rw [ofNat_wrap64, BitVec.ofInt_add, BitVec.ofInt_natCast, BitVec.signExtend]

/-- The sum of two naturals, wrapped as an address. -/
theorem ofNat_wrap64_natCast (n : Nat) : BitVec.ofNat 64 (wrap64 n) = BitVec.ofNat 64 n := by
  rw [ofNat_wrap64, BitVec.ofInt_natCast]

/-- The step of AM 4 is a remainder: by LEN, or by 2^32 when LEN is 0 (R202). -/
theorem moduloStep_cast (gx : Nat) (d : Int) :
    (moduloStep gx d : Int) = (((gx % 2 ^ 32 : Nat) : Int) + d) % (if gx / 2 ^ 32 = 0 then 2 ^ 32 else (gx / 2 ^ 32 : Nat) : Int) := by
  by_cases h : gx / 2 ^ 32 = 0
  · simp only [moduloStep, h, if_true]; exact Int.toNat_of_nonneg (Int.emod_nonneg _ (by decide))
  · simp only [moduloStep, h, if_false]; exact Int.toNat_of_nonneg (Int.emod_nonneg _ (by omega))

theorem revBits_lt (b j : Nat) : revBits b j < 2 ^ b := by
  induction b generalizing j with
  | zero => exact Nat.one_pos
  | succ b ih =>
    have := ih (j / 2)
    rcases Nat.mod_two_eq_zero_or_one j with h | h <;> rw [revBits, h, Nat.pow_succ] <;> omega

/-- Bit `i` of the reversal is bit `b - 1 - i`. -/
theorem testBit_revBits (b j i : Nat) : (revBits b j).testBit i = (decide (i < b) && j.testBit (b - 1 - i)) := by
  induction b generalizing j i with
  | zero => simp [revBits]
  | succ b ih =>
    rw [revBits, Nat.mul_comm, Nat.testBit_two_pow_mul_add _ (revBits_lt b _)]
    rcases Nat.lt_trichotomy i b with h | rfl | h
    · have e : b - i = (b - 1 - i) + 1 := by omega
      simp [h, ih, e, Nat.testBit_succ, Nat.lt_succ_of_lt h]
    · simp
    · obtain ⟨n, hn⟩ : ∃ n, i - b = n + 1 := ⟨i - b - 1, by omega⟩
      have : ¬ i < b + 1 := by omega
      have : ¬ i < b := by omega
      simp [*, Nat.testBit_succ]

/-- The model's reversal of `b` bits is that of bit vectors. -/
theorem revBits_eq_reverse (b j : Nat) : revBits b j = (BitVec.ofNat b j).reverse.toNat := by
  apply Nat.eq_of_testBit_eq
  intro i
  rw [testBit_revBits, BitVec.testBit_toNat, BitVec.getLsbD_reverse, BitVec.getMsbD_eq_getLsbD, BitVec.getLsbD_ofNat]
  by_cases h : i < b
  · have : b - 1 - i < b := by omega
    simp [h, this]
  · simp [h]

/-- The bit-reversed successor of an index of `b` bits (R203). -/
theorem revBits_succ_eq (b j : Nat) : revBits b ((revBits b j + 1) % 2 ^ b) = ((BitVec.ofNat b j).reverse + 1).reverse.toNat := by
  rw [revBits_eq_reverse b ((_ + 1) % _)]
  congr 2
  apply BitVec.eq_of_toNat_eq
  rw [revBits_eq_reverse, BitVec.toNat_ofNat, Nat.mod_mod, BitVec.toNat_add]
  simp

/-- The update of AM 5 with b from 1 to 24, for an access of 2^l bytes (R203). -/
theorem bitrevStep_eq {gx l b : Nat} (hl : l ≤ 3) (h1 : 1 ≤ b) (h24 : b ≤ 24)
    (hb : (gx / 2 ^ 32) % 32 = b ∨ (25 ≤ (gx / 2 ^ 32) % 32 ∧ b = 24)) :
    bitrevStep gx (2 ^ l) = ((BitVec.ofNat b ((gx % 2 ^ 32 / 2 ^ l) % 2 ^ b)).reverse + 1).reverse.toNat * 2 ^ l := by
  have hf : fld gx 32 5 = gx / 2 ^ 32 % 32 := congrArg (· % 32) (Nat.shiftRight_eq_div_pow gx 32)
  have hn : (if 25 ≤ gx / 2 ^ 32 % 32 then 24 else gx / 2 ^ 32 % 32) = b := by split <;> omega
  have hlt : revBits b ((revBits b (gx % 2 ^ 32 / 2 ^ l % 2 ^ b) + 1) % 2 ^ b) * 2 ^ l < 2 ^ 32 :=
    calc _ < 2 ^ b * 2 ^ l := Nat.mul_lt_mul_of_pos_right (revBits_lt _ _) (Nat.two_pow_pos l)
      _ = 2 ^ (b + l) := (Nat.pow_add 2 b l).symm
      _ ≤ 2 ^ 32 := Nat.pow_le_pow_right (by decide) (by omega)
  simp only [bitrevStep, log2size, Nat.log2_two_pow, hf, hn, if_neg (by omega : ¬ b = 0)]
  rw [Nat.mod_eq_of_lt hlt, revBits_succ_eq]

/-- AM 5 with b = 0 keeps the offset (R203). -/
theorem bitrevStep_zero {gx : Nat} (z : Nat) (h : gx / 2 ^ 32 % 32 = 0) : bitrevStep gx z = gx % 2 ^ 32 := by
  have hf : fld gx 32 5 = 0 := (congrArg (· % 32) (Nat.shiftRight_eq_div_pow gx 32)).trans h
  simp [bitrevStep, hf]

/-- AM 6 and 7, and AM 5 with a disp8, break the encoding (R202, R203). -/
theorem mopBad_of_am {m : MOp} (h : m.am = 6 ∨ m.am = 7 ∨ (m.am = 5 ∧ m.disp.setWidth 8 ≠ 0)) : mopBad m = true := by
  rcases h with h | h | ⟨h, hd⟩
  · simp [mopBad, h]
  · simp [mopBad, h]
  · have : fld m.disp.toNat 0 8 ≠ 0 := fun e => hd (BitVec.eq_of_toNat_eq (by simpa [fld] using e))
    simp [mopBad, h, this]

/-- A load in a mode that breaks the encoding raises the illegal-instruction exception. -/
theorem State.load_illegal {s : State} {k : Nat} {m : MOp} (hr : Ready s k) (hm : mopBad m = true) (z : Nat) (forced : Bool) (put : Core → Nat → Core) :
    s.instr k (bodyLoad k z forced m put) = .next (excAt s k excIllegal 0 0) :=
  State.instr_raise hr (by rw [bodyLoad, hm]; rfl)

/-- A store in a mode that breaks the encoding raises the illegal-instruction exception. -/
theorem State.store_illegal {s : State} {k : Nat} {m : MOp} (hr : Ready s k) (hm : mopBad m = true) (z : Nat) (forced : Bool) (v : Core → Nat) :
    s.instr k (bodyStore k z forced m v) = .next (excAt s k excIllegal 0 0) :=
  State.instr_raise hr (by rw [bodyStore, hm]; rfl)

/-- The index part of an address in AM 4 and 5: the low half of Gx. -/
theorem ofNat_low_half (g : Word) : BitVec.ofNat 64 (g.toNat % 2 ^ 32) = (g.setWidth 32).setWidth 64 := by
  rw [← BitVec.toNat_setWidth, BitVec.ofNat_toNat]

/-- The address in AM 0 and 3. -/
theorem mopAddr_disp13 (m : MOp) (c : Core) (z : Nat) (h : m.am = 0 ∨ m.am = 3) :
    BitVec.ofNat 64 (mopAddr m c z) = c.greg m.b.toNat + m.disp.signExtend 64 := by
  have e : mopAddr m c z = wrap64 ((c.greg m.b.toNat).toNat + mopDisp13 m) := by rcases h with h | h <;> rw [mopAddr, h] <;> rfl
  rw [e, mopDisp13_eq, ofNat_wrap64_add, BitVec.ofNat_toNat, BitVec.setWidth_eq]

/-- The address in AM 1. -/
theorem mopAddr_scaled (m : MOp) (c : Core) (z : Nat) (h : m.am = 1) :
    BitVec.ofNat 64 (mopAddr m c z) = c.greg m.b.toNat + c.greg (mopX m) * BitVec.ofNat 64 z + (m.disp.setWidth 8).signExtend 64 := by
  have e : mopAddr m c z = wrap64 (((c.greg m.b.toNat).toNat + (c.greg (mopX m)).toNat * z : Nat) + mopDisp8 m) := by rw [mopAddr, h]; rfl
  rw [e, mopDisp8_eq, ofNat_wrap64_add, BitVec.ofNat_add, BitVec.ofNat_mul]
  simp only [BitVec.ofNat_toNat, BitVec.setWidth_eq]

/-- The address in AM 4 and 5. -/
theorem mopAddr_low_half (m : MOp) (c : Core) (z : Nat) (h : m.am = 4 ∨ m.am = 5) :
    BitVec.ofNat 64 (mopAddr m c z) = c.greg m.b.toNat + ((c.greg (mopX m)).setWidth 32).setWidth 64 := by
  have e : mopAddr m c z = wrap64 ((c.greg m.b.toNat).toNat + (c.greg (mopX m)).toNat % 2 ^ 32 : Nat) := by
    rcases h with h | h <;> rw [mopAddr, h] <;> rfl
  rw [e, ofNat_wrap64_natCast, BitVec.ofNat_add, ofNat_low_half, BitVec.ofNat_toNat, BitVec.setWidth_eq]

/-- The base register's update in AM 2 and 3. -/
theorem mopUpdate_base (m : MOp) (c : Core) (z : Nat) (h : m.am = 2 ∨ m.am = 3) :
    mopUpdate m c z = some (m.b.toNat, c.greg m.b.toNat + m.disp.signExtend 64) := by
  have e : mopUpdate m c z = some (m.b.toNat, BitVec.ofNat 64 (wrap64 ((c.greg m.b.toNat).toNat + mopDisp13 m))) := by
    rcases h with h | h <;> rw [mopUpdate, h] <;> rfl
  rw [e, mopDisp13_eq, ofNat_wrap64_add, BitVec.ofNat_toNat, BitVec.setWidth_eq]

/-- The index register's update in AM 5. -/
theorem mopUpdate_bitrev (m : MOp) (c : Core) (z : Nat) (h : m.am = 5) :
    mopUpdate m c z = some (mopX m,
      BitVec.ofNat 64 ((c.greg (mopX m)).toNat / 2 ^ 32 * 2 ^ 32 + bitrevStep (c.greg (mopX m)).toNat z)) := by
  rw [mopUpdate, h]; rfl

end Sys2Proof.Machine

open Sys2Proof.Machine

/-- Settles O14: each mode's address and update is read off its equation, with AM 4's offset a remainder and AM 5's a reversed successor; and a broken mode ends a load or store before its access. -/
theorem addressingModes : Obligations.AddressingModes := by
  refine ⟨fun c m z => ?_, fun c m l b hl ham h1 h24 => ?_, fun s k m hr hm => ?_⟩
  · simp only [← mopX_eq]
    refine ⟨fun h => ⟨mopAddr_disp13 m c z (.inl h), ?_⟩, fun h => ⟨mopAddr_scaled m c z h, ?_⟩, fun h => ⟨?_, mopUpdate_base m c z (.inl h)⟩,
      fun h => ⟨mopAddr_disp13 m c z (.inr h), mopUpdate_base m c z (.inr h)⟩, fun h => ⟨mopAddr_low_half m c z (.inl h), ?_⟩,
      fun h => ⟨mopAddr_low_half m c z (.inr h), fun h0 => ?_⟩⟩
    · rw [mopUpdate, h]; rfl
    · rw [mopUpdate, h]; rfl
    · rw [mopAddr, h]; exact (BitVec.ofNat_toNat _ _).trans (BitVec.setWidth_eq _)
    · refine ⟨moduloStep (c.greg (mopX m)).toNat (mopDisp8 m), by rw [mopUpdate, h]; rfl, ?_⟩
      rw [moduloStep_cast, mopDisp8_eq, BitVec.toInt_signExtend_of_le (by decide)]
    · rw [mopUpdate_bitrev m c z h, bitrevStep_zero z h0, Nat.div_add_mod', BitVec.ofNat_toNat, BitVec.setWidth_eq]
  · simp only [← mopX_eq]
    intro hb
    have hl3 : l ≤ 3 := by simp at hl; omega
    rw [mopUpdate_bitrev m c _ ham, bitrevStep_eq hl3 h1 h24 hb]
  · have bad := mopBad_of_am hm
    have load := State.load_illegal hr bad
    have store := State.store_illegal hr bad
    simp only [List.forall_mem_cons]
    exact ⟨load .., load .., load .., load .., load .., load .., load .., load .., load .., load ..,
      store .., store .., store .., store .., store .., store .., store .., by simp⟩

end

section
/-! Whether a core runs is no business of the storage: an operation of memory, caches, translation or the error log leaves every core running, halted, held or posting as it was. So the fetch of an instruction does (R353). -/

namespace Sys2Proof.Machine

variable {s t : State} {r : Nat → RunState}

/-- Each core `j` runs, or stands still, as `r j` says. -/
def State.runsAs (r : Nat → RunState) (s : State) : Prop := ∀ j, (s.core j).run = r j

-- bookkeeping, and writes of cores

theorem State.runsAs_book (h : Book s t) (hs : s.runsAs r) : t.runsAs r := fun j => by rw [(h.core j).eq]; exact hs j

theorem State.runsAs_updCore (k : Nat) (f : Core → Core) (hf : ∀ c, (f c).run = c.run) (hs : s.runsAs r) : (s.updCore k f).runsAs r := fun j => by
  rw [State.core_updCore]
  split
  · rename_i h; rw [hf, ← h]; exact hs j
  · exact hs j

theorem State.runsAs_log (code agent unit addr detail : Nat) (hs : s.runsAs r) : (s.log code agent unit addr detail).runsAs r :=
  State.runsAs_book (State.book_log _ _ _ _ _ _) hs

theorem State.runsAs_event (k code n : Nat) (hs : s.runsAs r) : (s.event k code n).runsAs r := State.runsAs_book (State.book_event _ _ _ _) hs

theorem State.runsAs_counterOvf (g off : Nat) (hs : s.runsAs r) : (s.counterOvf g off).runsAs r := State.runsAs_book (State.book_counterOvf _ _ _) hs

theorem State.runsAs_ite {p : Prop} [Decidable p] {a b : State} (ha : a.runsAs r) (hb : b.runsAs r) : (if p then a else b).runsAs r := by
  split
  · exact ha
  · exact hb

theorem State.runsAs_ite_fst {α : Type} {p : Prop} [Decidable p] {a b : State × α} (ha : a.1.runsAs r) (hb : b.1.runsAs r) :
    (if p then a else b).1.runsAs r := by
  split
  · exact ha
  · exact hb

theorem State.runsAs_foldl {α : Type} (l : List α) (f : State → α → State) (h : ∀ t a, t.runsAs r → (f t a).runsAs r) (hs : s.runsAs r) :
    (l.foldl f s).runsAs r := List.foldlRecOn l f hs (fun t ht a _ => h t a ht)

/-- What a change of every listed entry keeps of an entry, the changed table keeps of every key. -/
theorem Tab.get_update_of_kept {β γ : Type} [DecidableEq β] (p : β → γ) (d : β) (t : Tab β) (f : Nat → β → β) (hf : ∀ k v, p (f k v) = p v) (j : Nat) :
    p (Tab.get d (Tab.update d t f) j) = p (Tab.get d t j) := by
  unfold Tab.update
  refine List.foldlRecOn (motive := fun u => p (Tab.get d u j) = p (Tab.get d t j)) _ _ rfl (fun u hu k _ => ?_)
  rw [Tab.get_set]
  split
  · rename_i h; rw [hf, h]
  · exact hu

theorem State.runsAs_update (f : Nat → Core → Core) (hf : ∀ k c, (f k c).run = c.run) (hs : s.runsAs r) :
    State.runsAs r { s with cores := Tab.update {} s.cores f } := fun j => (Tab.get_update_of_kept Core.run {} s.cores f hf j).trans (hs j)

theorem State.runsAs_bumpPort (p i n : Nat) (hs : s.runsAs r) : (s.bumpPort p i n).runsAs r := by
  unfold State.bumpPort
  split
  exact State.runsAs_ite (State.runsAs_counterOvf _ _ hs) hs

theorem State.runsAs_bumpVat (c i n : Nat) (hs : s.runsAs r) : (s.bumpVat c i n).runsAs r := by
  unfold State.bumpVat
  split
  exact State.runsAs_ite (State.runsAs_counterOvf _ _ hs) hs

-- copies of lines

theorem State.runsAs_dropCopies (line : Nat) (keep : Option Nat) (hs : s.runsAs r) : (s.dropCopies line keep).runsAs r :=
  State.runsAs_update _ (fun _ _ => by split <;> rfl) hs

theorem State.runsAs_keepCopies (line : Nat) (hs : s.runsAs r) : (s.keepCopies line).runsAs r :=
  State.runsAs_update (s := s) _ (fun _ _ => by split <;> rfl) hs

theorem State.runsAs_poisonLine (line : Nat) (hs : s.runsAs r) : (s.poisonLine line).runsAs r := State.runsAs_keepCopies line hs

-- errors of stack memory

theorem State.runsAs_errAddr (p pa : Nat) (ue : Bool) (hs : s.runsAs r) : (s.errAddr p pa ue).runsAs r := State.runsAs_ite hs hs

theorem State.runsAs_stackUe (pa code detail : Nat) (hs : s.runsAs r) : (s.stackUe pa code detail).runsAs r :=
  State.runsAs_log _ _ _ _ _ (State.runsAs_bumpPort _ _ _ (State.runsAs_errAddr _ _ _ hs))

theorem State.runsAs_poisonStack (line : Nat) (hs : s.runsAs r) : (s.poisonStack line).runsAs r := by
  unfold State.poisonStack
  split
  · exact hs
  · exact State.runsAs_keepCopies line hs

theorem State.runsAs_stackEcc (pa : Nat) (e : Ecc) (scrub : Nat) (hs : s.runsAs r) : (s.stackEcc pa e scrub).runsAs r := by
  cases e with
  | clean => exact hs
  | corrected => exact State.runsAs_bumpPort _ _ _ (State.runsAs_errAddr _ _ _ hs)
  | uncorrectable => exact State.runsAs_stackUe _ _ _ (State.runsAs_poisonStack _ hs)
  | parity => exact State.runsAs_stackUe _ _ _ (State.runsAs_poisonStack _ hs)

theorem State.runsAs_stackWrite (line : Nat) (hs : s.runsAs r) : (s.stackWrite line).1.runsAs r := by
  unfold State.stackWrite
  split
  · exact hs
  · dsimp only
    split
    · exact State.runsAs_stackUe _ _ _ hs
    · exact hs

theorem State.runsAs_loseLine (line : Nat) (hs : s.runsAs r) : (s.loseLine line).runsAs r := by
  unfold State.loseLine
  split
  · exact State.runsAs_keepCopies line hs
  · exact hs

theorem State.runsAs_stackPut (line : Nat) (hs : s.runsAs r) : (s.stackPut line).runsAs r := by
  have h := State.runsAs_stackWrite line hs
  exact State.runsAs_ite (State.runsAs_ite h (State.runsAs_loseLine _ h)) hs

-- errors of the die's own storage

theorem State.runsAs_readOut (c w line : Nat) (hs : s.runsAs r) : (s.readOut c w line).1.runsAs r := by
  unfold State.readOut
  split
  · exact hs
  · dsimp only
    split
    · exact State.runsAs_log _ _ _ _ _ (State.runsAs_bumpVat _ _ _ hs)
    · exact State.runsAs_log _ _ _ _ _ (State.runsAs_poisonLine (s := { s with upsets := _ }) line hs)
    · exact hs

theorem State.runsAs_disableWay (c sl w : Nat) (hs : s.runsAs r) : (s.disableWay c sl w).runsAs r := by
  unfold State.disableWay
  dsimp only
  split
  · exact hs
  · exact State.runsAs_log _ _ _ _ _ (State.runsAs_foldl _ _ (fun _ l h => State.runsAs_stackPut l (State.runsAs_readOut c w l h)) hs)

theorem State.runsAs_wayError (c sl w pa : Nat) (ue : Bool) (hs : s.runsAs r) : (s.wayError c sl w pa ue).runsAs r := by
  unfold State.wayError
  cases ue with
  | false =>
    have h := State.runsAs_log logSramCe 0xFF (c * 32 + sl) pa 1 (State.runsAs_bumpVat c 3 1 hs)
    simp only [Bool.false_eq_true, if_false]
    split
    · exact State.runsAs_disableWay _ _ _ h
    · exact h
  | true =>
    simp only [if_true]
    exact State.runsAs_disableWay _ _ _ (State.runsAs_log _ _ _ _ _ (State.runsAs_ite (State.runsAs_poisonLine _ hs) hs))

theorem State.runsAs_vatError (c pa : Nat) (ue : Bool) (hs : s.runsAs r) : (s.vatError c pa ue).runsAs r := by
  unfold State.vatError
  split
  · exact State.runsAs_wayError _ _ _ _ _ hs
  · split
    · exact State.runsAs_ite (State.runsAs_wayError _ _ _ _ _ hs) hs
    · exact hs

theorem State.runsAs_coreSram (k store pa : Nat) (ce : Bool) (mark : Eng → Eng) (hs : s.runsAs r) : (s.coreSram k store pa ce mark).runsAs r :=
  State.runsAs_ite (State.runsAs_log _ _ _ _ _ hs) (State.runsAs_log _ _ _ _ _ (State.runsAs_updCore _ _ (fun _ => rfl) hs))

theorem State.runsAs_l2Error (k line : Nat) (ce : Bool) (hs : s.runsAs r) : (s.l2Error k line ce).runsAs r := by
  unfold State.l2Error
  split
  · exact hs
  · exact State.runsAs_log _ _ _ _ _ (State.runsAs_updCore _ _ (fun _ => rfl) hs)
  · exact State.runsAs_ite (State.runsAs_log _ _ _ _ _ hs) (State.runsAs_log _ _ _ _ _ (State.runsAs_poisonLine _ hs))

theorem State.runsAs_logicError (unit : Nat) (ce : Bool) (hs : s.runsAs r) : (s.logicError unit ce).runsAs r :=
  State.runsAs_ite (State.runsAs_log _ _ _ _ _ hs) (State.runsAs_log logSramUe 0xFF unit (freeAddr logSramUe) 8 hs)

theorem State.runsAs_upset (l : Loc) (e : Ecc) (hs : s.runsAs r) : (s.upset l e).runsAs r := by
  refine State.runsAs_ite hs ?_
  cases l with
  | felt k u => exact State.runsAs_coreSram _ _ _ _ _ hs
  | tile k off => exact State.runsAs_coreSram _ _ _ _ _ hs
  | bbuf k off => exact State.runsAs_coreSram _ _ _ _ _ hs
  | ream k off => exact State.runsAs_coreSram _ _ _ _ _ hs
  | l2 k line => exact State.runsAs_l2Error _ _ _ hs
  | l1i k line => exact State.runsAs_log _ _ _ _ _ hs
  | l1d k line => exact State.runsAs_log _ _ _ _ _ hs
  | tlb k page => exact State.runsAs_log _ _ _ _ _ (State.runsAs_updCore _ _ (fun _ => rfl) hs)
  | vat c line => exact State.runsAs_vatError _ _ _ hs
  | stack g => exact State.runsAs_stackEcc _ _ _ hs
  | stackWrite g => exact hs
  | logic k => exact State.runsAs_logicError _ _ hs
  | mesh => exact State.runsAs_logicError _ _ hs
  | directory d => exact State.runsAs_logicError _ _ hs

theorem State.runsAs_strike (p : Loc → Bool) (hs : s.runsAs r) : (s.strike p).runsAs r :=
  State.runsAs_ite hs (State.runsAs_foldl (s := { s with upsets := _ }) _ _ (fun _ x h => State.runsAs_upset x.1 x.2 h) hs)

theorem State.runsAs_touchHit (cached : Bool) (ag line : Nat) (hs : s.runsAs r) : (s.touchHit cached ag line).runsAs r := by
  unfold State.touchHit
  split
  · split
    · exact hs
    · exact hs
  · exact hs

theorem State.runsAs_strikeMem (cached : Bool) (ag pa n : Nat) (hs : s.runsAs r) : (s.strikeMem cached ag pa n).runsAs r := by
  have h := State.runsAs_strike (s.readsOf cached ag pa n) hs
  exact State.runsAs_ite h (State.runsAs_foldl _ _ (fun _ _ ht => State.runsAs_touchHit _ _ _ ht) h)

-- coherent writes

theorem State.runsAs_writeBack (line : Nat) (hs : s.runsAs r) : (s.writeBack line).runsAs r := by
  unfold State.writeBack
  split
  · rename_i c v _
    have h := State.runsAs_stackPut line (State.runsAs_readOut c ((v.wayOf line).getD 0) line hs)
    exact State.runsAs_ite (State.runsAs_disableWay _ _ _ h) h
  · exact State.runsAs_stackPut _ (State.runsAs_strike _ hs)

theorem State.runsAs_recall (line : Nat) (hs : s.runsAs r) : (s.recall line).runsAs r :=
  State.runsAs_dropCopies line none (State.runsAs_writeBack line hs)

theorem State.runsAs_writeLine (pa : Nat) (bs : List Byte) (hs : s.runsAs r) : (s.writeLine pa bs).runsAs r := by
  have h := State.runsAs_recall (pa / 64) hs
  refine State.runsAs_ite ?_ h
  have hw := State.runsAs_stackWrite (pa / 64)
    (State.runsAs_ite (p := decide (pa % 64 = 0 ∧ bs.length = 64) = true) h (State.runsAs_strike (fun l => decide (l = .stack (pa / 64))) h))
  exact State.runsAs_ite hw hw

theorem State.runsAs_writeFelt (k off : Nat) (bs : List Byte) (hs : s.runsAs r) : (s.writeFelt k off bs).runsAs r :=
  State.runsAs_updCore _ _ (fun _ => rfl) hs

theorem State.runsAs_physWriteLine (ag pa : Nat) (bs : List Byte) (hs : s.runsAs r) : (s.physWriteLine ag pa bs).runsAs r := by
  unfold State.physWriteLine
  split
  · exact State.runsAs_writeLine pa bs hs
  · exact State.runsAs_ite (State.runsAs_ite (State.runsAs_log _ _ _ _ _ hs) (State.runsAs_writeLine pa bs hs)) hs
  · exact State.runsAs_ite (State.runsAs_writeFelt _ _ bs hs) hs
  · exact hs

theorem State.runsAs_physWriteLines (ag pa : Nat) (bs : List Byte) (n : Nat) (hs : s.runsAs r) : (s.physWriteLines ag pa bs n).runsAs r := by
  induction n generalizing s pa bs with
  | zero => exact hs
  | succ n ih => exact State.runsAs_ite hs (ih _ _ (State.runsAs_physWriteLine ag pa _ hs))

-- lines and directories

theorem State.runsAs_makeRoom (c sl set n : Nat) (hs : s.runsAs r) : (State.makeRoom c sl set n s).1.runsAs r := by
  induction n generalizing s with
  | zero => exact hs
  | succ n ih =>
    unfold State.makeRoom
    split
    · exact hs
    · dsimp only
      split
      · rename_i old _
        have h := State.runsAs_writeBack old.line hs
        split <;> split
        · exact ih h
        · exact h
        · exact ih hs
        · exact hs
      · split
        · exact ih hs
        · exact hs

theorem State.runsAs_allocate (c line : Nat) (dirty : Bool) (copy : Option (List Byte × Bool)) (hs : s.runsAs r) :
    (s.allocate c line dirty copy).1.runsAs r := by
  unfold State.allocate
  dsimp only
  split
  · exact hs
  · have h := State.runsAs_makeRoom c (lineSlice line) (lineSet line) 16 hs
    split <;> rename_i e <;> rw [e] at h <;> exact h

theorem State.runsAs_placeDirty (k c line : Nat) (hs : s.runsAs r) : (s.placeDirty k c line).runsAs r := by
  unfold State.placeDirty
  split
  · exact State.runsAs_ite (State.runsAs_log _ _ _ _ _ hs) hs
  · refine State.runsAs_ite ?_ (State.runsAs_stackPut _ hs)
    have h := State.runsAs_allocate c line true none hs
    split <;> rename_i e <;> rw [e] at h
    · exact h
    · exact State.runsAs_stackPut _ h

theorem State.runsAs_presence (line : Nat) (hs : s.runsAs r) : (s.presence line).runsAs r := by
  refine State.runsAs_ite hs ?_
  have h := State.runsAs_strike (fun x => decide (x = .directory (8 + (s.portOf (line * 64)).1))) hs
  dsimp only
  split
  · exact State.runsAs_recall _ h
  · exact h

theorem State.runsAs_directory (k line : Nat) (hs : s.runsAs r) : (s.directory k line).runsAs r := by
  refine State.runsAs_ite hs ?_
  have h := State.runsAs_strike (fun x => decide (x = .directory (clusterOf k))) hs
  dsimp only
  split
  · rename_i l _
    have hl := State.runsAs_strike (fun x => (List.range 9).any (fun i => decide (x = .l2 (9 * clusterOf k + i) l))) h
    have hu := State.runsAs_update
      (fun j x => if j < 36 ∧ clusterOf j = clusterOf k then { x with l2 := Tab.set none x.l2 l none } else x) (fun j x => by split <;> rfl) hl
    split
    · exact State.runsAs_placeDirty (s := { State.strike _ _ with free := _, cores := _ }) _ _ _ hu
    · exact hu
  · exact h

theorem State.runsAs_l1dLoad (k line : Nat) (hs : s.runsAs r) : (s.l1dLoad k line).runsAs r :=
  State.runsAs_updCore _ _ (fun _ => rfl) (State.runsAs_ite hs (State.runsAs_event k 0x06 1 hs))

theorem State.runsAs_cacheLoad (k pa : Nat) (data : Bool) (hs : s.runsAs r) : (s.cacheLoad k pa data).runsAs r := by
  refine State.runsAs_ite (State.runsAs_ite (State.runsAs_l1dLoad _ _ hs) hs) ?_
  have h := State.runsAs_presence (pa / 64) (State.runsAs_directory k (pa / 64) hs)
  have hc := fun f hf => State.runsAs_updCore k f hf h
  have he := fun f hf => State.runsAs_ite (p := data = true) (State.runsAs_event k 0x07 1 (State.runsAs_l1dLoad k (pa / 64) (hc f hf)))
    (State.runsAs_event k 0x07 1 (hc f hf))
  exact State.runsAs_ite (he _ (fun _ => rfl)) (he _ (fun _ => rfl))

-- translation and fetch

theorem State.runsAs_walkRead (k a : Nat) (hs : s.runsAs r) : (s.walkRead k a).runsAs r := by
  have h := State.runsAs_strikeMem true k a 8 hs
  unfold State.walkRead
  dsimp only
  split
  · exact State.runsAs_cacheLoad _ _ _ h
  · exact State.runsAs_ite (State.runsAs_cacheLoad _ _ _ h) h
  · exact h

theorem State.runsAs_walkFrom (real : Bool) (k : Nat) (ctx : Nat × Nat × Nat) (v fuel level base : Nat) (acc : List WalkEntry) (hs : s.runsAs r) :
    (walkFrom real k ctx v s fuel level base acc).1.runsAs r := by
  induction fuel generalizing s level base acc with
  | zero => exact hs
  | succ fuel ih =>
    have h : State.runsAs r (if real = true then s.walkRead k (base + walkIndex ctx.2.1 v level * 8) else s) :=
      State.runsAs_ite (State.runsAs_walkRead k _ hs) hs
    exact State.runsAs_ite_fst hs (State.runsAs_ite_fst hs (State.runsAs_ite_fst h (State.runsAs_ite_fst h (State.runsAs_ite_fst
      (State.runsAs_ite_fst h h) (State.runsAs_ite_fst h (ih _ _ _ h))))))

theorem State.runsAs_walk (real : Bool) (k v : Nat) (hs : s.runsAs r) : (s.walk real k v).1.runsAs r := by
  unfold State.walk
  dsimp only
  split
  · exact State.runsAs_walkFrom _ _ _ _ _ _ _ _ hs
  · exact State.runsAs_walkFrom _ _ _ _ _ _ _ _ hs

theorem Core.run_fillL1 (c : Core) (kind : AccKind) (hol : Bool) (t : TlbEntry) : (c.fillL1 kind hol t).run = c.run := by
  unfold Core.fillL1
  split
  · rfl
  · split <;> rfl

theorem Core.run_fillLeaf (c : Core) (p : Prop) [Decidable p] (kind : AccKind) (hol : Bool) (x y : TlbEntry) :
    (if p then (c.fillL2 x).fillL1 kind hol y else c).run = c.run := by
  split
  · exact Core.run_fillL1 _ _ _ _
  · rfl

theorem State.runsAs_xlatCached (k v asid : Nat) (kind : AccKind) (user : Bool) (mode : XMode) (hol : Bool) (hs : s.runsAs r) :
    ∀ x ∈ s.xlatCached k v asid kind user mode hol, x.1.runsAs r := by
  intro x hx
  unfold State.xlatCached at hx
  dsimp only at hx
  split at hx
  · cases hx; exact hs
  · split at hx
    · cases hx; exact State.runsAs_ite (State.runsAs_updCore _ _ (fun c => Core.run_fillL1 c _ _ _) hs) hs
    · cases hx

theorem State.runsAs_xlatWalks (k v asid : Nat) (kind : AccKind) (user : Bool) (mode : XMode) (hol : Bool) (fuel : Nat) (hs : s.runsAs r) :
    (State.xlatWalks k v asid kind user mode hol fuel s).1.runsAs r := by
  induction fuel generalizing s with
  | zero => exact hs
  | succ fuel ih =>
    have he : State.runsAs r (if mode.counts = true then s.event k 0x09 1 else s) := State.runsAs_ite (State.runsAs_event _ _ _ hs) hs
    have hw := State.runsAs_walk mode.reads k v he
    unfold State.xlatWalks
    dsimp only
    split <;> rename_i e <;> rw [e] at hw
    · exact hw
    · exact hw
    · exact State.runsAs_ite_fst hw (State.runsAs_ite_fst hw (State.runsAs_ite_fst (ih (State.runsAs_recall _ hw))
        (State.runsAs_updCore _ _ (fun c => Core.run_fillLeaf c _ _ _ _ _) (State.runsAs_ite (State.runsAs_physWriteLines _ _ _ _ hw) hw))))

theorem State.runsAs_strikeTlb (k v asid : Nat) (kind : AccKind) (hol : Bool) (hs : s.runsAs r) : (s.strikeTlb k v asid kind hol).runsAs r :=
  State.runsAs_ite (State.runsAs_strike _ hs) hs

theorem State.runsAs_xlat (k : Nat) (va : Word) (kind : AccKind) (user : Bool) (mode : XMode) (hol : Bool) (hs : s.runsAs r) :
    (s.xlat k va kind user mode hol).1.runsAs r := by
  refine State.runsAs_ite_fst (State.runsAs_ite_fst hs (State.runsAs_ite_fst hs hs)) (State.runsAs_ite_fst hs ?_)
  split
  · exact hs
  · have he := State.runsAs_ite
      (p := (mode = .act ∨ mode = .read) ∧ hol = false ∧ kind ≠ .fetch ∧ (s.core k).dtlbMiss (wfld ((s.core k).actReg CORE_TCTL) 16 16) va.toNat = true)
      (State.runsAs_event k 0x08 1 hs) hs
    have ht := State.runsAs_ite (p := mode.reads = true) (State.runsAs_strikeTlb k va.toNat (wfld ((s.core k).actReg CORE_TCTL) 16 16) kind hol he) he
    dsimp only
    split
    · rename_i x hx
      exact State.runsAs_xlatCached _ _ _ _ _ _ _ ht x hx
    · exact State.runsAs_xlatWalks _ _ _ _ _ _ _ _ ht

theorem State.runsAs_fetch (k : Nat) (va : Word) (hs : s.runsAs r) (h : s.fetch k va = .ok t) : t.runsAs r := by
  have hx := State.runsAs_xlat k va .fetch (!(s.core k).sup) .act false hs
  unfold State.fetch at h
  split at h <;> rename_i e <;> rw [e] at hx
  · cases h
  · cases h
  · dsimp only at h
    split at h
    · cases h
    · split at h
      · cases h
      · cases h
        have hm := fun c p n => State.runsAs_strikeMem c k p n (State.runsAs_strike (fun l => decide (l = .l1i k (p / 64))) hx)
        exact State.runsAs_ite (State.runsAs_cacheLoad _ _ _ (hm _ _ _)) (hm _ _ _)

/-- A core that is ready still runs when its instruction executes. -/
theorem begun_running {s : State} {k : Nat} (h : Ready s k) : ((begun s k).core k).run = .running := by
  obtain ⟨-, hc, ⟨u, hu⟩, -⟩ := h
  have hrun : (s.core k).run = .running := by simp [State.canRun] at hc; exact hc.1.1.1
  have hk := State.runsAs_strike (fun l => decide (l = .logic k)) (State.runsAs_fetch (r := fun j => (s.core j).run) k _ (fun _ => rfl) hu)
  rw [begun, hu, ← hrun]
  exact hk k

end Sys2Proof.Machine
end

section
/-! A core's reads and writes of its own registers (R205 to R207): what a CWR stores, which writes do nothing, and what only counts. -/

namespace Sys2Proof.Machine

variable {s t u : State} {k : Nat}

-- the frame of an instruction

/-- A body that answers ends in its retirement. -/
theorem State.instr_ok {f : State → Res (Option Word)} {target : Option Word} (hr : Ready s k) (hb : f (begun s k) = .ok u target) :
    s.instr k f = .next (u.retire k target 1) := by
  simp [State.instr, hr.lt, State.runInstr, State.runFrame_ready hr, hb, Res.bind]

theorem SameCore.goAt {c d : Core} (h : SameCore c d) (p : Word) : SameCore { c with pc := p, dbgStep := false } { d with pc := p, dbgStep := false } := by
  refine ⟨?_, h.2⟩
  rw [h.eq]

/-- Where a core goes on is no bookkeeping of another's. -/
theorem Book.goNext (h : Book s t) (k : Nat) : Book (goNext s k) (goNext t k) := by
  have hpc := h.pc k
  obtain ⟨hc, hp, hr, hw, he, hf, hl, hs⟩ := h
  refine ⟨fun j => ?_, hp, hr, hw, he, hf, hl, ?_⟩
  · unfold Machine.goNext Machine.goAt
    rw [State.core_updCore, State.core_updCore, hpc]
    split
    · exact (hc k).goAt _
    · exact hc j
  · cases s; cases t; simp_all [Machine.goNext, Machine.goAt, State.updCore, State.setCore]

/-- A body that changes only bookkeeping of `u`, and answers, goes on from `u`. -/
theorem State.runs_book {f : State → Res (Option Word)} {v : State} (hr : Ready s k) (hb : f (begun s k) = .ok v none) (hv : Book u v) :
    ∃ t, s.instr k f = .next t ∧ Book (goNext u k) t :=
  ⟨_, State.instr_ok hr hb, (hv.goNext k).trans (v.book_retire k none 1)⟩

-- the log and the counters leave the other registers alone

theorem State.core_out (s : State) (m : OutMsg) (j : Nat) : (s.out m).core j = s.core j := by
  unfold State.out; split <;> rfl

theorem State.core_setErr (s : State) (e : Err) (j : Nat) : (s.setErr e).core j = s.core j := by
  unfold State.setErr
  split
  · rfl
  · exact State.core_out _ _ _

theorem State.core_msix (s : State) (v j : Nat) : (s.msix v).core j = s.core j := by
  unfold State.msix
  split
  · split
    · rfl
    · exact State.core_out _ _ _
  · rfl

theorem State.core_logOnce (s : State) (code agent unit addr detail j : Nat) : (s.logOnce code agent unit addr detail).1.core j = s.core j := by
  unfold State.logOnce
  split
  · exact State.core_setErr _ _ _
  · split
    · exact State.core_setErr _ _ _
    · rw [State.core_msix, State.core_setErr]

theorem State.creg_irq (s : State) (a src j : Nat) {off : Nat} (h : off ≠ CORE_IPEND) : (s.irq a src).creg j off = s.creg j off := by
  unfold State.irq
  split
  · exact (State.creg_setCreg s a j CORE_IPEND off _).trans (if_neg (fun e => h e.2))
  · rfl

theorem State.creg_log (s : State) (code agent unit addr detail j : Nat) {off : Nat} (h : off ≠ CORE_IPEND) :
    (s.log code agent unit addr detail).creg j off = s.creg j off := by
  have h1 := State.core_logOnce s code agent unit addr detail j
  unfold State.log
  generalize s.logOnce code agent unit addr detail = p at h1
  obtain ⟨t, new⟩ := p
  dsimp only at h1 ⊢
  have ht : t.creg j off = s.creg j off := by unfold State.creg; rw [h1]
  split
  · exact (congrArg (fun c => Core.reg c off) (State.core_logOnce _ _ _ _ _ _ _)).trans ((State.creg_irq t _ _ _ h).trans ht)
  · exact ht

theorem State.creg_counterOvf (s : State) (g a j : Nat) {off : Nat} (h : off ≠ CORE_IPEND) : (s.counterOvf g a).creg j off = s.creg j off := by
  unfold State.counterOvf
  split
  · rw [State.creg_log _ _ _ _ _ _ _ h, State.creg_irq _ _ _ _ h]
  · rfl

theorem State.creg_bumpCore (s : State) (k g cnt ovf b n j : Nat) {off : Nat} (h : off ≠ CORE_IPEND) (h1 : off ≠ cnt) (h2 : off ≠ ovf) :
    (s.bumpCore k g cnt ovf b n).creg j off = s.creg j off := by
  unfold State.bumpCore
  have hb := bump_other (s.core k).regs cnt ovf b n off (coreReset off) h1 h2
  generalize bump (s.core k).regs cnt ovf b n = p at hb
  obtain ⟨regs, new⟩ := p
  have hu : (s.updCore k (fun c => { c with regs := regs })).creg j off = s.creg j off := by
    unfold State.creg
    rw [State.core_updCore]
    split
    · rename_i e; rw [e]; exact hb
    · rfl
  dsimp only
  split
  · rw [State.creg_counterOvf _ _ _ _ h, hu]
  · exact hu

/-- Counting an event changes the event counters, their control register and CORE_IPEND alone. -/
theorem State.creg_event (s : State) (k code n j : Nat) {off : Nat} (h : off ≠ CORE_IPEND) (h1 : off ≠ CORE_EVCTL)
    (h2 : ∀ i, i < 4 → off ≠ CORE_EVCNT + 8 * i) : (s.event k code n).creg j off = s.creg j off := by
  unfold State.event
  refine List.foldlRecOn (motive := fun (t : State) => t.creg j off = s.creg j off) _ _ rfl (fun t ht i hi => ?_)
  split
  · rw [State.creg_bumpCore _ _ _ _ _ _ _ _ h (h2 i (by simpa using hi)) h1, ht]
  · exact ht

/-- The hollander's counters do not count the retirement of an instruction. -/
theorem State.creg_retire_hol (s : State) (k : Nat) (target : Option Word) (uops j : Nat) {off : Nat} (h : off ∈ [HOL_BYTES, HOL_RAUSE, HOL_RADROP]) :
    (s.retire k target uops).creg j off = s.creg j off := by
  have hr : HOL_BYTES ≤ off ∧ off ≤ HOL_RADROP := by
    simp only [List.mem_cons, List.not_mem_nil, or_false] at h
    rcases h with rfl | rfl | rfl <;> decide
  simp only [HOL_BYTES, HOL_RADROP] at hr
  unfold State.retire
  rw [State.creg_event _ _ _ _ _ (by simp only [CORE_IPEND]; omega) (by simp only [CORE_EVCTL]; omega) (fun i _ => by simp only [CORE_EVCNT]; omega)]
  unfold State.creg
  rw [State.core_updCore]
  split
  · rename_i e; rw [e]; rfl
  · rfl

-- the clearing of counters

theorem clearCounters_other (d : Word) (regs : Regs) (offs : List Nat) {q : Nat} (h : q ∉ offs) : Tab.get d (clearCounters regs offs) q = Tab.get d regs q :=
  List.foldlRecOn (motive := fun (u : Regs) => Tab.get d u q = Tab.get d regs q) offs _ rfl
    (fun _ hu _ ho => (Tab.get_set_ne _ _ _ _ (fun e => h (by rw [e]; exact ho))).trans hu)

theorem clearCounters_mem (regs : Regs) (offs : List Nat) {q : Nat} (h : q ∈ offs) : Tab.get 0 (clearCounters regs offs) q = 0 := by
  induction offs generalizing regs with
  | nil => cases h
  | cons o offs ih =>
    by_cases hq : q ∈ offs
    · exact ih _ hq
    · obtain rfl : q = o := (List.mem_cons.mp h).resolve_right hq
      exact (clearCounters_other 0 _ offs hq).trans (Tab.get_set_self _ _ _ _)

/-- HOL_CNTCTL.CLEAR is bookkeeping (R281). -/
theorem Core.same_holClear (c : Core) : SameCore c c.holClear := by
  refine SameCore.setRegs _ _ (fun off h => clearCounters_other _ _ _ (fun hm => h ?_))
  have : ∀ o ∈ [HOL_BYTES, HOL_RAUSE, HOL_RADROP, HOL_CNTCTL], o ∈ bookRegs := by decide
  exact this off hm

theorem Core.reg_holClear (c : Core) {off : Nat} (h : off ∈ [HOL_BYTES, HOL_RAUSE, HOL_RADROP]) : c.holClear.reg off = 0 := by
  have h0 : ∀ o ∈ [HOL_BYTES, HOL_RAUSE, HOL_RADROP], coreReset o = 0 := by decide
  unfold Core.reg
  rw [h0 off h]
  exact clearCounters_mem _ _ (List.mem_append_left [HOL_CNTCTL] h)

-- what a CWR stores

/-- The bits that a CWR writes: the low half of a 32-bit register. -/
def cwrMask (off : Nat) : Word := if wideAt coreMap off then 0xFFFFFFFFFFFFFFFF else 0xFFFFFFFF

/-- The registers of a core's block whose writes have an effect of their own. -/
def effectRegs : List Nat :=
  [ENG_NMODE, ENG_RNG, ENG_SROW, ENG_FCTL, ENG_CSUMQ, HOL_CNTCTL, CORE_EVCTL, CORE_DTAB_DATA, CORE_TLBI, CORE_TLOCK, CORE_TPROBE]

theorem numericMode_of_plain {off : Nat} (h : off ∉ effectRegs) : numericMode off = false := by
  simp only [effectRegs, List.mem_cons, not_or] at h
  simp [numericMode, h]

/-- No writable bit of a register lies outside what a CWR writes of it. -/
theorem coreMap_masks {off : Nat} {row : RegRow} (h : rowAt coreMap off = some row) :
    row.rw &&& cwrMask off = row.rw ∧ row.w1c &&& cwrMask off = row.w1c ∧ row.w1s &&& cwrMask off = row.w1s := by
  have all : ∀ x ∈ coreMap, x.wide = false →
      x.rw &&& 0xFFFFFFFF = x.rw ∧ x.w1c &&& 0xFFFFFFFF = x.w1c ∧ x.w1s &&& 0xFFFFFFFF = x.w1s := by decide
  have hm : row ∈ coreMap := List.mem_of_find?_eq_some h
  have hw : wideAt coreMap off = row.wide := by rw [wideAt, h]
  rw [cwrMask, hw]
  cases hwide : row.wide with
  | false => exact all row hm hwide
  | true => exact ⟨BitVec.and_allOnes, BitVec.and_allOnes, BitVec.and_allOnes⟩

/-- A write of all the bits that a CWR writes (R7). -/
theorem RegRow.write_masked (row : RegRow) (old v m : Word) (hrw : row.rw &&& m = row.rw) (hc : row.w1c &&& m = row.w1c) (hs : row.w1s &&& m = row.w1s) :
    row.write old (v &&& m) m = (((old &&& ~~~row.rw) ||| (v &&& row.rw)) &&& ~~~(v &&& row.w1c)) ||| (v &&& row.w1s) := by
  have low : ∀ x : Word, x &&& m = x → v &&& m &&& x = v &&& x := fun x hx => by rw [BitVec.and_assoc, BitVec.and_comm m, hx]
  unfold RegRow.write
  simp only [hrw, low _ hrw, BitVec.and_assoc _ m m, BitVec.and_self, low _ hc, low _ hs]

/-- A write to a register without an effect of its own stores by its row's masks. -/
theorem State.coreWrite_generic (cwr : Bool) (ag : Nat) {off : Nat} (v mask : Word) (hk : (!isSlot k && isEngineReg off) = false)
    (he : off ∉ effectRegs) (hsel : off ≠ CORE_DTAB_SEL) : s.coreWrite cwr ag k off v mask = s.updCore k (fun c => c.writeReg off v mask) := by
  simp only [effectRegs, List.mem_cons, List.not_mem_nil, or_false, not_or] at he
  obtain ⟨h1, h2, h3, h4, h5, h6, h7, h8, h9, h10, h11⟩ := he
  simp only [State.coreWrite, hk, h1, h2, h3, h4, h5, h6, h7, h8, h9, h10, h11, hsel, or_self, Bool.false_eq_true, if_false]

/-- A core without engines ignores a write to a register of theirs (R397). -/
theorem State.coreWrite_noEngines (cwr : Bool) (ag : Nat) {off : Nat} (v mask : Word) (hk : isSlot k = false) (he : isEngineReg off = true) :
    s.coreWrite cwr ag k off v mask = s := by
  simp only [State.coreWrite, hk, he, Bool.not_false, Bool.and_self, if_true]

theorem State.coreWrite_fctl (cwr : Bool) (ag : Nat) (v mask : Word) (hk : isSlot k = true) :
    s.coreWrite cwr ag k ENG_FCTL v mask = s.writeFctl k (v.getLsbD 1) (v.getLsbD 0) := by
  unfold State.coreWrite; rw [hk]; rfl

theorem State.coreWrite_csumq (cwr : Bool) (ag : Nat) (v mask : Word) (hk : isSlot k = true) :
    s.coreWrite cwr ag k ENG_CSUMQ v mask = if v.getLsbD 31 then s.csumClear ag k v.toNat else s := by
  unfold State.coreWrite; rw [hk]; rfl

theorem State.coreWrite_holCntctl (cwr : Bool) (ag : Nat) (v mask : Word) (hk : isSlot k = true) :
    s.coreWrite cwr ag k HOL_CNTCTL v mask = if v.getLsbD 8 then s.updCore k Core.holClear else s := by
  unfold State.coreWrite; rw [hk]; rfl

/-- A running core's summary queue stays: its clearing is refused, and logged. -/
theorem State.book_csumClear (ag v : Nat) (h : (s.core k).run = .running) : Book s (s.csumClear ag k v) := by
  have hw : (s.core k).modeWritable = false := by simp [Core.modeWritable, Core.stopped, h]
  unfold State.csumClear
  rw [hw]
  exact State.book_log _ _ _ _ _ _

/-- A write of ENG_FCTL changes the core's record and sheets, and counts the run-ahead data that goes (R238, R281). -/
theorem State.book_writeFctl (s : State) (k : Nat) (discard resume : Bool) :
    Book (s.updCore k (fun c => c.writeFctl discard resume)) (s.writeFctl k discard resume) := by
  unfold State.writeFctl
  generalize (if ((s.core k).frecValid && discard) = true then (s.core k).eng.aheadReads else 0) = n
  dsimp only
  split
  · exact Book.refl _
  · exact State.book_bumpHol _ k 2 _ (by decide)

-- CRD and CWR in user mode

/-- In user mode CRD and CWR may name the offsets 0x1000 to 0x1FFF (R206). -/
theorem regAllowed_user {c : Core} (h : c.sup = false) (off : Nat) : regAllowed c off = (decide (0x1000 ≤ off) && decide (off < 0x2000)) := by
  rw [regAllowed, h, Bool.false_or]

theorem bodyCwr_refused {g : Reg} {n : BitVec 16} (h : regAllowed (s.core k) (n.toNat * 8) = false) : bodyCwr k g n s = .exc s excPriv 0 0 := by
  unfold bodyCwr; dsimp only; rw [h]; rfl

theorem bodyCrd_refused {d : Reg} {n : BitVec 16} (h : regAllowed (s.core k) (n.toNat * 8) = false) : bodyCrd k d n s = .exc s excPriv 0 0 := by
  unfold bodyCrd; dsimp only; rw [h]; rfl

theorem bodyCrd_allowed {d : Reg} {n : BitVec 16} (h : regAllowed (s.core k) (n.toNat * 8) = true) :
    bodyCrd k d n s = .ok (s.setG k d (s.coreRead k (n.toNat * 8))) none := by
  unfold bodyCrd; dsimp only; rw [h]; rfl

theorem bodyCwr_numericMode {g : Reg} {n : BitVec 16} (h : regAllowed (s.core k) (n.toNat * 8) = true) (hk : isSlot k = true)
    (hn : numericMode (n.toNat * 8) = true) : bodyCwr k g n s = .exc s excIllegal 0 0 := by
  unfold bodyCwr; dsimp only; rw [h, hk, hn]; rfl

/-- From 0x1000 on no CWR waits: the registers that can make it wait stand below. -/
theorem bodyCwr_writes {g : Reg} {n : BitVec 16} (h : regAllowed (s.core k) (n.toNat * 8) = true) (hlo : 0x1000 ≤ n.toNat * 8)
    (hn : (isSlot k && numericMode (n.toNat * 8)) = false) :
    bodyCwr k g n s = .ok (s.coreWrite true k k (n.toNat * 8) (s.greg k g &&& cwrMask (n.toNat * 8)) (cwrMask (n.toNat * 8))) none := by
  have h1 : n.toNat * 8 ≠ CORE_TLBI := by simp only [CORE_TLBI]; omega
  have h2 : n.toNat * 8 ≠ CORE_TPROBE := by simp only [CORE_TPROBE]; omega
  have h3 : n.toNat * 8 ≠ CORE_TLOCK := by simp only [CORE_TLOCK]; omega
  simp only [bodyCwr, h, hn, h1, h2, h3, cwrMask, false_and, Bool.not_true, Bool.false_eq_true, if_false]

/-- CRD reads a register of the core that its mode allows. -/
theorem crd_reads {d : Reg} {n : BitVec 16} (hr : Ready s k) (h : regAllowed ((begun s k).core k) (n.toNat * 8) = true) :
    Runs (.crd k d n) s (goNext ((begun s k).setG k d ((begun s k).coreRead k (n.toNat * 8))) k) :=
  State.runs_book hr (bodyCrd_allowed h) (Book.refl _)

/-- A CWR of the plain registers from 0x1000 on stores by the register's masks. -/
theorem cwrStores_of_plain {g : Reg} {n : BitVec 16} (hr : Ready s k) (h : regAllowed ((begun s k).core k) (n.toNat * 8) = true)
    (hlo : 0x1000 ≤ n.toNat * 8) (hp : plainReg k (n.toNat * 8) = true) : CwrStores s k g n := by
  obtain ⟨⟨hsome, hk⟩, he⟩ : ((rowAt coreMap (n.toNat * 8)).isSome = true ∧ (isSlot k || !isEngineReg (n.toNat * 8)) = true) ∧
      n.toNat * 8 ∉ effectRegs := by
    simpa only [plainReg, effectRegs, Bool.and_eq_true, Bool.not_eq_true', List.contains_eq_mem, decide_eq_false_iff_not] using hp
  obtain ⟨row, hrow⟩ := Option.isSome_iff_exists.mp hsome
  have hk' : (!isSlot k && isEngineReg (n.toNat * 8)) = false := by
    cases hi : isSlot k with
    | true => rfl
    | false => simpa [hi] using hk
  have hsel : n.toNat * 8 ≠ CORE_DTAB_SEL := by simp only [CORE_DTAB_SEL]; omega
  have hb := bodyCwr_writes (g := g) h hlo (by rw [numericMode_of_plain he, Bool.and_false])
  rw [State.coreWrite_generic _ _ _ _ hk' he hsel] at hb
  obtain ⟨hrw, hc, hs⟩ := coreMap_masks hrow
  refine ⟨_, ((begun s k).core k).writeReg (n.toNat * 8) _ _, State.instr_ok hr hb, State.book_retire _ k none 1, fun row' h' => ?_, fun o ho => ?_, ?_⟩
  · obtain rfl : row = row' := Option.some.inj (hrow.symm.trans h')
    simp only [Core.writeReg, hrow, Core.reg_setReg_self]
    exact row.write_masked _ _ _ hrw hc hs
  · simp only [Core.writeReg, hrow, Core.reg_setReg, if_neg ho]; rfl
  · simp only [Core.writeReg, hrow]; rfl

/-- A CWR of an offset without a register, or of a register that core `k` has not, does nothing (R205, R397). -/
theorem cwr_ignored {g : Reg} {n : BitVec 16} (hr : Ready s k) (h : regAllowed ((begun s k).core k) (n.toNat * 8) = true) (hlo : 0x1000 ≤ n.toNat * 8)
    (ho : rowAt coreMap (n.toNat * 8) = none ∨ (isSlot k = false ∧ isEngineReg (n.toNat * 8) = true)) :
    Runs (.cwr k g n) s (goNext (begun s k) k) := by
  by_cases hk : (!isSlot k && isEngineReg (n.toNat * 8)) = true
  · obtain ⟨hk, he⟩ : isSlot k = false ∧ isEngineReg (n.toNat * 8) = true := by simpa using hk
    have hb := bodyCwr_writes (g := g) h hlo (by rw [hk, Bool.false_and])
    rw [State.coreWrite_noEngines _ _ _ _ hk he] at hb
    exact State.runs_book hr hb (Book.refl _)
  · have hrow : rowAt coreMap (n.toNat * 8) = none := ho.resolve_right (fun ⟨h1, h2⟩ => hk (by rw [h1, h2]; rfl))
    have he : n.toNat * 8 ∉ effectRegs := by
      have all : ∀ o ∈ effectRegs, rowAt coreMap o ≠ none := by decide
      exact fun hm => all _ hm hrow
    have hsel : n.toNat * 8 ≠ CORE_DTAB_SEL := by simp only [CORE_DTAB_SEL]; omega
    have hb := bodyCwr_writes (g := g) h hlo (by rw [numericMode_of_plain he, Bool.and_false])
    rw [State.coreWrite_generic _ _ _ _ (Bool.eq_false_iff.mpr hk) he hsel] at hb
    refine State.runs_book hr hb (Book.ofRegs _ k _ ?_)
    simp only [Core.writeReg, hrow]
    exact SameCore.rfl' _

/-- A CWR of ENG_CSUMQ leaves the summary queue: the core that executes it is not halted. -/
theorem cwr_csumq {g : Reg} {n : BitVec 16} (hr : Ready s k) (h : regAllowed ((begun s k).core k) (n.toNat * 8) = true) (hn : n.toNat * 8 = ENG_CSUMQ) :
    Runs (.cwr k g n) s (goNext (begun s k) k) := by
  by_cases hk : isSlot k = true
  · have hb := bodyCwr_writes (g := g) h (by rw [hn]; decide) (by rw [hn, hk]; rfl)
    rw [hn, State.coreWrite_csumq _ _ _ _ hk] at hb
    refine State.runs_book hr hb ?_
    split
    · exact State.book_csumClear _ _ (begun_running hr)
    · exact Book.refl _
  · exact cwr_ignored hr h (by rw [hn]; decide) (.inr ⟨Bool.eq_false_iff.mpr hk, by rw [hn]; rfl⟩)

/-- A CWR of HOL_CNTCTL with CLEAR leaves the hollander's counters at zero, and changes nothing else (R281). -/
theorem cwr_holCntctl {g : Reg} {n : BitVec 16} (hr : Ready s k) (h : regAllowed ((begun s k).core k) (n.toNat * 8) = true) (hk : isSlot k = true)
    (hn : n.toNat * 8 = HOL_CNTCTL) : ∃ t, exec (.cwr k g n) s = .next t ∧ Book (goNext (begun s k) k) t ∧
      (((begun s k).greg k g).getLsbD 8 = true → ∀ o ∈ [HOL_BYTES, HOL_RAUSE, HOL_RADROP], t.creg k o = 0) := by
  have hb := bodyCwr_writes (g := g) h (by rw [hn]; decide) (by rw [hn, hk]; rfl)
  have hm : cwrMask HOL_CNTCTL = 0xFFFFFFFF := by decide
  have hbit : ((begun s k).greg k g &&& cwrMask HOL_CNTCTL).getLsbD 8 = ((begun s k).greg k g).getLsbD 8 := by simp [hm]
  rw [hn, State.coreWrite_holCntctl _ _ _ _ hk, hbit] at hb
  refine ⟨_, State.instr_ok hr hb, (Book.goNext ?_ k).trans (State.book_retire _ k none 1), fun hv o ho => ?_⟩
  · split
    · exact Book.ofRegs _ k _ (Core.same_holClear _)
    · exact Book.refl _
  · rw [State.creg_retire_hol _ _ _ _ _ ho, if_pos hv, State.creg, State.core_updCore_self]
    exact Core.reg_holClear _ ho

/-- A CWR of ENG_FCTL asks for what its bits 1 and 0 say (R238). -/
theorem cwr_fctl {g : Reg} {n : BitVec 16} (hr : Ready s k) (h : regAllowed ((begun s k).core k) (n.toNat * 8) = true) (hk : isSlot k = true)
    (hn : n.toNat * 8 = ENG_FCTL) : Runs (.cwr k g n) s (goNext ((begun s k).updCore k
      (fun c => c.writeFctl (((begun s k).greg k g).getLsbD 1) (((begun s k).greg k g).getLsbD 0))) k) := by
  have hb := bodyCwr_writes (g := g) h (by rw [hn]; decide) (by rw [hn, hk]; rfl)
  have hm : cwrMask ENG_FCTL = 0xFFFFFFFF := by decide
  have hbit1 : ((begun s k).greg k g &&& cwrMask ENG_FCTL).getLsbD 1 = ((begun s k).greg k g).getLsbD 1 := by simp [hm]
  have hbit0 : ((begun s k).greg k g &&& cwrMask ENG_FCTL).getLsbD 0 = ((begun s k).greg k g).getLsbD 0 := by simp [hm]
  rw [hn, State.coreWrite_fctl _ _ _ _ hk, hbit1, hbit0] at hb
  exact State.runs_book hr hb (State.book_writeFctl _ _ _ _)

end Sys2Proof.Machine

open Sys2Proof.Machine

/-- Settles O11: outside 0x1000 to 0x1FFF both bodies raise before they read or write; inside, each kind of register has its law. That the summary queue stays rests on the fetch, which leaves the core running. -/
theorem userModeControlRegisters : Obligations.UserModeControlRegisters := by
  intro s k r n hr u off v hsup
  have allowed := regAllowed_user hsup
  refine ⟨fun hout => ?_, fun hlo hhi => ?_⟩
  · have hno : regAllowed (u.core k) off = false := by rw [allowed, Bool.and_eq_false_iff, decide_eq_false_iff_not, decide_eq_false_iff_not]; omega
    exact ⟨State.instr_raise hr (bodyCrd_refused hno), State.instr_raise hr (bodyCwr_refused hno)⟩
  · have hyes : regAllowed (u.core k) off = true := by rw [allowed, Bool.and_eq_true, decide_eq_true_eq, decide_eq_true_eq]; omega
    refine ⟨crd_reads hr hyes, cwrStores_of_plain hr hyes hlo, fun h => ?_,
      fun hk hn => State.instr_raise hr (bodyCwr_numericMode hyes hk hn), cwr_fctl hr hyes, cwr_holCntctl hr hyes⟩
    rcases h with h | h | h
    · exact cwr_ignored hr hyes hlo (.inl h)
    · exact cwr_ignored hr hyes hlo (.inr h)
    · exact cwr_csumq hr hyes h

end

section
/-! Exception entry (R222): what the core that takes it holds afterwards, that its dry sheets stay, and that the other cores keep everything but their counters. -/

namespace Sys2Proof.Machine

variable (s : State) (k : Nat)

-- CORE_ESTATE

/-- MODE is supervisor, and IE and EE are clear. -/
theorem getLsbD_estateEnter_low (e : Word) {i : Nat} (h : i < 3) : (estateEnter e).getLsbD i = decide (i = 0) := by
  match i, h with
  | 0, _ => simp [estateEnter]
  | 1, _ => simp [estateEnter]
  | 2, _ => simp [estateEnter]

/-- PMODE, PIE and PEE take MODE, IE and EE. -/
theorem getLsbD_estateEnter_prev (e : Word) {i : Nat} (h : i < 3) : (estateEnter e).getLsbD (i + 4) = e.getLsbD i := by
  match i, h with
  | 0, _ => simp [estateEnter]
  | 1, _ => simp [estateEnter]
  | 2, _ => simp [estateEnter]

-- the squash that goes before

/-- The sheets that a squash keeps are the dry ones, in their order (R233). -/
theorem Eng.squash_headbox (e : Eng) : e.squash.1.headbox = e.headbox.filter (fun h => !h.wet) := rfl

/-- A squash changes the headbox and the next sheet's number alone. -/
theorem Eng.squash_frame (e : Eng) : { e.squash.1 with headbox := e.headbox, nextSeq := e.nextSeq } = e := rfl

/-- A squash leaves its core as it was, but for the wet sheets and the counters. -/
theorem State.same_squash_self : SameCore { s.core k with eng := (s.core k).eng.squash.1 } ((s.squash k).core k) := by
  have h := (s.book_squash k).core k
  rwa [State.core_updCore_self] at h

/-- A squash changes another core in its counters and pending bits alone. -/
theorem State.same_squash_other {j : Nat} (h : j ≠ k) : SameCore (s.core j) ((s.squash k).core j) := by
  have hs := (s.book_squash k).core j
  rwa [State.core_updCore, if_neg h] at hs

-- the entry

/-- `d` is core `c` but for its registers. -/
def RegsOnly (c d : Core) : Prop := ∃ regs, d = { c with regs := regs }

theorem SameCore.regsOnly {c d : Core} (h : SameCore c d) : RegsOnly c d := ⟨_, h.eq⟩

theorem RegsOnly.setReg {c d : Core} (h : RegsOnly c d) (off : Nat) (w : Word) : RegsOnly c (d.setReg off w) := by
  obtain ⟨_, rfl⟩ := h
  exact ⟨_, rfl⟩

/-- A core with its exception registers written, for whatever words CORE_EPC, CORE_ECAUSE, CORE_EADDR and CORE_EINFO take (R222). -/
def Core.excRegs (c : Core) (epc cause addr info : Word) : Core :=
  let c := (((c.setReg CORE_EPC epc).setReg CORE_ECAUSE cause).setReg CORE_EADDR addr).setReg CORE_EINFO info
  c.setReg CORE_ESTATE (estateEnter (c.reg CORE_ESTATE))

theorem RegsOnly.excRegs {c d : Core} (h : RegsOnly c d) (epc cause addr info : Word) : RegsOnly c (d.excRegs epc cause addr info) :=
  ((((h.setReg _ epc).setReg _ cause).setReg _ addr).setReg _ info).setReg _ _

theorem Core.reg_excRegs (c : Core) (epc cause addr info : Word) :
    let d := c.excRegs epc cause addr info
    d.reg CORE_EPC = epc ∧ d.reg CORE_ECAUSE = cause ∧ d.reg CORE_EADDR = addr ∧ d.reg CORE_EINFO = info ∧
      d.reg CORE_ESTATE = estateEnter (c.reg CORE_ESTATE) := by
  simp [Core.excRegs, Core.reg_setReg, CORE_EPC, CORE_ECAUSE, CORE_EADDR, CORE_EINFO, CORE_ESTATE]

/-- CORE_ECAUSE of an exception: ASYNC, SUB and CODE (R223). -/
def ecauseOf (code sub : Nat) (async : Bool) : Word := BitVec.ofNat 64 (b2n async * 2 ^ 31 + (sub % 256) * 256 + code)

theorem ecauseOf_eq (code : Nat) {sub : Nat} (h : sub < 256) (async : Bool) :
    ecauseOf code sub async = BitVec.ofNat 64 (code + 2 ^ 8 * sub + if async then 2 ^ 31 else 0) := by
  have hasync : b2n async * 2 ^ 31 = if async then 2 ^ 31 else 0 := by cases async <;> simp [b2n]
  rw [ecauseOf, Nat.mod_eq_of_lt h, hasync, Nat.add_assoc, Nat.add_comm, Nat.add_comm (sub * 256), Nat.mul_comm sub, (by decide : 256 = 2 ^ 8)]

/-- CORE_EINFO of an exception: VALID and the index of a customer instruction's micro-op. -/
def einfoOf (uidx : Option Nat) : Word := match uidx with | some u => BitVec.ofNat 64 (256 + u % 32) | none => 0

theorem einfoOf_some {u : Nat} (h : u < 32) : einfoOf (some u) = BitVec.ofNat 64 (2 ^ 8 + u) := by
  rw [einfoOf, Nat.mod_eq_of_lt h, (by decide : 256 = 2 ^ 8)]

variable (code sub : Nat) (async : Bool) (addr epc : Word) (uidx : Option Nat)

/-- After the squash, an exception writes the registers and moves the pc of its core alone. -/
theorem State.takeException_eq : s.takeException k code sub async addr epc uidx = (s.squash k).updCore k (fun c =>
    let c := c.excRegs (epc &&& ~~~3) (ecauseOf code sub async) addr (einfoOf uidx)
    { c with pc := c.actReg CORE_EVEC &&& ~~~3, run := .running, dbgStep := false }) := rfl

/-- What the exception registers read after an exception. -/
theorem State.creg_takeException :
    let t := s.takeException k code sub async addr epc uidx
    t.creg k CORE_EPC = epc &&& ~~~3 ∧ t.creg k CORE_ECAUSE = ecauseOf code sub async ∧ t.creg k CORE_EADDR = addr ∧
      t.creg k CORE_EINFO = einfoOf uidx ∧ t.creg k CORE_ESTATE = estateEnter (s.creg k CORE_ESTATE) := by
  have estate : ((s.squash k).core k).reg CORE_ESTATE = s.creg k CORE_ESTATE := (s.same_squash_self k).reg (by decide)
  have reads := ((s.squash k).core k).reg_excRegs (epc &&& ~~~3) (ecauseOf code sub async) addr (einfoOf uidx)
  rw [State.takeException_eq, ← estate]
  simp only [State.creg, State.core_updCore_self]
  exact reads

/-- But for its registers, the core that takes an exception changes only in its sheets, in where it goes on, and in that it runs. -/
theorem State.core_takeException : ∃ regs, (s.takeException k code sub async addr epc uidx).core k =
    { s.core k with regs := regs, eng := (s.core k).eng.squash.1, pc := (s.core k).actReg CORE_EVEC &&& ~~~3, run := .running, dbgStep := false } := by
  obtain ⟨regs, h⟩ := (s.same_squash_self k).regsOnly.excRegs (epc &&& ~~~3) (ecauseOf code sub async) addr (einfoOf uidx)
  rw [State.takeException_eq, State.core_updCore_self, h]
  exact ⟨_, rfl⟩

theorem State.core_takeException_other {j : Nat} (h : j ≠ k) :
    (s.takeException k code sub async addr epc uidx).core j = (s.squash k).core j := by
  rw [State.takeException_eq, State.core_updCore, if_neg h]

/-- An exception changes no memory and no felt. -/
theorem State.sameMemory_takeException : SameMemory s (s.takeException k code sub async addr epc uidx) := by
  refine ⟨fun a => ?_, fun j a => ?_⟩
  · rw [State.takeException_eq, State.updCore_mem, (s.book_squash k).mem, State.updCore_mem]
  · unfold State.feltByte
    by_cases h : j = k
    · obtain ⟨regs, hc⟩ := s.core_takeException k code sub async addr epc uidx
      rw [h, hc]; rfl
    · rw [s.core_takeException_other k code sub async addr epc uidx h, (s.same_squash_other k h).eq]

end Sys2Proof.Machine

open Sys2Proof.Machine

/-- Settles O9: the entry writes the exception registers and the pc of a core of which the squash has left everything but the wet sheets and the counters. -/
theorem exceptionEntry : Obligations.ExceptionEntry := by
  intro s k code sub async addr epc uidx _ hsub huidx t
  obtain ⟨hepc, hcause, haddr, hinfo, hestate⟩ := s.creg_takeException k code sub async addr epc uidx
  obtain ⟨regs, hcore⟩ : ∃ regs, t.core k = _ := s.core_takeException k code sub async addr epc uidx
  have low : ∀ i, i < 3 → (t.creg k CORE_ESTATE).getLsbD i = decide (i = 0) := fun i hi => by rw [hestate, getLsbD_estateEnter_low _ hi]
  refine ⟨hepc, hcause.trans (ecauseOf_eq code hsub async), haddr, hinfo.trans ?_, low 0 (by decide), low 1 (by decide),
    low 2 (by decide), fun i hi => by rw [hestate, getLsbD_estateEnter_prev _ hi], ?_, ?_, ?_, ?_, fun r => ?_, fun r => ?_, ?_,
    s.sameMemory_takeException .., fun j hj => ?_⟩
  · cases uidx with
    | none => rfl
    | some u => exact einfoOf_some (huidx u rfl)
  · rw [hcore]
  · rw [hcore]
  · rw [hcore]; exact Eng.squash_headbox _
  · rw [hcore]; exact Eng.squash_frame _
  · rw [State.greg, hcore]; rfl
  · rw [State.freg, hcore]; rfl
  · rw [hcore]
  · rw [s.core_takeException_other k code sub async addr epc uidx hj]
    exact s.same_squash_other k hj

end
